-- ==== Sys2Proof/Word.lean ====
section
/-! DEFINITION. The word types of the Sarastan: 32-bit registers and words, 64-bit addresses, bytes, lane masks. -/

namespace Sys2Proof

/-- A 32-bit register value or instruction word (R50, R220). -/
abbrev Word := BitVec 32

/-- A 64-bit address or register pair (R136, R220). -/
abbrev DWord := BitVec 64

/-- One byte of memory (R1). -/
abbrev Byte := BitVec 8

/-- One bit per lane of a group, lane `l` in bit `l` (R24). -/
abbrev LaneMask := BitVec 96

/-- A 16-bit sector tag: format code in bits 7:0, scale in bits 15:8 (R8, TAG). -/
abbrev Tag := BitVec 16

end Sys2Proof
end

