-- ==== Sys2Proof/Syntax.lean ====
section
/-! DEFINITION. The instructions and events of spec/opcode_table.json, one constructor a row: first the 224 rows with a
word of their own (the fields of Tables 03-2 to 03-15, in the table's order), then the 117 device, host and management
events. What the device or the outside chooses in an event is an argument of its constructor. -/

namespace Sys2Proof

/-- An agent that executes Mulen words: a group of a team, or the courier of a core (R19, R21). -/
inductive Agent where
  | grp (team gint : Nat)
  | courier (core : Nat)
  deriving DecidableEq, Repr

/-- What a scrub finds at a sector of HBM, or an uncorrectable error in another array of the device (R269, Table 10-5, log 41): a line
of a core's L1, the L2 copy of the sector, a line of a pod's instruction cache, an entry of a core's TLB, a sector of a
team's stash, a register of a group by class (0 vector, 1 scalar, 2 predicate) and number. -/
inductive Soft where
  | clean
  | corrected
  | uncorrectable
  | inL1 (core line : Nat)
  | inL2
  | inIcache (pod line : Nat)
  | inTlb (core entry : Nat)
  | inStash (team sector : Nat)
  | inReg (team gint cls reg : Nat)
  deriving DecidableEq, Repr

/-- The operation of a global or stash atomic (Table 06-5, R152, R153). -/
inductive AtomK where
  | addI32 | addF32 | addI64 | addF16x2
  | minI32 | minN32 | minF32 | minI64
  | maxI32 | maxN32 | maxF32 | maxI64
  | and32 | or32 | xor32 | exch
  | cas32 | cas64
  deriving DecidableEq, Repr

/-- An access of a peer device to this device's local memory (R396). -/
inductive PeerReq where
  | load (pa size : Nat)
  | store (pa : Nat) (data : List Byte)
  | atomic (k : AtomK) (pa : Nat) (data new : DWord)
  | ldt (pa : Nat)
  | stt (pa : Nat) (tag : Tag)
  deriving DecidableEq, Repr

/-- The instructions and events, one constructor per row of the opcode table. -/
inductive Instr where
  /-- IADD (R81): Adds a and b modulo 2^32 in each active lane. -/
  | iadd (g : BitVec 3) (d : BitVec 7) (a : BitVec 7) (b : BitVec 7)
  /-- ISUB (R81): Subtracts b from a modulo 2^32 in each active lane. -/
  | isub (g : BitVec 3) (d : BitVec 7) (a : BitVec 7) (b : BitVec 7)
  /-- IMUL (R81): Writes the low 32 bits of a times b. -/
  | imul (g : BitVec 3) (d : BitVec 7) (a : BitVec 7) (b : BitVec 7)
  /-- IMAD (R81): Writes the low 32 bits of a times b plus d. -/
  | imad (g : BitVec 3) (d : BitVec 7) (a : BitVec 7) (b : BitVec 7)
  /-- IMULH_I32 (R81): Writes the high word of the signed 64-bit product. -/
  | imulhI32 (g : BitVec 3) (d : BitVec 7) (a : BitVec 7) (b : BitVec 7)
  /-- IMULH_N32 (R81): Writes the high word of the unsigned 64-bit product. -/
  | imulhN32 (g : BitVec 3) (d : BitVec 7) (a : BitVec 7) (b : BitVec 7)
  /-- MADW (R81): Adds the unsigned 32x32 product to the 64-bit pair d. -/
  | madw (g : BitVec 3) (d : BitVec 7) (a : BitVec 7) (b : BitVec 7)
  /-- ADD64 (R81): Adds two 64-bit pairs modulo 2^64. -/
  | add64 (g : BitVec 3) (d : BitVec 7) (a : BitVec 7) (b : BitVec 7)
  /-- IDIV_I32 (R82): Signed division rounding towards zero, with fixed results for zero and overflow. -/
  | idivI32 (g : BitVec 3) (d : BitVec 7) (a : BitVec 7) (b : BitVec 7)
  /-- IDIV_N32 (R82): Unsigned division with a fixed result for division by zero. -/
  | idivN32 (g : BitVec 3) (d : BitVec 7) (a : BitVec 7) (b : BitVec 7)
  /-- IREM_I32 (R82): Signed remainder with the sign of the dividend. -/
  | iremI32 (g : BitVec 3) (d : BitVec 7) (a : BitVec 7) (b : BitVec 7)
  /-- IREM_N32 (R82): Unsigned remainder. -/
  | iremN32 (g : BitVec 3) (d : BitVec 7) (a : BitVec 7) (b : BitVec 7)
  /-- IMIN_I32 (R81): Signed minimum. -/
  | iminI32 (g : BitVec 3) (d : BitVec 7) (a : BitVec 7) (b : BitVec 7)
  /-- IMIN_N32 (R81): Unsigned minimum. -/
  | iminN32 (g : BitVec 3) (d : BitVec 7) (a : BitVec 7) (b : BitVec 7)
  /-- IMAX_I32 (R81): Signed maximum. -/
  | imaxI32 (g : BitVec 3) (d : BitVec 7) (a : BitVec 7) (b : BitVec 7)
  /-- IMAX_N32 (R81): Unsigned maximum. -/
  | imaxN32 (g : BitVec 3) (d : BitVec 7) (a : BitVec 7) (b : BitVec 7)
  /-- AND (R84): Bitwise and. -/
  | and (g : BitVec 3) (d : BitVec 7) (a : BitVec 7) (b : BitVec 7)
  /-- OR (R84): Bitwise or. -/
  | or (g : BitVec 3) (d : BitVec 7) (a : BitVec 7) (b : BitVec 7)
  /-- XOR (R84): Bitwise exclusive or. -/
  | xor (g : BitVec 3) (d : BitVec 7) (a : BitVec 7) (b : BitVec 7)
  /-- ANDN (R84): Bitwise a and not b. -/
  | andn (g : BitVec 3) (d : BitVec 7) (a : BitVec 7) (b : BitVec 7)
  /-- SHL (R84): Logical left shift, 0 for counts of 32 or more. -/
  | shl (g : BitVec 3) (d : BitVec 7) (a : BitVec 7) (b : BitVec 7)
  /-- SHR (R84): Logical right shift, 0 for counts of 32 or more. -/
  | shr (g : BitVec 3) (d : BitVec 7) (a : BitVec 7) (b : BitVec 7)
  /-- SAR (R84): Arithmetic right shift. -/
  | sar (g : BitVec 3) (d : BitVec 7) (a : BitVec 7) (b : BitVec 7)
  /-- ROTL (R84): Rotate left by b mod 32. -/
  | rotl (g : BitVec 3) (d : BitVec 7) (a : BitVec 7) (b : BitVec 7)
  /-- CLZ (R84): Counts leading zero bits. -/
  | clz (g : BitVec 3) (d : BitVec 7) (a : BitVec 7)
  /-- POPC (R84): Counts one bits. -/
  | popc (g : BitVec 3) (d : BitVec 7) (a : BitVec 7)
  /-- BREV (R84): Reverses the bits of a. -/
  | brev (g : BitVec 3) (d : BitVec 7) (a : BitVec 7)
  /-- NOT (R84): Bitwise complement. -/
  | not (g : BitVec 3) (d : BitVec 7) (a : BitVec 7)
  /-- BFX_I32 (R85): Extracts a bit field and sign-extends it. -/
  | bfxI32 (g : BitVec 3) (d : BitVec 7) (a : BitVec 7) (b : BitVec 7)
  /-- BFX_N32 (R85): Extracts a bit field and zero-extends it. -/
  | bfxN32 (g : BitVec 3) (d : BitVec 7) (a : BitVec 7) (b : BitVec 7)
  /-- BFI (R85): Inserts the low bits of a into a field of d. -/
  | bfi (g : BitVec 3) (d : BitVec 7) (a : BitVec 7) (b : BitVec 7)
  /-- ISEL (R80): Selects a or b per lane by the predicate named in g. -/
  | isel (g : BitVec 3) (d : BitVec 7) (a : BitVec 7) (b : BitVec 7)
  /-- IABS (R81): Absolute value modulo 2^32. -/
  | iabs (g : BitVec 3) (d : BitVec 7) (a : BitVec 7)
  /-- INEG (R81): Negation modulo 2^32. -/
  | ineg (g : BitVec 3) (d : BitVec 7) (a : BitVec 7)
  /-- MOV (R81): Copies a to d. -/
  | mov (g : BitVec 3) (d : BitVec 7) (a : BitVec 7)
  /-- LANE (R81): Writes each active lane's index 0 to 95. -/
  | lane (g : BitVec 3) (d : BitVec 7)
  /-- FADD (R124): FP32 addition with one rounding. -/
  | fadd (g : BitVec 3) (d : BitVec 7) (a : BitVec 7) (b : BitVec 7)
  /-- FSUB (R124): FP32 subtraction. -/
  | fsub (g : BitVec 3) (d : BitVec 7) (a : BitVec 7) (b : BitVec 7)
  /-- FMUL (R124): FP32 multiplication. -/
  | fmul (g : BitVec 3) (d : BitVec 7) (a : BitVec 7) (b : BitVec 7)
  /-- FFMA (R124): FP32 fused multiply-add into d. -/
  | ffma (g : BitVec 3) (d : BitVec 7) (a : BitVec 7) (b : BitVec 7)
  /-- FMIN (R124): FP32 minimum skipping NaN. -/
  | fmin (g : BitVec 3) (d : BitVec 7) (a : BitVec 7) (b : BitVec 7)
  /-- FMAX (R124): FP32 maximum skipping NaN. -/
  | fmax (g : BitVec 3) (d : BitVec 7) (a : BitVec 7) (b : BitVec 7)
  /-- FABS (R124): Clears the sign bit. -/
  | fabs (g : BitVec 3) (d : BitVec 7) (a : BitVec 7)
  /-- FNEG (R124): Inverts the sign bit. -/
  | fneg (g : BitVec 3) (d : BitVec 7) (a : BitVec 7)
  /-- FDIV (R124): Correctly rounded FP32 division. -/
  | fdiv (g : BitVec 3) (d : BitVec 7) (a : BitVec 7) (b : BitVec 7)
  /-- FSQRT (R124): Correctly rounded FP32 square root. -/
  | fsqrt (g : BitVec 3) (d : BitVec 7) (a : BitVec 7)
  /-- FSCALE (R124): Multiplies a by 2 to the integer b. -/
  | fscale (g : BitVec 3) (d : BitVec 7) (a : BitVec 7) (b : BitVec 7)
  /-- FCLS (R125): Classifies the FP32 value of a into one set bit. -/
  | fcls (g : BitVec 3) (d : BitVec 7) (a : BitVec 7)
  /-- FRCP (R126): Approximate reciprocal. -/
  | frcp (g : BitVec 3) (d : BitVec 7) (a : BitVec 7)
  /-- FRSQ (R126): Approximate reciprocal square root. -/
  | frsq (g : BitVec 3) (d : BitVec 7) (a : BitVec 7)
  /-- FEX2 (R126): Approximate 2 to the a. -/
  | fex2 (g : BitVec 3) (d : BitVec 7) (a : BitVec 7)
  /-- FLG2 (R126): Approximate base-2 logarithm. -/
  | flg2 (g : BitVec 3) (d : BitVec 7) (a : BitVec 7)
  /-- FSIN (R126): Approximate sine. -/
  | fsin (g : BitVec 3) (d : BitVec 7) (a : BitVec 7)
  /-- FCOS (R126): Approximate cosine. -/
  | fcos (g : BitVec 3) (d : BitVec 7) (a : BitVec 7)
  /-- FRND (R127): Rounds to an integral FP32 value by the selected rule. -/
  | frnd (g : BitVec 3) (d : BitVec 7) (a : BitVec 7) (s : BitVec 7)
  /-- HADD2_F16 (R128): Adds two FP16 element pairs. -/
  | hadd2F16 (g : BitVec 3) (d : BitVec 7) (a : BitVec 7) (b : BitVec 7)
  /-- HMUL2_F16 (R128): Multiplies two FP16 element pairs. -/
  | hmul2F16 (g : BitVec 3) (d : BitVec 7) (a : BitVec 7) (b : BitVec 7)
  /-- HFMA2_F16 (R128): Fused multiply-add on two FP16 elements. -/
  | hfma2F16 (g : BitVec 3) (d : BitVec 7) (a : BitVec 7) (b : BitVec 7)
  /-- HMAX2_F16 (R128): Per-element FP16 maximum. -/
  | hmax2F16 (g : BitVec 3) (d : BitVec 7) (a : BitVec 7) (b : BitVec 7)
  /-- HADD2_BF16 (R128): Adds two BF16 element pairs. -/
  | hadd2Bf16 (g : BitVec 3) (d : BitVec 7) (a : BitVec 7) (b : BitVec 7)
  /-- HMUL2_BF16 (R128): Multiplies two BF16 element pairs. -/
  | hmul2Bf16 (g : BitVec 3) (d : BitVec 7) (a : BitVec 7) (b : BitVec 7)
  /-- HFMA2_BF16 (R128): Fused multiply-add on two BF16 elements. -/
  | hfma2Bf16 (g : BitVec 3) (d : BitVec 7) (a : BitVec 7) (b : BitVec 7)
  /-- HMAX2_BF16 (R128): Per-element BF16 maximum. -/
  | hmax2Bf16 (g : BitVec 3) (d : BitVec 7) (a : BitVec 7) (b : BitVec 7)
  /-- CVT (R129): Converts a by the selected form, narrowing under NMODE. -/
  | cvt (g : BitVec 3) (d : BitVec 7) (a : BitVec 7) (s : BitVec 7)
  /-- SCL (R131): Applies an E8M0 scale to an FP32 value. -/
  | scl (g : BitVec 3) (d : BitVec 7) (a : BitVec 7) (b : BitVec 7)
  /-- UPK (R132): Extracts and exactly widens one packed element. -/
  | upk (g : BitVec 3) (d : BitVec 7) (a : BitVec 7) (s : BitVec 7)
  /-- PK2 (R133): Narrows two FP32 registers into one packed word. -/
  | pk2 (g : BitVec 3) (d : BitVec 7) (a : BitVec 7) (b : BitVec 7)
  /-- PK4 (R133): Narrows four FP32 registers into one packed word. -/
  | pk4 (g : BitVec 3) (d : BitVec 7) (a : BitVec 7) (b : BitVec 7)
  /-- PK8 (R133): Narrows eight FP32 registers into one packed word. -/
  | pk8 (g : BitVec 3) (d : BitVec 7) (a : BitVec 7) (b : BitVec 7)
  /-- DOT4_E4M3 (R134): Exact four-element E4M3 dot product added to d with one rounding. -/
  | dot4E4m3 (g : BitVec 3) (d : BitVec 7) (a : BitVec 7) (b : BitVec 7)
  /-- DOT4_E5M2 (R134): Exact four-element E5M2 dot product with one rounding. -/
  | dot4E5m2 (g : BitVec 3) (d : BitVec 7) (a : BitVec 7) (b : BitVec 7)
  /-- DOT4_I8 (R135): Signed INT8 dot product into d modulo 2^32. -/
  | dot4I8 (g : BitVec 3) (d : BitVec 7) (a : BitVec 7) (b : BitVec 7)
  /-- DOT4_N8 (R135): Unsigned 8-bit dot product into d. -/
  | dot4N8 (g : BitVec 3) (d : BitVec 7) (a : BitVec 7) (b : BitVec 7)
  /-- DOT8_E2M1 (R134): Exact eight-element E2M1 dot product. -/
  | dot8E2m1 (g : BitVec 3) (d : BitVec 7) (a : BitVec 7) (b : BitVec 7)
  /-- DOT8_I4 (R135): Signed INT4 dot product into d. -/
  | dot8I4 (g : BitVec 3) (d : BitVec 7) (a : BitVec 7) (b : BitVec 7)
  /-- DOT2_F16 (R134): Exact two-element FP16 dot product. -/
  | dot2F16 (g : BitVec 3) (d : BitVec 7) (a : BitVec 7) (b : BitVec 7)
  /-- DOT2_BF16 (R134): Exact two-element BF16 dot product. -/
  | dot2Bf16 (g : BitVec 3) (d : BitVec 7) (a : BitVec 7) (b : BitVec 7)
  /-- SHFL_IDX (R91): Reads a from the lane given by b. -/
  | shflIdx (g : BitVec 3) (d : BitVec 7) (a : BitVec 7) (b : BitVec 7)
  /-- SHFL_XOR (R91): Reads a from lane l xor b. -/
  | shflXor (g : BitVec 3) (d : BitVec 7) (a : BitVec 7) (b : BitVec 7)
  /-- SHFL_UP (R91): Reads a from lane l minus b. -/
  | shflUp (g : BitVec 3) (d : BitVec 7) (a : BitVec 7) (b : BitVec 7)
  /-- SHFL_DN (R91): Reads a from lane l plus b. -/
  | shflDn (g : BitVec 3) (d : BitVec 7) (a : BitVec 7) (b : BitVec 7)
  /-- GRED (R95): Reduces the active lanes in a fixed tree. -/
  | gred (g : BitVec 3) (d : BitVec 7) (a : BitVec 7) (s : BitVec 7)
  /-- GSCAN (R96): Serial scan over the active lanes in lane order. -/
  | gscan (g : BitVec 3) (d : BitVec 7) (a : BitVec 7) (s : BitVec 7)
  /-- VOTE (R97): Votes any, all, uni, count or ballot over active lanes. -/
  | vote (g : BitVec 3) (d : BitVec 7) (a : BitVec 7) (s : BitVec 7)
  /-- BCAST (R92): Broadcasts one lane's value of a. -/
  | bcast (g : BitVec 3) (d : BitVec 7) (a : BitVec 7) (b : BitVec 7)
  /-- COMPACT (R98): Packs selected lanes' values towards low lanes. -/
  | compact (g : BitVec 3) (d : BitVec 7) (a : BitVec 7)
  /-- P2V (R93): Writes a predicate as 0 or 1 into a vector register. -/
  | p2v (g : BitVec 3) (d : BitVec 7) (s : BitVec 7)
  /-- V2P (R93): Sets a predicate from a vector register being non-zero. -/
  | v2p (g : BitVec 3) (a : BitVec 7) (s : BitVec 7)
  /-- ICMP (R89): Integer compare combined into a predicate. -/
  | icmp (g : BitVec 3) (p : BitVec 3) (c : BitVec 4) (a : BitVec 7) (b : BitVec 7) (f : BitVec 2)
  /-- FCMP (R89): FP32 compare combined into a predicate. -/
  | fcmp (g : BitVec 3) (p : BitVec 3) (c : BitVec 4) (a : BitVec 7) (b : BitVec 7) (f : BitVec 2)
  /-- PAND (R90): Predicate and. -/
  | pand (g : BitVec 3) (p : BitVec 3) (q : BitVec 3) (r : BitVec 3)
  /-- POR (R90): Predicate or. -/
  | por (g : BitVec 3) (p : BitVec 3) (q : BitVec 3) (r : BitVec 3)
  /-- PXOR (R90): Predicate exclusive or. -/
  | pxor (g : BitVec 3) (p : BitVec 3) (q : BitVec 3) (r : BitVec 3)
  /-- PNOT (R90): Predicate complement. -/
  | pnot (g : BitVec 3) (p : BitVec 3) (q : BitVec 3)
  /-- SBRA (R103): Branches the whole path when a scalar is non-zero. -/
  | sbra (s : BitVec 6) (n : BitVec 20)
  /-- LOOP (R41): Decrements a scalar and branches while it is non-zero. -/
  | loop (s : BitVec 6) (n : BitVec 20)
  /-- JMPI (R105): Branches each lane through a displacement table. -/
  | jmpi (g : BitVec 3) (d : BitVec 7) (a : BitVec 7) (b : BitVec 7)
  /-- MMA (R183): Issues a matrix product into the open batch, mustering a party if set. -/
  | mma (c : BitVec 7) (a : BitVec 6) (b : BitVec 6) (r : BitVec 1) (z : BitVec 1) (p : BitVec 2) (q : BitVec 2) (i : BitVec 1)
  /-- PEMIT_SYM (R200): Adds contributions to record i and subtracts them from record j. -/
  | pemitSym (g : BitVec 3) (a : BitVec 7)
  /-- PEMIT_ONE (R200): Adds contributions to record i only. -/
  | pemitOne (g : BitVec 3) (a : BitVec 7)
  /-- PEMIT_TWO (R200): Adds separate contributions to records i and j. -/
  | pemitTwo (g : BitVec 3) (a : BitVec 7)
  /-- IADDI (R83): Adds an immediate. -/
  | iaddi (g : BitVec 3) (d : BitVec 7) (a : BitVec 7) (i : BitVec 9)
  /-- ANDI (R83): Ands with an immediate. -/
  | andi (g : BitVec 3) (d : BitVec 7) (a : BitVec 7) (i : BitVec 9)
  /-- ORI (R83): Ors with an immediate. -/
  | ori (g : BitVec 3) (d : BitVec 7) (a : BitVec 7) (i : BitVec 9)
  /-- XORI (R83): Exclusive-ors with an immediate. -/
  | xori (g : BitVec 3) (d : BitVec 7) (a : BitVec 7) (i : BitVec 9)
  /-- SHLI (R83): Left shift by an immediate count. -/
  | shli (g : BitVec 3) (d : BitVec 7) (a : BitVec 7) (i : BitVec 9)
  /-- SHRI (R83): Logical right shift by an immediate count. -/
  | shri (g : BitVec 3) (d : BitVec 7) (a : BitVec 7) (i : BitVec 9)
  /-- SARI (R83): Arithmetic right shift by an immediate count. -/
  | sari (g : BitVec 3) (d : BitVec 7) (a : BitVec 7) (i : BitVec 9)
  /-- MOVI (R83): Writes an immediate. -/
  | movi (g : BitVec 3) (d : BitVec 7) (i : BitVec 9)
  /-- IMULI (R83): Multiplies by an immediate. -/
  | imuli (g : BitVec 3) (d : BitVec 7) (a : BitVec 7) (i : BitVec 9)
  /-- LD (R139): Loads global memory per active lane, leasing the line in L1. -/
  | ld (g : BitVec 3) (d : BitVec 7) (a : BitVec 7) (z : BitVec 3) (m : BitVec 6)
  /-- ST (R139): Stores to global memory per active lane through to the home. -/
  | st (g : BitVec 3) (d : BitVec 7) (a : BitVec 7) (z : BitVec 3) (m : BitVec 6)
  /-- LDS (R139): Loads from a stash address per active lane. -/
  | lds (g : BitVec 3) (d : BitVec 7) (a : BitVec 7) (z : BitVec 3) (m : BitVec 6)
  /-- STS (R139): Stores to a stash address per active lane. -/
  | sts (g : BitVec 3) (d : BitVec 7) (a : BitVec 7) (z : BitVec 3) (m : BitVec 6)
  /-- SLD (R139): Loads a scalar from global memory once per issue. -/
  | sld (g : BitVec 3) (d : BitVec 6) (a : BitVec 6) (z : BitVec 3) (m : BitVec 6)
  /-- SST (R139): Stores a scalar to global memory once per issue. -/
  | sst (g : BitVec 3) (d : BitVec 6) (a : BitVec 6) (z : BitVec 3) (m : BitVec 6)
  /-- LDT (R144): Reads the 16-bit tag of a global sector. -/
  | ldt (g : BitVec 3) (d : BitVec 7) (a : BitVec 7) (m : BitVec 6)
  /-- STT (R144): Writes the 16-bit tag of a global sector. -/
  | stt (g : BitVec 3) (d : BitVec 7) (a : BitVec 7) (m : BitVec 6)
  /-- PF (R145): Prefetches lines into L1 without faulting. -/
  | pf (g : BitVec 3) (a : BitVec 7) (m : BitVec 6)
  /-- LDX (R141): Indexed 32-bit load per lane. -/
  | ldx (g : BitVec 3) (d : BitVec 7) (a : BitVec 7) (b : BitVec 7) (c : BitVec 2)
  /-- STX (R141): Indexed 32-bit store per lane. -/
  | stx (g : BitVec 3) (d : BitVec 7) (a : BitVec 7) (b : BitVec 7) (c : BitVec 2)
  /-- HGATH (R142): Gathers up to 16 words of one page at their homes in one reply. -/
  | hgath (g : BitVec 3) (d : BitVec 7) (a : BitVec 7) (b : BitVec 7) (c : BitVec 2)
  /-- CPA_IN (R146): Starts a 16-byte-per-lane copy from global memory into the stash. -/
  | cpaIn (g : BitVec 3) (d : BitVec 7) (a : BitVec 7) (m : BitVec 6)
  /-- CPA_OUT (R146): Starts a 16-byte-per-lane copy from the stash to global memory. -/
  | cpaOut (g : BitVec 3) (d : BitVec 7) (a : BitVec 7) (m : BitVec 6)
  /-- ATOM_ADD (R151): Atomic add at the home, or a hamper record in a deterministic launch. -/
  | atomAdd (g : BitVec 3) (d : BitVec 7) (a : BitVec 7) (b : BitVec 7) (t : BitVec 2)
  /-- ATOM_MIN (R151): Atomic minimum at the home. -/
  | atomMin (g : BitVec 3) (d : BitVec 7) (a : BitVec 7) (b : BitVec 7) (t : BitVec 2)
  /-- ATOM_MAX (R151): Atomic maximum at the home. -/
  | atomMax (g : BitVec 3) (d : BitVec 7) (a : BitVec 7) (b : BitVec 7) (t : BitVec 2)
  /-- ATOM_AND (R151): Atomic bitwise and. -/
  | atomAnd (g : BitVec 3) (d : BitVec 7) (a : BitVec 7) (b : BitVec 7)
  /-- ATOM_OR (R151): Atomic bitwise or. -/
  | atomOr (g : BitVec 3) (d : BitVec 7) (a : BitVec 7) (b : BitVec 7)
  /-- ATOM_XOR (R151): Atomic bitwise exclusive or. -/
  | atomXor (g : BitVec 3) (d : BitVec 7) (a : BitVec 7) (b : BitVec 7)
  /-- ATOM_EXCH (R151): Atomic exchange. -/
  | atomExch (g : BitVec 3) (d : BitVec 7) (a : BitVec 7) (b : BitVec 7)
  /-- CAS (R152): Atomic compare-and-swap of 32 or 64 bits. -/
  | cas (g : BitVec 3) (d : BitVec 7) (a : BitVec 7) (b : BitVec 7) (t : BitVec 1)
  /-- SATOM (R153): Atomic operation on a 4-byte stash location. -/
  | satom (g : BitVec 3) (d : BitVec 7) (a : BitVec 7) (b : BitVec 7) (t : BitVec 2)
  /-- BRA (R103): Direct branch, diverging by guard. -/
  | bra (g : BitVec 3) (n : BitVec 23)
  /-- CALL (R104): Pushes a return entry and branches to the target. -/
  | call (g : BitVec 3) (n : BitVec 23)
  /-- SMOVI (R87): Sets a scalar to a sign-extended immediate. -/
  | smovi (d : BitVec 6) (i : BitVec 14)
  /-- HINT_IMM (R62): Widens the next word's immediate. -/
  | hintImm (h : BitVec 23)
  /-- HINT_MOD (R63): Overrides rounding, saturation, cache policy, read count, now or format for the next word. -/
  | hintMod (h : BitVec 18)
  /-- HINT_REP (R64): Repeats the next word with register steps. -/
  | hintRep (c : BitVec 6) (d : BitVec 2) (a : BitVec 2) (b : BitVec 2)
  /-- HINT_PREF (R62): Prefetches an instruction block into the pod instruction cache. -/
  | hintPref (h : BitVec 23)
  /-- HINT_BAR (R62): Names a stash barrier that the next cpa credits. -/
  | hintBar (h : BitVec 15)
  /-- DICT (R66): Executes two dictionary entries with register offsets. -/
  | dict (a : BitVec 10) (x : BitVec 3) (b : BitVec 10) (y : BitVec 3)
  /-- SADD (R86): Scalar add. -/
  | sadd (d : BitVec 6) (a : BitVec 6) (b : BitVec 6)
  /-- SSUB (R86): Scalar subtract. -/
  | ssub (d : BitVec 6) (a : BitVec 6) (b : BitVec 6)
  /-- SMUL (R86): Scalar multiply, low word. -/
  | smul (d : BitVec 6) (a : BitVec 6) (b : BitVec 6)
  /-- SAND (R86): Scalar and. -/
  | sand (d : BitVec 6) (a : BitVec 6) (b : BitVec 6)
  /-- SOR (R86): Scalar or. -/
  | sor (d : BitVec 6) (a : BitVec 6) (b : BitVec 6)
  /-- SXOR (R86): Scalar exclusive or. -/
  | sxor (d : BitVec 6) (a : BitVec 6) (b : BitVec 6)
  /-- SSHL (R86): Scalar left shift. -/
  | sshl (d : BitVec 6) (a : BitVec 6) (b : BitVec 6)
  /-- SSHR (R86): Scalar logical right shift. -/
  | sshr (d : BitVec 6) (a : BitVec 6) (b : BitVec 6)
  /-- SSAR (R86): Scalar arithmetic right shift. -/
  | ssar (d : BitVec 6) (a : BitVec 6) (b : BitVec 6)
  /-- SMIN_I32 (R86): Scalar signed minimum. -/
  | sminI32 (d : BitVec 6) (a : BitVec 6) (b : BitVec 6)
  /-- SMIN_N32 (R86): Scalar unsigned minimum. -/
  | sminN32 (d : BitVec 6) (a : BitVec 6) (b : BitVec 6)
  /-- SMAX_I32 (R86): Scalar signed maximum. -/
  | smaxI32 (d : BitVec 6) (a : BitVec 6) (b : BitVec 6)
  /-- SMAX_N32 (R86): Scalar unsigned maximum. -/
  | smaxN32 (d : BitVec 6) (a : BitVec 6) (b : BitVec 6)
  /-- SMOV (R86): Scalar copy. -/
  | smov (d : BitVec 6) (a : BitVec 6)
  /-- SSEL (R86): Scalar select by sd being non-zero. -/
  | ssel (d : BitVec 6) (a : BitVec 6) (b : BitVec 6)
  /-- SCMP_EQ (R86): Scalar compare equal. -/
  | scmpEq (d : BitVec 6) (a : BitVec 6) (b : BitVec 6)
  /-- SCMP_NE (R86): Scalar compare not equal. -/
  | scmpNe (d : BitVec 6) (a : BitVec 6) (b : BitVec 6)
  /-- SCMP_LT (R86): Scalar signed less than. -/
  | scmpLt (d : BitVec 6) (a : BitVec 6) (b : BitVec 6)
  /-- SCMP_LE (R86): Scalar signed less or equal. -/
  | scmpLe (d : BitVec 6) (a : BitVec 6) (b : BitVec 6)
  /-- SCMP_GT (R86): Scalar signed greater than. -/
  | scmpGt (d : BitVec 6) (a : BitVec 6) (b : BitVec 6)
  /-- SCMP_GE (R86): Scalar signed greater or equal. -/
  | scmpGe (d : BitVec 6) (a : BitVec 6) (b : BitVec 6)
  /-- SCMP_LTN (R86): Scalar unsigned less than. -/
  | scmpLtn (d : BitVec 6) (a : BitVec 6) (b : BitVec 6)
  /-- SCMP_LEN (R86): Scalar unsigned less or equal. -/
  | scmpLen (d : BitVec 6) (a : BitVec 6) (b : BitVec 6)
  /-- SCMP_GTN (R86): Scalar unsigned greater than. -/
  | scmpGtn (d : BitVec 6) (a : BitVec 6) (b : BitVec 6)
  /-- SCMP_GEN (R86): Scalar unsigned greater or equal. -/
  | scmpGen (d : BitVec 6) (a : BitVec 6) (b : BitVec 6)
  /-- RET (R104): Pops the quad's return entry and resumes there. -/
  | ret
  /-- EXIT (R106): Removes the issuing enabled lanes for good. -/
  | exit
  /-- REGANG (R102): Parks the issuing paths and pops the deferral stack. -/
  | regang
  /-- YIELD (R107): Gives way to other fragments and groups for one issue. -/
  | yield
  /-- BRK (R108): Raises TRAP with FAUX 0x8000_0000. -/
  | brk
  /-- TRAP (R212): Raises TRAP with a 12-bit code. -/
  | trap (c : BitVec 12)
  /-- RFE (R378): Restores the handler frame and resumes the team. -/
  | rfe
  /-- SLEEP (R164): Waits until CTIME has advanced by the given ticks. -/
  | sleep (a : BitVec 6)
  /-- WVALUE (R163): Waits until a global word equals a value. -/
  | wvalue (d : BitVec 6) (a : BitVec 6) (b : BitVec 6)
  /-- FENCE_ACQ (R158): Acquire fence at a scope. -/
  | fenceAcq (a : BitVec 6)
  /-- FENCE_REL (R158): Release fence at a scope. -/
  | fenceRel (a : BitVec 6)
  /-- FENCE_AR (R158): Acquire-release fence at a scope. -/
  | fenceAr (a : BitVec 6)
  /-- FENCE_NS (R158): Non-speculative full fence. -/
  | fenceNs (a : BitVec 6)
  /-- WPRED (R210): Waits for every predecessor launch to complete, then acquires. -/
  | wpred
  /-- SUCC (R209): Marks the team so successors may start. -/
  | succ
  /-- DRAIN (R211): Ends the flush epoch and hands off hamper records. -/
  | drain
  /-- WCNT (R162): Waits until an in-flight counter is at or below a threshold. -/
  | wcnt (a : BitVec 6) (b : BitVec 6)
  /-- TBAR (R166): Team barrier with implied team fence. -/
  | tbar
  /-- CBAR (R166): Cluster barrier with implied cluster fence. -/
  | cbar
  /-- GSYNC (R167): Grid barrier and flush point. -/
  | gsync
  /-- BINI (R169): Creates or destroys a stash barrier object. -/
  | bini (a : BitVec 6) (b : BitVec 6)
  /-- BARR (R169): Releases then arrives at a stash barrier object. -/
  | barr (a : BitVec 6) (b : BitVec 6)
  /-- BEXP (R169): Raises a barrier object's byte quota for the turn. -/
  | bexp (a : BitVec 6) (b : BitVec 6)
  /-- BWAIT (R169): Waits until the barrier's turn differs from a value, then acquires. -/
  | bwait (a : BitVec 6) (b : BitVec 6)
  /-- STMAP (R148): Maps part of the team's stash as a window onto a global range. -/
  | stmap (d : BitVec 6) (a : BitVec 6) (b : BitVec 6)
  /-- STUNMAP (R150): Writes back and releases a window. -/
  | stunmap (a : BitVec 6)
  /-- STFLUSH (R150): Writes back a window's dirty lines and keeps it. -/
  | stflush (a : BitVec 6)
  /-- CFLUSH (R218): Writes back dirty window and L2 lines of a range. -/
  | cflush (a : BitVec 6) (b : BitVec 6)
  /-- CINV (R218): Drops the core's L1 copies of a range. -/
  | cinv (a : BitVec 6) (b : BitVec 6)
  /-- MFENCE (R194): Closes the open matrix batch and returns its number. -/
  | mfence (d : BitVec 6)
  /-- MWAIT (R195): Waits until a matrix batch has drained. -/
  | mwait (a : BitVec 6)
  /-- MCJOIN (R172): Enrols the team in a multicast group. -/
  | mcjoin (d : BitVec 6) (a : BitVec 6)
  /-- MCLEAVE (R177): Withdraws the team from a multicast group. -/
  | mcleave (a : BitVec 6)
  /-- MCLOAD (R174): Requests one multicast sequence. -/
  | mcload (a : BitVec 6) (b : BitVec 6)
  /-- MCREL (R176): Releases a multicast ring slot. -/
  | mcrel (a : BitVec 6) (b : BitVec 6)
  /-- BCOPY (R179): Courier starts a strided bulk copy. -/
  | bcopy (a : BitVec 6)
  /-- BFILL (R180): Courier starts a pattern fill. -/
  | bfill (a : BitVec 6)
  /-- CRING (R181): Sets the courier completion ring. -/
  | cring (a : BitVec 6) (b : BitVec 6)
  /-- PLAUNCH (R198): Starts a pair launch from a descriptor. -/
  | plaunch (d : BitVec 6) (a : BitVec 6)
  /-- PFIN (R201): Finalizes a pair accumulator array into FP32 outputs. -/
  | pfin (a : BitVec 6)
  /-- PREAD (R202): Reads one pair accumulator channel at its home. -/
  | pread (d : BitVec 6) (a : BitVec 6) (b : BitVec 6)
  /-- TSPAWN (R203): Creates a search task from 16 scalars. -/
  | tspawn (a : BitVec 6)
  /-- TCHK (R205): Ends a task whose bound is strictly worse than the shadow. -/
  | tchk
  /-- IMPRV (R206): Offers a key and payload to an incumbent slot. -/
  | imprv (d : BitVec 6) (a : BitVec 6) (b : BitVec 6)
  /-- INCRD (R207): Reads an incumbent slot at the unit. -/
  | incrd (d : BitVec 6) (b : BitVec 6)
  /-- LAUNCH (R282): Enters a launch record into a launch queue. -/
  | launch (a : BitVec 6)
  /-- CLAUNCH (R285): Sends a child record to the pod aggregator. -/
  | claunch (a : BitVec 6)
  /-- MFSR (R215): Reads a special register, using the read latch for 64-bit pairs. -/
  | mfsr (d : BitVec 6) (r : BitVec 12)
  /-- MTSR (R215): Writes a special register that has no behaviour of its own. -/
  | mtsr (d : BitVec 6) (r : BitVec 12)
  /-- MTSR_GFLAGS (R120): Writes GFLAGS after every earlier flag-setting instruction completes. -/
  | mtsrGflags (d : BitVec 6)
  /-- MTSR_PARTY (R225): Writes party members and zeroes NEXTOP once the muster latch is empty. -/
  | mtsrParty (d : BitVec 6)
  /-- MTSR_GTCMP (R229): Stages the timer low word and disarms the timer. -/
  | mtsrGtcmp (d : BitVec 6)
  /-- MTSR_GTCMPH (R229): Writes the timer high word and arms the group timer. -/
  | mtsrGtcmph (d : BitVec 6)
  /-- MTSR_INCCTL (R247): Sets an incumbent slot from the stage and broadcasts it to every shadow. -/
  | mtsrIncctl (d : BitVec 6) (n : BitVec 3)
  /-- KTEAM (R214): Kills the issuing group's team. -/
  | kteam
  /-- TLBINV (R216): Invalidates translations of the issuing context. -/
  | tlbinv (a : BitVec 6) (b : BitVec 6)
  /-- SEVENT (R217): Raises a software event counter. -/
  | sevent (c : BitVec 12)
  /-- UNASSIGNED_ENCODING (R60): Issuing a word that no instruction encoding matches (op 0x00, unassigned f, SYS fn, hint kind or sz, or a non-zero zero field) raises ILLEGAL or RESERVED_BITS. -/
  | unassignedEncoding (w : Word)
  /-- LOAD_REPLY (R161): A load's value reaches its destination and IFC0 is lowered. -/
  | loadReply (op : Nat)
  /-- HOME_PERFORM (R264): A request reaches its home slice and is performed in arrival order. -/
  | homePerform (op part : Nat)
  /-- WRITE_COMPLETION (R161): NOW reaches a write's completion time and IFC3 is lowered. -/
  | writeCompletion (op : Nat)
  /-- LEASE_EXPIRY (R258): An L1 line's lease expires. -/
  | leaseExpiry (core line : Nat)
  /-- HORIZON_EXPIRY (R260): A buffered lease horizon passes and its entry is freed. -/
  | horizonExpiry (line : Nat)
  /-- L2_FILL (R260): An L2 miss is filled from HBM once a way is free. -/
  | l2Fill (line : Nat) (victim : Option Nat)
  /-- HELD_WRITE_PERFORM (R266): A write held by a pin, drain or page lock is performed when every hold ends. -/
  | heldWritePerform (op part : Nat)
  /-- REMAP_REPLY (R33): A retired slice answers REMAP and the requester rehashes and repeats. -/
  | remapReply (op part : Nat)
  /-- FORWARDED_ACCESS (R149): An access to a window-owned line is performed at the owning stash. -/
  | forwardedAccess (op part : Nat)
  /-- WINDOW_FIRST_TOUCH (R262): The home fills an absent window line into its stash after recall and horizon. -/
  | windowFirstTouch (team win line : Nat)
  /-- PROBE_AFTER_REPLY (R263): A probe held by a miss entry acts on the filled line. -/
  | probeAfterReply (op part : Nat)
  /-- SLICE_MAP_CHANGE (R325): Buckets move between slices and SMAPSN rises. -/
  | sliceMapChange (die : Nat) (moves : List (Nat × Nat))
  /-- SLICE_MAP_CHANGE_ABANDON (R325): A map change waiting 2^20 ticks is abandoned. -/
  | sliceMapChangeAbandon (die : Nat)
  /-- PAGE_MOVE (R34): Locks two pages and copies them between stacks. -/
  | pageMove (page partner : Nat)
  /-- PAGE_MOVE_SWITCH (R268): Switches the placement of both pages, hands over home state and unlocks. -/
  | pageMoveSwitch (page partner : Nat)
  /-- PLACEMENT_COUNTER_HALVING (R327): Every per-die page access counter halves. -/
  | placementCounterHalving
  /-- PATROL_SCRUB (R269): HBM sectors are read and corrected. -/
  | patrolScrub (sector : Nat) (found : Soft)
  /-- TRANSLATION_WALK (R322): A walker performs a two-stage walk and fills the TLBs. -/
  | translationWalk (core ctx : Nat) (va : DWord)
  /-- DICTIONARY_LOAD (R334): Loads a 4 KiB dictionary into a free place. -/
  | dictionaryLoad (core team : Nat)
  /-- ICACHE_FILL (R295): An instruction-cache fetch completes and unfreezes the group. -/
  | icacheFill (team gint : Nat)
  /-- CPA_COMPLETE (R146): A lane copy's bytes are written, IFC1 is lowered and a barrier credited. -/
  | cpaComplete (op : Nat)
  /-- BARRIER_CREDIT (R170): A byte credit reaches a barrier object and CHECK is applied. -/
  | barrierCredit (k : Nat)
  /-- BULK_COPY_UNIT (R179): The copy engine writes one 64-byte unit. -/
  | bulkCopyUnit (core : Nat) (dataError : Bool)
  /-- COPY_COMPLETION_RECORD (R181): A finished copy writes its completion record. -/
  | copyCompletionRecord (core : Nat)
  /-- MMA_OPERAND_FETCH (R193): Operand sectors of a matrix operation are fetched, pinned and tag-checked. -/
  | mmaOperandFetch (team gint k : Nat)
  /-- MMA_COMPLETE (R193): A matrix operation writes its accumulators. -/
  | mmaComplete (team gint k : Nat) (mismatch : Option (BitVec 2))
  /-- BATCH_DRAIN (R194): A closed batch drains, releasing pins and merging flags. -/
  | batchDrain (team gint : Nat)
  /-- HAMPER_RECORD_HANDOFF (R211): A hamper record moves to its home or the spill log. -/
  | hamperRecordHandoff (k : Nat) (spill : Bool)
  /-- HAMPER_EPOCH_APPLY (R211): A home applies a flush epoch's records in fixed order. -/
  | hamperEpochApply (ctx lid line : Nat)
  /-- MULTICAST_RELEASE (R174): A held sequence is released once every member has asked. -/
  | multicastRelease (die entry seq : Nat)
  /-- MULTICAST_TIMER_EXPIRY (R329): A held sequence is released by its timer. -/
  | multicastTimerExpiry (die entry seq : Nat)
  /-- MULTICAST_DELIVERY (R174): A fill is written into one member's ring slot. -/
  | multicastDelivery (die entry seq rank : Nat)
  /-- PAIR_BIN (R299): A pairing unit bins set B into cells. -/
  | pairBin (pod ctx lid : Nat)
  /-- PAIR_CANDIDATE_TEST (R297): A unit tests one candidate and enters accepted pairs in its basket. -/
  | pairCandidateTest (pod ctx lid : Nat)
  /-- BASKET_TIMER_FLUSH (R302): A basket is flushed 256 fabric cycles after its first pair. -/
  | basketTimerFlush (pod ctx lid : Nat)
  /-- PAIR_GROUP_START (R303): A flushed basket's pair group starts on a core with room. -/
  | pairGroupStart (pod ctx lid core : Nat)
  /-- PAIR_ADD (R200): An exact addition into a pair accumulator at its home. -/
  | pairAdd (k : Nat)
  /-- PAIR_LAUNCH_COMPLETE (R310): A pair launch finalizes if asked and writes its completion record. -/
  | pairLaunchComplete (ctx lid : Nat)
  /-- INCUMBENT_DECISION (R206): The incumbent unit decides a candidate and broadcasts an acceptance. -/
  | incumbentDecision (k : Nat)
  /-- SHADOW_UPDATE (R249): A pod shadow applies an accepted update. -/
  | shadowUpdate (pod slot : Nat)
  /-- TASK_DISPATCH (R291): The heap offers a task, dropping it if killed, else starting a task group. -/
  | taskDispatch (pod core : Nat)
  /-- TASK_SWEEP (R291): Drops queued tasks strictly worse than a new shadow key. -/
  | taskSweep (pod slot : Nat)
  /-- TASK_SPILL_REFILL (R290): Spilled task records return to the heap. -/
  | taskSpillRefill (pod ctx : Nat)
  /-- CHILD_GRID_TIMER_FLUSH (R286): A child grid is flushed 4,096 ticks after its first child. -/
  | childGridTimerFlush (pod k : Nat)
  /-- QUEUE_TAIL_OBSERVE (R392): The queue unit rereads a TAIL line after a write. -/
  | queueTailObserve (q : Nat)
  /-- QUEUE_TAKE (R275): Takes one launch record, checks it and enters or refuses it. -/
  | queueTake (q : Nat)
  /-- TEAM_DISPATCH (R279): Places a team or cluster on an allowed core with room. -/
  | teamDispatch (ctx lid : Nat) (cores : List Nat)
  /-- TEAM_RESTORE (R388): Restores a saved team onto a core. -/
  | teamRestore (k core : Nat)
  /-- LAUNCH_COMPLETE (R280): A launch completes and writes its completion record. -/
  | launchComplete (ctx lid : Nat)
  /-- REGANG_RELEASE (R102): Releases the lowest park address when nothing is runnable. -/
  | regangRelease (team gint : Nat)
  /-- SIBLING_HALT (R372): A halt reaches a sibling group, which stops after its skid. -/
  | siblingHalt (team gint : Nat)
  /-- HANDLER_ENTRY (R377): The primary group takes a frame and enters the handler. -/
  | handlerEntry (team : Nat)
  /-- GROUP_TIMER_FIRE (R229): An armed group timer raises TIMER. -/
  | groupTimerFire (team gint : Nat)
  /-- WATCHDOG_EXPIRY (R343): A wait exceeding the limit raises WATCHDOG. -/
  | watchdogExpiry (team gint : Nat)
  /-- SLEEP_EXPIRY (R164): A sleep's context ticks have passed. -/
  | sleepExpiry (who : Agent)
  /-- FENCE_COMPLETE (R158): A fence's conditions hold and it completes at time T. -/
  | fenceComplete (who : Agent)
  /-- QUANTUM_EXPIRY (R244): A context's quantum ends while other work waits. -/
  | quantumExpiry (core : Nat)
  /-- COURIER_START (R238): A courier agent starts when its context first becomes resident. -/
  | courierStart (core : Nat)
  /-- EVENT_COUNTER_ADD (R346): Adds an event to the context counter block. -/
  | eventCounterAdd (k : Nat)
  /-- THROTTLE_SCORE_HALVE (R294): Every group's locality score halves. -/
  | throttleScoreHalve (core : Nat)
  /-- THROTTLE_STARVATION_ADMIT (R294): A long-starved memory instruction takes an admitted place. -/
  | throttleStarvationAdmit (team gint : Nat)
  /-- GTIME_TICK (R245): GTIME advances by one tick. -/
  | gtimeTick
  /-- CORE_CYCLE (R244): A core cycle advances CYC and the issue ports choose gangs. -/
  | coreCycle (core : Nat)
  /-- TIME_SYNC_ADJUST (R397): Adjusts the GTIME rate towards the time source. -/
  | timeSyncAdjust (ppm : Int)
  /-- CLOCK_ADAPT (R403): The voltage and frequency loop changes core clocks. -/
  | clockAdapt (core mhz : Nat)
  /-- TELEMETRY_UPDATE (R403): Telemetry values are refreshed. -/
  | telemetryUpdate (page : Nat) (data : List Byte)
  /-- POWER_LIMIT_CROSSED (R403): A temperature or power limit is crossed. -/
  | powerLimitCrossed
  /-- HOST_CXL_MEM_READ (R365): A host read of the HDM window. -/
  | hostCxlMemRead (off len : Nat)
  /-- HOST_CXL_MEM_WRITE (R365): A host write to the HDM window. -/
  | hostCxlMemWrite (off : Nat) (data : List Byte)
  /-- HOST_TAG_APERTURE_READ (R254): A host read of sector tags. -/
  | hostTagApertureRead (off len : Nat)
  /-- HOST_TAG_APERTURE_WRITE (R254): A host write of sector tags. -/
  | hostTagApertureWrite (off : Nat) (data : List Byte)
  /-- HOST_SNOOP (R255): A host snoop answered at the proxy home. -/
  | hostSnoop (pa : Nat) (data : List Byte)
  /-- HOST_LINK_STATE_CHANGE (R245): The CXL host link goes down or comes up. -/
  | hostLinkStateChange (up : Bool)
  /-- PEER_REQUEST (R366): A peer access over Ellek Link reaches this device's memory. -/
  | peerRequest (peer : Nat) (req : PeerReq)
  /-- PEER_WRITE_ACK (R366): A peer acknowledges a write. -/
  | peerWriteAck (op part : Nat)
  /-- LINK_PORT_DOWN (R396): An Ellek port goes down and its in-flight requests fail. -/
  | linkPortDown (port : Nat)
  /-- LINK_PORT_UP (R397): An Ellek port trains within the skew bound. -/
  | linkPortUp (port skew : Nat)
  /-- DEVICE_RESET (R402): Resets the device and starts verification and self-tests. -/
  | deviceReset (imageOk : Bool)
  /-- SELF_TEST_PASS (R402): A function passes self-test and sets its READY bit. -/
  | selfTestPass (bit : Nat)
  /-- REGISTER_WRITE (R394): A host write to a management window field with no behaviour of its own. -/
  | registerWrite (off : Nat) (data : List Byte)
  /-- CONTEXT_SETUP (R404): Writes a context table entry. -/
  | contextSetup
  /-- CONTEXT_TEARDOWN (R405): Removes a context. -/
  | contextTeardown
  /-- QUEUE_DESCRIPTOR_WRITE (R405): Writes a launch queue descriptor. -/
  | queueDescriptorWrite
  /-- COURIER_RESTART (R239): Restarts a stopped courier at a given PC. -/
  | courierRestart
  /-- CORE_CONFIGURATION (R242): Writes CORECFG of one or every core. -/
  | coreConfiguration
  /-- SLOT_SETUP (R247): Sets an incumbent slot. -/
  | slotSetup
  /-- KILL (R380): Kills named teams of a context. -/
  | kill
  /-- PREEMPT_CONTEXT (R382): Pre-empts a context's teams. -/
  | preemptContext
  /-- SAVE_CONTEXT_WHOLE (R382): Saves a whole context into its image. -/
  | saveContextWhole
  /-- RESTORE_CONTEXT (R387): Checks and restores a save image. -/
  | restoreContext
  /-- STAGE2_INVALIDATION (R322): Invalidates stage-2 translations for a context. -/
  | stage2Invalidation
  /-- READ_DEVICE_COUNTERS (R347): Returns the six device counters. -/
  | readDeviceCounters
  /-- SET_HOST_FAULT_RING (R313): Sets the host fault ring and writes kept entries. -/
  | setHostFaultRing
  /-- BIND_PEER_INDEX (R395): Binds a peer index to ports and an identity. -/
  | bindPeerIndex
  /-- ATTACH_MANIFEST_INPUTS (R400): Attaches an input digest to a launch's manifest. -/
  | attachManifestInputs
  /-- TELEMETRY_READ_PAGE (R405): Returns a telemetry page. -/
  | telemetryReadPage
  /-- SET_POWER_CAP (R403): Sets the package power cap. -/
  | setPowerCap
  /-- SET_TELEMETRY_LIMITS (R405): Sets the power and temperature limits. -/
  | setTelemetryLimits
  /-- FIRMWARE_UPDATE (R401): Verifies and writes a new firmware image. -/
  | firmwareUpdate (signed : Bool)
  /-- MSIX_BIND (R393): Binds an MSI-X vector to a source. -/
  | msixBind
  /-- MSIX_ACKNOWLEDGE (R393): Acknowledges an interrupt source. -/
  | msixAcknowledge
  /-- MGMT_UNKNOWN_FUNCTION (R394): A command naming no listed function completes with STATUS 1. -/
  | mgmtUnknownFunction
  /-- RECOVERY_WRITE_PIECE (R401): Writes a 128-byte piece of a recovery image. -/
  | recoveryWritePiece
  /-- RECOVERY_COMMIT (R401): Verifies the recovery image and resets. -/
  | recoveryCommit (signed : Bool)
  /-- GET_VERSION (R399): SPDM version request. -/
  | getVersion
  /-- GET_CAPABILITIES (R399): SPDM capabilities request. -/
  | getCapabilities
  /-- NEGOTIATE_ALGORITHMS (R399): SPDM algorithm negotiation. -/
  | negotiateAlgorithms
  /-- GET_DIGESTS (R399): SPDM certificate digests request. -/
  | getDigests
  /-- GET_CERTIFICATE (R398): Returns the slot-0 certificate chain. -/
  | getCertificate
  /-- CHALLENGE (R399): SPDM challenge signed with the identity key. -/
  | challenge
  /-- GET_MEASUREMENTS (R399): Returns signed measurements. -/
  | getMeasurements
  /-- KEY_EXCHANGE (R399): Starts a secured SPDM session. -/
  | keyExchange
  /-- FINISH (R399): Completes a secured SPDM session. -/
  | finish
  /-- VENDOR_DEFINED_REQUEST (R400): Returns a signed launch manifest. -/
  | vendorDefinedRequest (ctx lid : Nat)
  /-- SELF_TEST_FAIL (R402): A function fails its self-test: its READY bit stays 0, it is reported in the failed self-test mask, and launches whose allowed pods have all failed become refusable. -/
  | selfTestFail (bit : Nat)
  /-- LANE_RETRAIN (R403): Per-lane link equalization retrains a link lane and raises its retrained-lane count in telemetry. -/
  | laneRetrain (port lane : Nat) (margin : Byte)
  deriving DecidableEq, Repr

end Sys2Proof
end

