-- ==== Sys2Proof/Machine/Operands.lean ====
section
/-! DEFINITION. Operand forms: which fields of a word name which registers, which values of a field are assigned, and
which hints a word accepts (R52 to R58, R62, R63, R70, R71). -/

namespace Sys2Proof.Machine

/-- The word formats of R53, and the events, which have none. -/
inductive Fmt where
  | A | I | M | X | T | P | Q | B | SB | SI | MM | S | H | D | event
  deriving DecidableEq, Repr

/-- A register operand: its number, which codes are legal in its field (vector codes 0 to 95, scalar codes 96 to 127, or
scalar numbers 0 to 63), how many registers it covers, their alignment, the greatest legal number, and its use. -/
structure Opd where
  no : Nat
  vec : Bool := false
  sca : Bool := false
  num : Bool := false
  n : Nat := 1
  al : Nat := 1
  max : Nat := 127
  rd : Bool := true
  wr : Bool := false
  deriving DecidableEq, Repr

/-- What a word says about its operands. `legal`: no cause of Table 03-20 in its fields; `bad`: a field out of the range
stated for it (OPERAND). `sr` is the special register it names. -/
structure Form where
  fmt : Fmt
  g : BitVec 3 := 7
  d : Option Opd := none
  a : Option Opd := none
  b : Option Opd := none
  acc : Option Opd := none
  legal : Bool := true
  bad : Bool := false
  sr : Option Nat := none
  modR : Bool := false
  modS : Bool := false
  modC : Bool := false
  modN : Bool := false
  modF : Bool := false
  bar : Bool := false
  courier : Bool := false
  /-- A word of the courier alone: no group runs it (R27, R178). -/
  engine : Bool := false
  /-- The predicate that the word writes. -/
  pd : Option Nat := none
  /-- The predicates that the word reads beside its guard. -/
  ps : List Nat := []
  /-- Kind of a hint word (Table 03-21). -/
  hk : Nat := 5
  deriving DecidableEq, Repr

namespace Operand

/-- A source of vector or scalar code. -/
def src {w : Nat} (x : BitVec w) : Opd := { no := x.toNat, vec := true, sca := true }
/-- A source that must be a vector code. -/
def vsrc {w : Nat} (x : BitVec w) : Opd := { no := x.toNat, vec := true }
/-- A source that must be a scalar code. -/
def ssrc {w : Nat} (x : BitVec w) : Opd := { no := x.toNat, sca := true }
/-- A vector destination. -/
def dst {w : Nat} (x : BitVec w) : Opd := { no := x.toNat, vec := true, rd := false, wr := true }
/-- A vector destination that is read as a source. -/
def upd {w : Nat} (x : BitVec w) : Opd := { no := x.toNat, vec := true, wr := true }
/-- A destination of vector or scalar code (gred, gscan, vote, bcast, R54). -/
def anyDst {w : Nat} (x : BitVec w) : Opd := { no := x.toNat, vec := true, sca := true, rd := false, wr := true }
/-- A scalar number read. -/
def sreg {w : Nat} (x : BitVec w) : Opd := { no := x.toNat, num := true, max := 63 }
/-- A scalar number written. -/
def sdst {w : Nat} (x : BitVec w) : Opd := { no := x.toNat, num := true, max := 63, rd := false, wr := true }
/-- A scalar number read and written. -/
def supd {w : Nat} (x : BitVec w) : Opd := { no := x.toNat, num := true, max := 63, wr := true }
/-- An even pair (R52). -/
def pair (o : Opd) : Opd := { o with n := 2, al := 2 }
/-- A quad of scalars, a multiple of 4 (R70). -/
def quad (o : Opd) : Opd := { o with n := 4, al := 4 }
/-- `n` registers; 2 and 4 of them are aligned when they are the data of an access (R55). -/
def wide (n : Nat) (o : Opd) : Opd := { o with n := n }
/-- The data of an access of `n` words, aligned to its size (R55). -/
def data (n : Nat) (o : Opd) : Opd := { o with n := n, al := n }
/-- An even base pair and a pitch: three scalars, even and at most 60 (R58). -/
def trip (x : BitVec 6) : Opd := { no := x.toNat, num := true, n := 3, al := 2, max := 60 }

/-- Words of an access of size code sz (Table 03-16). -/
def words (z : BitVec 3) : Nat := if z = 3 then 2 else if z = 4 then 4 else 1

/-- A legal selector of `upk` (R132). -/
def upkLegal (s : BitVec 7) : Bool :=
  let k := s.toNat / 8
  let i := s.toNat % 8
  match k with
  | 1 | 2 => decide (i < 2)
  | 3 | 4 | 6 => decide (i < 4)
  | 5 | 7 => true
  | _ => false

/-- No unassigned value in a MOD payload (Table 03-22). -/
def modLegal (h : BitVec 18) : Bool :=
  let r := h.extractLsb' 15 3
  (r = 0 || 4 ≤ r) && h.extractLsb' 13 2 ≠ 1 && h.extractLsb' 0 4 ≤ 8

/-- Assigned numbers of group registers (Table 08-4). -/
def srGroup (n : Nat) : Bool :=
  n ≤ 4 || (8 ≤ n && n ≤ 0xB) || (0x10 ≤ n && n ≤ 0x12) || (0x14 ≤ n && n ≤ 0x19) || n = 0x1C || n = 0x1D ||
  (0x20 ≤ n && n ≤ 0x37) || (0x40 ≤ n && n ≤ 0x4F) || (0x60 ≤ n && n ≤ 0x66)

/-- Assigned numbers of core and chip registers (Table 09-1). -/
def srChip (n : Nat) : Bool :=
  (0x100 ≤ n && n ≤ 0x106) || (0x108 ≤ n && n ≤ 0x10D) || n = 0x110 || n = 0x111 || (0x200 ≤ n && n ≤ 0x204) ||
  (0x210 ≤ n && n ≤ 0x23F) || (0x300 ≤ n && n ≤ 0x307)

/-- Assigned special-register numbers (R60). -/
def srAssigned (n : Nat) : Bool := srGroup n || srChip n

/-- The numbers a courier may name (R237). -/
def srCourier (n : Nat) : Bool :=
  n = 0x16 || n = 0x17 || n = 0x200 || n = 0x201 || n = 0x204 || (0x300 ≤ n && n ≤ 0x307)

/-- The privileged numbers (Table 09-1): GTIME, GTIMEH and SMAPSN are open to any code. -/
def srPrivileged (n : Nat) : Bool := srChip n && !(n = 0x200 || n = 0x201 || n = 0x204)

def fA (g : BitVec 3) (d a b : Opd) : Form := { fmt := .A, g := g, d := some d, a := some a, b := some b }
def fA1 (g : BitVec 3) (d a : Opd) : Form := { fmt := .A, g := g, d := some d, a := some a }
def fA0 (g : BitVec 3) (d : Opd) : Form := { fmt := .A, g := g, d := some d }
def fS (d a b : Option Opd) : Form := { fmt := .S, d := d, a := a, b := b }
/-- Format T: code 127 in d returns nothing (R56). -/
def fT (g : BitVec 3) (d a b : BitVec 7) (n : Nat) : Form :=
  { fmt := .T, g := g, d := if d = 127 then none else some { dst d with n := n, al := n }, a := some (pair (src a)),
    b := some { src b with n := n, al := n }, modN := true }
/-- Assigned values of a selector or size field (R60). -/
def sel (ok : Bool) (f : Form) : Form := { f with legal := ok }
/-- A predicate destination: pd = 7 raises OPERAND (R57). -/
def badPd (p : BitVec 3) (f : Form) : Form := { f with bad := p = 7, pd := some p.toNat }
/-- Accepts a MOD rounding field (Table 03-22). -/
def rnd (f : Form) : Form := { f with modR := true }
/-- Accepts MOD rounding and saturation. -/
def sat (f : Form) : Form := { f with modR := true, modS := true }
/-- Accepts MOD cache policy and read count. -/
def cac (f : Form) : Form := { f with modC := true }
/-- In the courier's subset (R71). -/
def co (f : Form) : Form := { f with courier := true }
/-- A word that starts or sets the bulk copy engine, which the courier alone does (R27). -/
def eng (f : Form) : Form := { f with courier := true, engine := true }

end Operand

open Operand

/-- The operand form of each word (Tables 03-16 to 03-25). -/
def form : Instr → Form
  | .iadd g d a b => fA g (dst d) (src a) (src b)
  | .isub g d a b => fA g (dst d) (src a) (src b)
  | .imul g d a b => fA g (dst d) (src a) (src b)
  | .imulhI32 g d a b => fA g (dst d) (src a) (src b)
  | .imulhN32 g d a b => fA g (dst d) (src a) (src b)
  | .idivI32 g d a b => fA g (dst d) (src a) (src b)
  | .idivN32 g d a b => fA g (dst d) (src a) (src b)
  | .iremI32 g d a b => fA g (dst d) (src a) (src b)
  | .iremN32 g d a b => fA g (dst d) (src a) (src b)
  | .iminI32 g d a b => fA g (dst d) (src a) (src b)
  | .iminN32 g d a b => fA g (dst d) (src a) (src b)
  | .imaxI32 g d a b => fA g (dst d) (src a) (src b)
  | .imaxN32 g d a b => fA g (dst d) (src a) (src b)
  | .and g d a b => fA g (dst d) (src a) (src b)
  | .or g d a b => fA g (dst d) (src a) (src b)
  | .xor g d a b => fA g (dst d) (src a) (src b)
  | .andn g d a b => fA g (dst d) (src a) (src b)
  | .shl g d a b => fA g (dst d) (src a) (src b)
  | .shr g d a b => fA g (dst d) (src a) (src b)
  | .sar g d a b => fA g (dst d) (src a) (src b)
  | .rotl g d a b => fA g (dst d) (src a) (src b)
  | .bfxI32 g d a b => fA g (dst d) (src a) (src b)
  | .bfxN32 g d a b => fA g (dst d) (src a) (src b)
  | .imad g d a b => fA g (upd d) (src a) (src b)
  | .madw g d a b => fA g (pair (upd d)) (src a) (src b)
  | .add64 g d a b => fA g (pair (dst d)) (pair (src a)) (pair (src b))
  | .clz g d a => fA1 g (dst d) (src a)
  | .popc g d a => fA1 g (dst d) (src a)
  | .brev g d a => fA1 g (dst d) (src a)
  | .not g d a => fA1 g (dst d) (src a)
  | .iabs g d a => fA1 g (dst d) (src a)
  | .ineg g d a => fA1 g (dst d) (src a)
  | .mov g d a => fA1 g (dst d) (src a)
  | .bfi g d a b => fA g (upd d) (src a) (src b)
  | .isel g d a b => { fA 7 (dst d) (src a) (src b) with ps := [g.toNat] }
  | .lane g d => fA0 g (dst d)
  | .fadd g d a b => rnd (fA g (dst d) (src a) (src b))
  | .fsub g d a b => rnd (fA g (dst d) (src a) (src b))
  | .fmul g d a b => rnd (fA g (dst d) (src a) (src b))
  | .ffma g d a b => rnd (fA g (upd d) (src a) (src b))
  | .fmin g d a b => fA g (dst d) (src a) (src b)
  | .fmax g d a b => fA g (dst d) (src a) (src b)
  | .fabs g d a => fA1 g (dst d) (src a)
  | .fneg g d a => fA1 g (dst d) (src a)
  | .fdiv g d a b => rnd (fA g (dst d) (src a) (src b))
  | .fscale g d a b => rnd (fA g (dst d) (src a) (src b))
  | .fsqrt g d a => rnd (fA1 g (dst d) (src a))
  | .fcls g d a => fA1 g (dst d) (src a)
  | .frcp g d a => fA1 g (dst d) (src a)
  | .frsq g d a => fA1 g (dst d) (src a)
  | .fex2 g d a => fA1 g (dst d) (src a)
  | .flg2 g d a => fA1 g (dst d) (src a)
  | .fsin g d a => fA1 g (dst d) (src a)
  | .fcos g d a => fA1 g (dst d) (src a)
  | .frnd g d a s => sel (s ≤ 4) (fA1 g (dst d) (src a))
  | .hadd2F16 g d a b => rnd (fA g (dst d) (src a) (src b))
  | .hmul2F16 g d a b => rnd (fA g (dst d) (src a) (src b))
  | .hmax2F16 g d a b => rnd (fA g (dst d) (src a) (src b))
  | .hadd2Bf16 g d a b => rnd (fA g (dst d) (src a) (src b))
  | .hmul2Bf16 g d a b => rnd (fA g (dst d) (src a) (src b))
  | .hmax2Bf16 g d a b => rnd (fA g (dst d) (src a) (src b))
  | .hfma2F16 g d a b => rnd (fA g (upd d) (src a) (src b))
  | .hfma2Bf16 g d a b => rnd (fA g (upd d) (src a) (src b))
  | .cvt g d a s => sat (sel (s ≤ 12) (fA1 g (dst d) (src a)))
  | .scl g d a b => sat (fA g (dst d) (src a) (src b))
  | .upk g d a s => sat (sel (upkLegal s) (fA1 g (dst d) (src a)))
  | .pk2 g d a b => sat (fA g (dst d) (wide 2 (vsrc a)) (ssrc b))
  | .pk4 g d a b => sat (fA g (dst d) (wide 4 (vsrc a)) (ssrc b))
  | .pk8 g d a b => sat (fA g (dst d) (wide 8 (vsrc a)) (ssrc b))
  | .dot4E4m3 g d a b => fA g (upd d) (src a) (src b)
  | .dot4E5m2 g d a b => fA g (upd d) (src a) (src b)
  | .dot4I8 g d a b => fA g (upd d) (src a) (src b)
  | .dot4N8 g d a b => fA g (upd d) (src a) (src b)
  | .dot8E2m1 g d a b => fA g (upd d) (src a) (src b)
  | .dot8I4 g d a b => fA g (upd d) (src a) (src b)
  | .dot2F16 g d a b => fA g (upd d) (src a) (src b)
  | .dot2Bf16 g d a b => fA g (upd d) (src a) (src b)
  | .shflIdx g d a b => fA g (dst d) (vsrc a) (src b)
  | .shflXor g d a b => fA g (dst d) (vsrc a) (src b)
  | .shflUp g d a b => fA g (dst d) (vsrc a) (src b)
  | .shflDn g d a b => fA g (dst d) (vsrc a) (src b)
  | .gred g d a s => sel (s ≤ 10) (fA1 g (anyDst d) (vsrc a))
  | .gscan g d a s => sel (s ≤ 10 || (16 ≤ s && s ≤ 26)) (fA1 g (anyDst d) (vsrc a))
  | .vote g d a s => sel (s ≤ 4) (fA1 g (if s = 4 && 96 ≤ d then { anyDst d with n := 3, max := 125 } else anyDst d) (vsrc a))
  | .bcast g d a b => fA g (anyDst d) (vsrc a) (ssrc b)
  | .compact g d a => { fA1 7 (dst d) (vsrc a) with ps := [g.toNat] }
  | .p2v g d s => sel (s ≤ 7) { fA0 g (dst d) with ps := [s.toNat] }
  | .v2p g a s => sel (s ≤ 6) { fmt := .A, g := g, a := some (src a), pd := some s.toNat }
  | .icmp g p c a b _ => sel (c ≤ 9) (badPd p { fmt := .P, g := g, a := some (src a), b := some (src b) })
  | .fcmp g p c a b _ => sel (c ≤ 7) (badPd p { fmt := .P, g := g, a := some (src a), b := some (src b) })
  | .pand g p q r => badPd p { fmt := .Q, g := g, ps := [q.toNat, r.toNat] }
  | .por g p q r => badPd p { fmt := .Q, g := g, ps := [q.toNat, r.toNat] }
  | .pxor g p q r => badPd p { fmt := .Q, g := g, ps := [q.toNat, r.toNat] }
  | .pnot g p q => badPd p { fmt := .Q, g := g, ps := [q.toNat] }
  | .sbra s _ => { fmt := .SB, a := some (sreg s), courier := true }
  | .loop s _ => { fmt := .SB, d := some (supd s), courier := true }
  | .jmpi g d a b => { fmt := .A, g := g, bad := d = 0, a := some (src a), b := some (pair (ssrc b)) }
  | .mma c a b _ _ p q _ => { fmt := .MM, legal := p ≤ 1 && q ≤ 1, modF := true, acc := some ({ wide 32 (upd c) with max := 64 }), a := some (trip a), b := some (trip b) }
  | .pemitSym g a => { fmt := .A, g := g, a := some (vsrc a) }
  | .pemitOne g a => { fmt := .A, g := g, a := some (vsrc a) }
  | .pemitTwo g a => { fmt := .A, g := g, a := some (vsrc a) }
  | .iaddi g d a _ => { fmt := .I, g := g, d := some (dst d), a := some (vsrc a) }
  | .andi g d a _ => { fmt := .I, g := g, d := some (dst d), a := some (vsrc a) }
  | .ori g d a _ => { fmt := .I, g := g, d := some (dst d), a := some (vsrc a) }
  | .xori g d a _ => { fmt := .I, g := g, d := some (dst d), a := some (vsrc a) }
  | .shli g d a _ => { fmt := .I, g := g, d := some (dst d), a := some (vsrc a) }
  | .shri g d a _ => { fmt := .I, g := g, d := some (dst d), a := some (vsrc a) }
  | .sari g d a _ => { fmt := .I, g := g, d := some (dst d), a := some (vsrc a) }
  | .imuli g d a _ => { fmt := .I, g := g, d := some (dst d), a := some (vsrc a) }
  | .movi g d _ => { fmt := .I, g := g, d := some (dst d) }
  | .ld g d a z _ => cac (sel (z ≤ 6) { fmt := .M, g := g, d := some (data (words z) (dst d)), a := some (pair (src a)) })
  | .st g d a z _ => sel (z ≤ 4) { fmt := .M, g := g, d := some (data (words z) (src d)), a := some (pair (src a)) }
  | .lds g d a z _ => sel (z ≤ 6) { fmt := .M, g := g, d := some (data (words z) (dst d)), a := some (src a) }
  | .sts g d a z _ => sel (z ≤ 4) { fmt := .M, g := g, d := some (data (words z) (src d)), a := some (src a) }
  | .sld g d a z _ => sel (z ≤ 3 || z = 5 || z = 6)
      { fmt := .M, g := g, d := some (data (words z) (sdst d)), a := some (pair (sreg a)), courier := true }
  | .sst g d a z _ => sel (z ≤ 3)
      { fmt := .M, g := g, d := some (data (words z) (sreg d)), a := some (pair (sreg a)), courier := true }
  | .ldt g d a _ => { fmt := .M, g := g, d := some (dst d), a := some (pair (src a)) }
  | .stt g d a _ => { fmt := .M, g := g, d := some (src d), a := some (pair (src a)) }
  | .pf g a _ => cac { fmt := .M, g := g, a := some (pair (src a)) }
  | .ldx g d a b _ => cac { fmt := .X, g := g, d := some (dst d), a := some (pair (ssrc a)), b := some (vsrc b) }
  | .hgath g d a b _ => cac { fmt := .X, g := g, d := some (dst d), a := some (pair (ssrc a)), b := some (vsrc b) }
  | .stx g d a b _ => { fmt := .X, g := g, d := some (src d), a := some (pair (ssrc a)), b := some (vsrc b) }
  | .cpaIn g d a _ => cac { fmt := .M, g := g, d := some (src d), a := some (pair (src a)), bar := true }
  | .cpaOut g d a _ => { fmt := .M, g := g, d := some (src d), a := some (pair (src a)), bar := true }
  | .atomAdd g d a b t => fT g d a b (if t = 2 then 2 else 1)
  | .atomMin g d a b t => fT g d a b (if t = 3 then 2 else 1)
  | .atomMax g d a b t => fT g d a b (if t = 3 then 2 else 1)
  | .atomAnd g d a b => fT g d a b 1
  | .atomOr g d a b => fT g d a b 1
  | .atomXor g d a b => fT g d a b 1
  | .atomExch g d a b => fT g d a b 1
  | .cas g d a b t => { fT g d a b (if t = 1 then 2 else 1) with b := some ({ src b with n := if t = 1 then 4 else 2, al := if t = 1 then 4 else 1 }) }
  | .satom g d a b _ => { fT g d a b 1 with a := some (src a), modN := false }
  | .bra g _ => { fmt := .B, g := g, courier := g = 7 }
  | .call g _ => { fmt := .B, g := g, courier := g = 7 }
  | .smovi d _ => { fmt := .SI, d := some (sdst d), courier := true }
  | .hintImm _ => { fmt := .H, hk := 0 }
  | .hintMod h => { fmt := .H, hk := 1, legal := modLegal h }
  | .hintRep _ _ _ _ => { fmt := .H, hk := 2 }
  | .hintPref _ => { fmt := .H, hk := 3 }
  | .hintBar _ => { fmt := .H, hk := 4 }
  | .dict _ _ _ _ => { fmt := .D }
  | .sadd d a b => co (fS (some (sdst d)) (some (sreg a)) (some (sreg b)))
  | .ssub d a b => co (fS (some (sdst d)) (some (sreg a)) (some (sreg b)))
  | .smul d a b => co (fS (some (sdst d)) (some (sreg a)) (some (sreg b)))
  | .sand d a b => co (fS (some (sdst d)) (some (sreg a)) (some (sreg b)))
  | .sor d a b => co (fS (some (sdst d)) (some (sreg a)) (some (sreg b)))
  | .sxor d a b => co (fS (some (sdst d)) (some (sreg a)) (some (sreg b)))
  | .sshl d a b => co (fS (some (sdst d)) (some (sreg a)) (some (sreg b)))
  | .sshr d a b => co (fS (some (sdst d)) (some (sreg a)) (some (sreg b)))
  | .ssar d a b => co (fS (some (sdst d)) (some (sreg a)) (some (sreg b)))
  | .sminI32 d a b => co (fS (some (sdst d)) (some (sreg a)) (some (sreg b)))
  | .sminN32 d a b => co (fS (some (sdst d)) (some (sreg a)) (some (sreg b)))
  | .smaxI32 d a b => co (fS (some (sdst d)) (some (sreg a)) (some (sreg b)))
  | .smaxN32 d a b => co (fS (some (sdst d)) (some (sreg a)) (some (sreg b)))
  | .scmpEq d a b => co (fS (some (sdst d)) (some (sreg a)) (some (sreg b)))
  | .scmpNe d a b => co (fS (some (sdst d)) (some (sreg a)) (some (sreg b)))
  | .scmpLt d a b => co (fS (some (sdst d)) (some (sreg a)) (some (sreg b)))
  | .scmpLe d a b => co (fS (some (sdst d)) (some (sreg a)) (some (sreg b)))
  | .scmpGt d a b => co (fS (some (sdst d)) (some (sreg a)) (some (sreg b)))
  | .scmpGe d a b => co (fS (some (sdst d)) (some (sreg a)) (some (sreg b)))
  | .scmpLtn d a b => co (fS (some (sdst d)) (some (sreg a)) (some (sreg b)))
  | .scmpLen d a b => co (fS (some (sdst d)) (some (sreg a)) (some (sreg b)))
  | .scmpGtn d a b => co (fS (some (sdst d)) (some (sreg a)) (some (sreg b)))
  | .scmpGen d a b => co (fS (some (sdst d)) (some (sreg a)) (some (sreg b)))
  | .smov d a => co (fS (some (sdst d)) (some (sreg a)) none)
  | .ssel d a b => co (fS (some (supd d)) (some (sreg a)) (some (sreg b)))
  | .ret => co (fS none none none)
  | .exit => fS none none none
  | .regang => fS none none none
  | .yield => fS none none none
  | .brk => fS none none none
  | .rfe => fS none none none
  | .wpred => fS none none none
  | .succ => fS none none none
  | .drain => fS none none none
  | .tbar => fS none none none
  | .cbar => fS none none none
  | .gsync => fS none none none
  | .tchk => fS none none none
  | .kteam => fS none none none
  | .trap _ => co (fS none none none)
  | .sleep a => co (fS none (some (sreg a)) none)
  | .wvalue d a b => co (fS (some (sdst d)) (some (pair (sreg a))) (some (sreg b)))
  | .fenceAcq a => co (sel (a ≤ 4) (fS none none none))
  | .fenceRel a => co (sel (a ≤ 4) (fS none none none))
  | .fenceAr a => co (sel (a ≤ 4) (fS none none none))
  | .fenceNs a => co (sel (a ≤ 4) (fS none none none))
  | .wcnt a b => sel (a ≤ 3) (fS none none (some (sreg b)))
  | .bini a b => fS none (some (sreg a)) (some (sreg b))
  | .barr a b => fS none (some (sreg a)) (some (sreg b))
  | .bexp a b => fS none (some (sreg a)) (some (sreg b))
  | .bwait a b => fS none (some (sreg a)) (some (sreg b))
  | .mcrel a b => fS none (some (sreg a)) (some (sreg b))
  | .stmap d a b => fS (some (sdst d)) (some (pair (sreg a))) (some (sreg b))
  | .stunmap a => fS none (some (sreg a)) none
  | .stflush a => fS none (some (sreg a)) none
  | .mwait a => fS none (some (sreg a)) none
  | .mcleave a => fS none (some (sreg a)) none
  | .cflush a b => fS none (some (pair (sreg a))) (some (sreg b))
  | .cinv a b => fS none (some (pair (sreg a))) (some (sreg b))
  | .tlbinv a b => fS none (some (pair (sreg a))) (some (sreg b))
  | .mfence d => fS (some (sdst d)) none none
  | .mcjoin d a => fS (some (sdst d)) (some (pair (sreg a))) none
  | .mcload a b => fS none (some (quad (sreg a))) (some (sreg b))
  | .bcopy a => eng (fS none (some (pair (sreg a))) none)
  | .bfill a => eng (fS none (some (pair (sreg a))) none)
  | .cring a b => eng (fS none (some (pair (sreg a))) (some (sreg b)))
  | .plaunch d a => fS (some (sdst d)) (some (pair (sreg a))) none
  | .pfin a => fS none (some (pair (sreg a))) none
  | .pread d a b => fS (some (quad (sdst d))) (some (pair (sreg a))) (some (sreg b))
  | .tspawn a => fS none (some ({ sreg a with n := 16, al := 16, max := 48 })) none
  | .imprv d a b => fS (some (sdst d)) (some (quad (sreg a))) (some (sreg b))
  | .incrd d b => fS (some (quad (sdst d))) none (some (sreg b))
  | .launch a => fS none (some (pair (sreg a))) none
  | .claunch a => fS none (some (pair (sreg a))) none
  | .mfsr d r => { fS (some (sdst d)) none none with sr := some r.toNat, courier := true, legal := srAssigned r.toNat }
  | .mtsr d r => { fS none (some (sreg d)) none with sr := some r.toNat, courier := true, legal := srAssigned r.toNat }
  | .mtsrGflags d => { fS none (some (sreg d)) none with sr := some 0x001, courier := true }
  | .mtsrParty d => { fS none (some (sreg d)) none with sr := some 0x003, courier := true }
  | .mtsrGtcmp d => { fS none (some (sreg d)) none with sr := some 0x014, courier := true }
  | .mtsrGtcmph d => { fS none (some (sreg d)) none with sr := some 0x015, courier := true }
  | .mtsrIncctl d n => { fS none (some (sreg d)) none with sr := some (0x230 + 2 * n.toNat), courier := true }
  | .sevent _ => fS none none none
  | _ => { fmt := .event }

/-- The row is a word, not an event. -/
def isWord (i : Instr) : Bool := (form i).fmt ≠ .event

/-- A D word, whose PC may have slots (R66). -/
def isDict : Instr → Bool
  | .dict .. => true
  | _ => false

/-- `mtsr` names a register that has no row of its own in the opcode table. -/
def plainSr : Instr → Bool
  | .mtsr _ r => !(r = 0x001 || r = 0x003 || r = 0x014 || r = 0x015 ||
      (r.extractLsb' 4 8 = 0x23 && r.extractLsb' 0 1 = 0))
  | _ => true

/-- The registers an operand covers: vector registers. -/
def Opd.vregs (o : Opd) : List Nat :=
  if !o.num && o.no < 96 then (List.range o.n).map (o.no + ·) else []

/-- The registers an operand covers: scalars. -/
def Opd.sregs (o : Opd) : List Nat :=
  if o.num then (List.range o.n).map (o.no + ·)
  else if 96 ≤ o.no then (List.range o.n).map (o.no - 96 + ·) else []

/-- The operand breaks no limit of its field with `regs` registers per lane (R52, R55, R58, R70). -/
def Opd.ok (regs : Nat) (o : Opd) : Bool :=
  decide (o.no % o.al = 0) && decide (o.no ≤ o.max) &&
  if o.num then decide (o.no + o.n ≤ 64)
  else if o.no < 96 then o.vec && decide (o.no + o.n ≤ regs)
  else o.sca && decide (o.no + o.n ≤ 128)

/-- The operand moved by `k` registers. -/
def Opd.move (o : Opd) (k : Nat) : Opd := { o with no := o.no + k }

/-- A step of REP keeps the field in its class (R64). -/
def Opd.sameClass (o : Opd) (k : Nat) : Bool :=
  if o.num then decide (o.no + k ≤ 63) else decide ((o.no < 96) = (o.no + k < 96)) && decide (o.no + k < 128)

/-- All operands of a form. -/
def Form.opds (f : Form) : List Opd := f.d.toList ++ f.a.toList ++ f.b.toList ++ f.acc.toList

/-- The form accepts a hint of the kind (Table 03-21). -/
def Form.accepts (f : Form) : Nat → Bool
  | 0 => f.fmt = .I || f.fmt = .M || f.fmt = .SI
  | 1 => f.modR || f.modS || f.modC || f.modN || f.modF
  | 2 => f.fmt = .A || f.fmt = .I || f.fmt = .M || f.fmt = .X || f.fmt = .T
  | 3 => f.fmt ≠ .H && f.fmt ≠ .D
  | 4 => f.bar
  | _ => false

/-- The form accepts every field that is not zero in a MOD payload (R63). A saturation field is accepted by the forms of Table 03-22 alone, and any
other form raises HINT_SEQ for it, the floating-point forms of R117 among them (log 57). -/
def Form.acceptsMod (f : Form) (p : BitVec 23) : Bool :=
  (p.extractLsb' 18 5 = 0) && (p.extractLsb' 15 3 = 0 || f.modR) && (p.extractLsb' 13 2 = 0 || f.modS) &&
  (p.extractLsb' 5 8 = 0 || f.modC) && (p.extractLsb' 4 1 = 0 || f.modN) && (p.extractLsb' 0 4 = 0 || f.modF)

end Sys2Proof.Machine
end

