-- ==== Sys2Proof/WellFormed.lean ====
section
/-! DEFINITION. Well-formed instructions: words whose fields hold assigned values. -/

namespace Sys2Proof

/-- A well-formed instruction is a word (not an event), every selector, size, type and number in it is assigned
(R54 to R60), and `mtsr` names no register with a row of its own. -/
def wellFormed (i : Instr) : Bool :=
  Machine.isWord i && (Machine.form i).legal && Machine.plainSr i

end Sys2Proof
end

