-- ==== Sys2Proof/Decode.lean ====
section
/-! DEFINITION. Decoding of a word, total and rejecting by name, and the encoder. -/

namespace Sys2Proof


/-- Format A (R53). -/
def encA (op : BitVec 6) (g : BitVec 3) (d : BitVec 7) (a : BitVec 7) (b : BitVec 7) (f : BitVec 2) : Word :=
  op ++ g ++ d ++ a ++ b ++ f

/-- Format I (R53). -/
def encI (op : BitVec 6) (g : BitVec 3) (d : BitVec 7) (a : BitVec 7) (i : BitVec 9) : Word :=
  op ++ g ++ d ++ a ++ i

/-- Format M (R53). -/
def encM (op : BitVec 6) (g : BitVec 3) (d : BitVec 7) (a : BitVec 7) (z : BitVec 3) (m : BitVec 6) : Word :=
  op ++ g ++ d ++ a ++ z ++ m

/-- Format P (R53). -/
def encP (op : BitVec 6) (g : BitVec 3) (p : BitVec 3) (c : BitVec 4) (a : BitVec 7) (b : BitVec 7) (f : BitVec 2) : Word :=
  op ++ g ++ p ++ c ++ a ++ b ++ f

/-- Format Q (R53). -/
def encQ (op : BitVec 6) (g : BitVec 3) (p : BitVec 3) (q : BitVec 3) (r : BitVec 3) (f : BitVec 2) : Word :=
  op ++ g ++ p ++ q ++ r ++ 0#12 ++ f

/-- Format B (R53). -/
def encB (op : BitVec 6) (g : BitVec 3) (n : BitVec 23) : Word :=
  op ++ g ++ n

/-- Format SB (R53). -/
def encSB (op : BitVec 6) (s : BitVec 6) (n : BitVec 20) : Word :=
  op ++ s ++ n

/-- Format SI (R53). -/
def encSI (op : BitVec 6) (d : BitVec 6) (i : BitVec 14) : Word :=
  op ++ d ++ 0#6 ++ i

/-- Format MM (R53). -/
def encMM (op : BitVec 6) (c : BitVec 7) (a : BitVec 6) (b : BitVec 6) (r : BitVec 1) (z : BitVec 1) (p : BitVec 2) (q : BitVec 2) (i : BitVec 1) : Word :=
  op ++ c ++ a ++ b ++ r ++ z ++ p ++ q ++ i

/-- Format S (R53). -/
def encS (op : BitVec 6) (d : BitVec 6) (a : BitVec 6) (b : BitVec 6) (f : BitVec 8) : Word :=
  op ++ d ++ a ++ b ++ f

/-- Format H (R53). -/
def encH (op : BitVec 6) (k : BitVec 3) (h : BitVec 23) : Word :=
  op ++ k ++ h

/-- Format D (R53). -/
def encD (op : BitVec 6) (a : BitVec 10) (x : BitVec 3) (b : BitVec 10) (y : BitVec 3) : Word :=
  op ++ a ++ x ++ b ++ y

/-- The word of an instruction, from Tables 03-2 to 03-15, 03-24 and 03-25; an event has none and gives 0. -/
def encode : Instr → Word
  | .iadd g d a b => encA 1#6 g d a b 0#2
  | .isub g d a b => encA 1#6 g d a b 1#2
  | .imul g d a b => encA 1#6 g d a b 2#2
  | .imad g d a b => encA 1#6 g d a b 3#2
  | .imulhI32 g d a b => encA 2#6 g d a b 0#2
  | .imulhN32 g d a b => encA 2#6 g d a b 1#2
  | .madw g d a b => encA 2#6 g d a b 2#2
  | .add64 g d a b => encA 2#6 g d a b 3#2
  | .idivI32 g d a b => encA 3#6 g d a b 0#2
  | .idivN32 g d a b => encA 3#6 g d a b 1#2
  | .iremI32 g d a b => encA 3#6 g d a b 2#2
  | .iremN32 g d a b => encA 3#6 g d a b 3#2
  | .iminI32 g d a b => encA 4#6 g d a b 0#2
  | .iminN32 g d a b => encA 4#6 g d a b 1#2
  | .imaxI32 g d a b => encA 4#6 g d a b 2#2
  | .imaxN32 g d a b => encA 4#6 g d a b 3#2
  | .and g d a b => encA 5#6 g d a b 0#2
  | .or g d a b => encA 5#6 g d a b 1#2
  | .xor g d a b => encA 5#6 g d a b 2#2
  | .andn g d a b => encA 5#6 g d a b 3#2
  | .shl g d a b => encA 6#6 g d a b 0#2
  | .shr g d a b => encA 6#6 g d a b 1#2
  | .sar g d a b => encA 6#6 g d a b 2#2
  | .rotl g d a b => encA 6#6 g d a b 3#2
  | .clz g d a => encA 7#6 g d a 0#7 0#2
  | .popc g d a => encA 7#6 g d a 0#7 1#2
  | .brev g d a => encA 7#6 g d a 0#7 2#2
  | .not g d a => encA 7#6 g d a 0#7 3#2
  | .bfxI32 g d a b => encA 8#6 g d a b 0#2
  | .bfxN32 g d a b => encA 8#6 g d a b 1#2
  | .bfi g d a b => encA 8#6 g d a b 2#2
  | .isel g d a b => encA 8#6 g d a b 3#2
  | .iabs g d a => encA 9#6 g d a 0#7 0#2
  | .ineg g d a => encA 9#6 g d a 0#7 1#2
  | .mov g d a => encA 9#6 g d a 0#7 2#2
  | .lane g d => encA 9#6 g d 0#7 0#7 3#2
  | .fadd g d a b => encA 10#6 g d a b 0#2
  | .fsub g d a b => encA 10#6 g d a b 1#2
  | .fmul g d a b => encA 10#6 g d a b 2#2
  | .ffma g d a b => encA 10#6 g d a b 3#2
  | .fmin g d a b => encA 11#6 g d a b 0#2
  | .fmax g d a b => encA 11#6 g d a b 1#2
  | .fabs g d a => encA 11#6 g d a 0#7 2#2
  | .fneg g d a => encA 11#6 g d a 0#7 3#2
  | .fdiv g d a b => encA 12#6 g d a b 0#2
  | .fsqrt g d a => encA 12#6 g d a 0#7 1#2
  | .fscale g d a b => encA 12#6 g d a b 2#2
  | .fcls g d a => encA 12#6 g d a 0#7 3#2
  | .frcp g d a => encA 13#6 g d a 0#7 0#2
  | .frsq g d a => encA 13#6 g d a 0#7 1#2
  | .fex2 g d a => encA 13#6 g d a 0#7 2#2
  | .flg2 g d a => encA 13#6 g d a 0#7 3#2
  | .fsin g d a => encA 14#6 g d a 0#7 0#2
  | .fcos g d a => encA 14#6 g d a 0#7 1#2
  | .frnd g d a s => encA 14#6 g d a s 2#2
  | .hadd2F16 g d a b => encA 15#6 g d a b 0#2
  | .hmul2F16 g d a b => encA 15#6 g d a b 1#2
  | .hfma2F16 g d a b => encA 15#6 g d a b 2#2
  | .hmax2F16 g d a b => encA 15#6 g d a b 3#2
  | .hadd2Bf16 g d a b => encA 16#6 g d a b 0#2
  | .hmul2Bf16 g d a b => encA 16#6 g d a b 1#2
  | .hfma2Bf16 g d a b => encA 16#6 g d a b 2#2
  | .hmax2Bf16 g d a b => encA 16#6 g d a b 3#2
  | .cvt g d a s => encA 17#6 g d a s 0#2
  | .scl g d a b => encA 17#6 g d a b 1#2
  | .upk g d a s => encA 17#6 g d a s 2#2
  | .pk2 g d a b => encA 18#6 g d a b 0#2
  | .pk4 g d a b => encA 18#6 g d a b 1#2
  | .pk8 g d a b => encA 18#6 g d a b 2#2
  | .dot4E4m3 g d a b => encA 19#6 g d a b 0#2
  | .dot4E5m2 g d a b => encA 19#6 g d a b 1#2
  | .dot4I8 g d a b => encA 19#6 g d a b 2#2
  | .dot4N8 g d a b => encA 19#6 g d a b 3#2
  | .dot8E2m1 g d a b => encA 20#6 g d a b 0#2
  | .dot8I4 g d a b => encA 20#6 g d a b 1#2
  | .dot2F16 g d a b => encA 20#6 g d a b 2#2
  | .dot2Bf16 g d a b => encA 20#6 g d a b 3#2
  | .shflIdx g d a b => encA 21#6 g d a b 0#2
  | .shflXor g d a b => encA 21#6 g d a b 1#2
  | .shflUp g d a b => encA 21#6 g d a b 2#2
  | .shflDn g d a b => encA 21#6 g d a b 3#2
  | .gred g d a s => encA 22#6 g d a s 0#2
  | .gscan g d a s => encA 22#6 g d a s 1#2
  | .vote g d a s => encA 22#6 g d a s 2#2
  | .bcast g d a b => encA 22#6 g d a b 3#2
  | .compact g d a => encA 23#6 g d a 0#7 0#2
  | .p2v g d s => encA 23#6 g d 0#7 s 1#2
  | .v2p g a s => encA 23#6 g 0#7 a s 2#2
  | .icmp g p c a b f => encP 24#6 g p c a b f
  | .fcmp g p c a b f => encP 25#6 g p c a b f
  | .pand g p q r => encQ 26#6 g p q r 0#2
  | .por g p q r => encQ 26#6 g p q r 1#2
  | .pxor g p q r => encQ 26#6 g p q r 2#2
  | .pnot g p q => encQ 26#6 g p q 0#3 3#2
  | .sbra s n => encSB 27#6 s n
  | .loop s n => encSB 28#6 s n
  | .jmpi g d a b => encA 29#6 g d a b 0#2
  | .mma c a b r z p q i => encMM 30#6 c a b r z p q i
  | .pemitSym g a => encA 31#6 g 0#7 a 0#7 0#2
  | .pemitOne g a => encA 31#6 g 0#7 a 0#7 1#2
  | .pemitTwo g a => encA 31#6 g 0#7 a 0#7 2#2
  | .iaddi g d a i => encI 32#6 g d a i
  | .andi g d a i => encI 33#6 g d a i
  | .ori g d a i => encI 34#6 g d a i
  | .xori g d a i => encI 35#6 g d a i
  | .shli g d a i => encI 36#6 g d a i
  | .shri g d a i => encI 37#6 g d a i
  | .sari g d a i => encI 38#6 g d a i
  | .movi g d i => encI 39#6 g d 0#7 i
  | .imuli g d a i => encI 40#6 g d a i
  | .ld g d a z m => encM 41#6 g d a z m
  | .st g d a z m => encM 42#6 g d a z m
  | .lds g d a z m => encM 43#6 g d a z m
  | .sts g d a z m => encM 44#6 g d a z m
  | .sld g d a z m => encM 45#6 g (0#1 ++ d) (0#1 ++ a) z m
  | .sst g d a z m => encM 46#6 g (0#1 ++ d) (0#1 ++ a) z m
  | .ldt g d a m => encM 47#6 g d a 0#3 m
  | .stt g d a m => encM 47#6 g d a 1#3 m
  | .pf g a m => encM 47#6 g 0#7 a 2#3 m
  | .ldx g d a b c => encA 48#6 g d a b c
  | .stx g d a b c => encA 49#6 g d a b c
  | .hgath g d a b c => encA 50#6 g d a b c
  | .cpaIn g d a m => encM 51#6 g d a 0#3 m
  | .cpaOut g d a m => encM 51#6 g d a 1#3 m
  | .atomAdd g d a b t => encA 52#6 g d a b t
  | .atomMin g d a b t => encA 53#6 g d a b t
  | .atomMax g d a b t => encA 54#6 g d a b t
  | .atomAnd g d a b => encA 55#6 g d a b 0#2
  | .atomOr g d a b => encA 55#6 g d a b 1#2
  | .atomXor g d a b => encA 55#6 g d a b 2#2
  | .atomExch g d a b => encA 55#6 g d a b 3#2
  | .cas g d a b t => encA 56#6 g d a b (0#1 ++ t)
  | .satom g d a b t => encA 57#6 g d a b t
  | .bra g n => encB 58#6 g n
  | .call g n => encB 59#6 g n
  | .smovi d i => encSI 60#6 d i
  | .hintImm h => encH 61#6 0#3 h
  | .hintMod h => encH 61#6 1#3 (0#5 ++ h)
  | .hintRep c d a b => encH 61#6 2#3 (0#11 ++ c ++ d ++ a ++ b)
  | .hintPref h => encH 61#6 3#3 h
  | .hintBar h => encH 61#6 4#3 (0#8 ++ h)
  | .dict a x b y => encD 62#6 a x b y
  | .sadd d a b => encS 63#6 d a b 0#8
  | .ssub d a b => encS 63#6 d a b 1#8
  | .smul d a b => encS 63#6 d a b 2#8
  | .sand d a b => encS 63#6 d a b 3#8
  | .sor d a b => encS 63#6 d a b 4#8
  | .sxor d a b => encS 63#6 d a b 5#8
  | .sshl d a b => encS 63#6 d a b 6#8
  | .sshr d a b => encS 63#6 d a b 7#8
  | .ssar d a b => encS 63#6 d a b 8#8
  | .sminI32 d a b => encS 63#6 d a b 9#8
  | .sminN32 d a b => encS 63#6 d a b 10#8
  | .smaxI32 d a b => encS 63#6 d a b 11#8
  | .smaxN32 d a b => encS 63#6 d a b 12#8
  | .smov d a => encS 63#6 d a 0#6 13#8
  | .ssel d a b => encS 63#6 d a b 14#8
  | .scmpEq d a b => encS 63#6 d a b 16#8
  | .scmpNe d a b => encS 63#6 d a b 17#8
  | .scmpLt d a b => encS 63#6 d a b 18#8
  | .scmpLe d a b => encS 63#6 d a b 19#8
  | .scmpGt d a b => encS 63#6 d a b 20#8
  | .scmpGe d a b => encS 63#6 d a b 21#8
  | .scmpLtn d a b => encS 63#6 d a b 22#8
  | .scmpLen d a b => encS 63#6 d a b 23#8
  | .scmpGtn d a b => encS 63#6 d a b 24#8
  | .scmpGen d a b => encS 63#6 d a b 25#8
  | .ret => encS 63#6 0#6 0#6 0#6 64#8
  | .exit => encS 63#6 0#6 0#6 0#6 65#8
  | .regang => encS 63#6 0#6 0#6 0#6 66#8
  | .yield => encS 63#6 0#6 0#6 0#6 67#8
  | .brk => encS 63#6 0#6 0#6 0#6 68#8
  | .trap c => encS 63#6 0#6 (c.extractLsb' 6 6) (c.extractLsb' 0 6) 69#8
  | .rfe => encS 63#6 0#6 0#6 0#6 70#8
  | .sleep a => encS 63#6 0#6 a 0#6 71#8
  | .wvalue d a b => encS 63#6 d a b 72#8
  | .fenceAcq a => encS 63#6 0#6 a 0#6 96#8
  | .fenceRel a => encS 63#6 0#6 a 0#6 97#8
  | .fenceAr a => encS 63#6 0#6 a 0#6 98#8
  | .fenceNs a => encS 63#6 0#6 a 0#6 99#8
  | .wpred => encS 63#6 0#6 0#6 0#6 100#8
  | .succ => encS 63#6 0#6 0#6 0#6 101#8
  | .drain => encS 63#6 0#6 0#6 0#6 102#8
  | .wcnt a b => encS 63#6 0#6 a b 103#8
  | .tbar => encS 63#6 0#6 0#6 0#6 104#8
  | .cbar => encS 63#6 0#6 0#6 0#6 105#8
  | .gsync => encS 63#6 0#6 0#6 0#6 106#8
  | .bini a b => encS 63#6 0#6 a b 107#8
  | .barr a b => encS 63#6 0#6 a b 108#8
  | .bexp a b => encS 63#6 0#6 a b 109#8
  | .bwait a b => encS 63#6 0#6 a b 110#8
  | .stmap d a b => encS 63#6 d a b 111#8
  | .stunmap a => encS 63#6 0#6 a 0#6 112#8
  | .stflush a => encS 63#6 0#6 a 0#6 113#8
  | .cflush a b => encS 63#6 0#6 a b 114#8
  | .cinv a b => encS 63#6 0#6 a b 115#8
  | .mfence d => encS 63#6 d 0#6 0#6 128#8
  | .mwait a => encS 63#6 0#6 a 0#6 129#8
  | .mcjoin d a => encS 63#6 d a 0#6 130#8
  | .mcleave a => encS 63#6 0#6 a 0#6 131#8
  | .mcload a b => encS 63#6 0#6 a b 132#8
  | .mcrel a b => encS 63#6 0#6 a b 133#8
  | .bcopy a => encS 63#6 0#6 a 0#6 134#8
  | .bfill a => encS 63#6 0#6 a 0#6 135#8
  | .cring a b => encS 63#6 0#6 a b 136#8
  | .plaunch d a => encS 63#6 d a 0#6 137#8
  | .pfin a => encS 63#6 0#6 a 0#6 138#8
  | .pread d a b => encS 63#6 d a b 139#8
  | .tspawn a => encS 63#6 0#6 a 0#6 160#8
  | .tchk => encS 63#6 0#6 0#6 0#6 161#8
  | .imprv d a b => encS 63#6 d a b 162#8
  | .incrd d b => encS 63#6 d 0#6 b 163#8
  | .launch a => encS 63#6 0#6 a 0#6 164#8
  | .claunch a => encS 63#6 0#6 a 0#6 165#8
  | .mfsr d r => encS 63#6 d (r.extractLsb' 6 6) (r.extractLsb' 0 6) 192#8
  | .mtsr d r => encS 63#6 d (r.extractLsb' 6 6) (r.extractLsb' 0 6) 193#8
  | .mtsrGflags d => encS 63#6 d 0#6 1#6 193#8
  | .mtsrParty d => encS 63#6 d 0#6 3#6 193#8
  | .mtsrGtcmp d => encS 63#6 d 0#6 20#6 193#8
  | .mtsrGtcmph d => encS 63#6 d 0#6 21#6 193#8
  | .mtsrIncctl d n => encS 63#6 d 8#6 (3#2 ++ n ++ 0#1) 193#8
  | .kteam => encS 63#6 0#6 0#6 0#6 194#8
  | .tlbinv a b => encS 63#6 0#6 a b 195#8
  | .sevent c => encS 63#6 0#6 (c.extractLsb' 6 6) (c.extractLsb' 0 6) 196#8
  | _ => 0

/-- The words of op 0x01 (Tables 03-24 and 03-25). -/
def decode01 (w : Word) : Option Instr :=
  if w.extractLsb' 0 2 = 0#2 then some (.iadd (w.extractLsb' 23 3) (w.extractLsb' 16 7) (w.extractLsb' 9 7) (w.extractLsb' 2 7)) else
  if w.extractLsb' 0 2 = 1#2 then some (.isub (w.extractLsb' 23 3) (w.extractLsb' 16 7) (w.extractLsb' 9 7) (w.extractLsb' 2 7)) else
  if w.extractLsb' 0 2 = 2#2 then some (.imul (w.extractLsb' 23 3) (w.extractLsb' 16 7) (w.extractLsb' 9 7) (w.extractLsb' 2 7)) else
  if w.extractLsb' 0 2 = 3#2 then some (.imad (w.extractLsb' 23 3) (w.extractLsb' 16 7) (w.extractLsb' 9 7) (w.extractLsb' 2 7)) else
  none

/-- The words of op 0x02 (Tables 03-24 and 03-25). -/
def decode02 (w : Word) : Option Instr :=
  if w.extractLsb' 0 2 = 0#2 then some (.imulhI32 (w.extractLsb' 23 3) (w.extractLsb' 16 7) (w.extractLsb' 9 7) (w.extractLsb' 2 7)) else
  if w.extractLsb' 0 2 = 1#2 then some (.imulhN32 (w.extractLsb' 23 3) (w.extractLsb' 16 7) (w.extractLsb' 9 7) (w.extractLsb' 2 7)) else
  if w.extractLsb' 0 2 = 2#2 then some (.madw (w.extractLsb' 23 3) (w.extractLsb' 16 7) (w.extractLsb' 9 7) (w.extractLsb' 2 7)) else
  if w.extractLsb' 0 2 = 3#2 then some (.add64 (w.extractLsb' 23 3) (w.extractLsb' 16 7) (w.extractLsb' 9 7) (w.extractLsb' 2 7)) else
  none

/-- The words of op 0x03 (Tables 03-24 and 03-25). -/
def decode03 (w : Word) : Option Instr :=
  if w.extractLsb' 0 2 = 0#2 then some (.idivI32 (w.extractLsb' 23 3) (w.extractLsb' 16 7) (w.extractLsb' 9 7) (w.extractLsb' 2 7)) else
  if w.extractLsb' 0 2 = 1#2 then some (.idivN32 (w.extractLsb' 23 3) (w.extractLsb' 16 7) (w.extractLsb' 9 7) (w.extractLsb' 2 7)) else
  if w.extractLsb' 0 2 = 2#2 then some (.iremI32 (w.extractLsb' 23 3) (w.extractLsb' 16 7) (w.extractLsb' 9 7) (w.extractLsb' 2 7)) else
  if w.extractLsb' 0 2 = 3#2 then some (.iremN32 (w.extractLsb' 23 3) (w.extractLsb' 16 7) (w.extractLsb' 9 7) (w.extractLsb' 2 7)) else
  none

/-- The words of op 0x04 (Tables 03-24 and 03-25). -/
def decode04 (w : Word) : Option Instr :=
  if w.extractLsb' 0 2 = 0#2 then some (.iminI32 (w.extractLsb' 23 3) (w.extractLsb' 16 7) (w.extractLsb' 9 7) (w.extractLsb' 2 7)) else
  if w.extractLsb' 0 2 = 1#2 then some (.iminN32 (w.extractLsb' 23 3) (w.extractLsb' 16 7) (w.extractLsb' 9 7) (w.extractLsb' 2 7)) else
  if w.extractLsb' 0 2 = 2#2 then some (.imaxI32 (w.extractLsb' 23 3) (w.extractLsb' 16 7) (w.extractLsb' 9 7) (w.extractLsb' 2 7)) else
  if w.extractLsb' 0 2 = 3#2 then some (.imaxN32 (w.extractLsb' 23 3) (w.extractLsb' 16 7) (w.extractLsb' 9 7) (w.extractLsb' 2 7)) else
  none

/-- The words of op 0x05 (Tables 03-24 and 03-25). -/
def decode05 (w : Word) : Option Instr :=
  if w.extractLsb' 0 2 = 0#2 then some (.and (w.extractLsb' 23 3) (w.extractLsb' 16 7) (w.extractLsb' 9 7) (w.extractLsb' 2 7)) else
  if w.extractLsb' 0 2 = 1#2 then some (.or (w.extractLsb' 23 3) (w.extractLsb' 16 7) (w.extractLsb' 9 7) (w.extractLsb' 2 7)) else
  if w.extractLsb' 0 2 = 2#2 then some (.xor (w.extractLsb' 23 3) (w.extractLsb' 16 7) (w.extractLsb' 9 7) (w.extractLsb' 2 7)) else
  if w.extractLsb' 0 2 = 3#2 then some (.andn (w.extractLsb' 23 3) (w.extractLsb' 16 7) (w.extractLsb' 9 7) (w.extractLsb' 2 7)) else
  none

/-- The words of op 0x06 (Tables 03-24 and 03-25). -/
def decode06 (w : Word) : Option Instr :=
  if w.extractLsb' 0 2 = 0#2 then some (.shl (w.extractLsb' 23 3) (w.extractLsb' 16 7) (w.extractLsb' 9 7) (w.extractLsb' 2 7)) else
  if w.extractLsb' 0 2 = 1#2 then some (.shr (w.extractLsb' 23 3) (w.extractLsb' 16 7) (w.extractLsb' 9 7) (w.extractLsb' 2 7)) else
  if w.extractLsb' 0 2 = 2#2 then some (.sar (w.extractLsb' 23 3) (w.extractLsb' 16 7) (w.extractLsb' 9 7) (w.extractLsb' 2 7)) else
  if w.extractLsb' 0 2 = 3#2 then some (.rotl (w.extractLsb' 23 3) (w.extractLsb' 16 7) (w.extractLsb' 9 7) (w.extractLsb' 2 7)) else
  none

/-- The words of op 0x07 (Tables 03-24 and 03-25). -/
def decode07 (w : Word) : Option Instr :=
  if w.extractLsb' 0 2 = 0#2 then some (.clz (w.extractLsb' 23 3) (w.extractLsb' 16 7) (w.extractLsb' 9 7)) else
  if w.extractLsb' 0 2 = 1#2 then some (.popc (w.extractLsb' 23 3) (w.extractLsb' 16 7) (w.extractLsb' 9 7)) else
  if w.extractLsb' 0 2 = 2#2 then some (.brev (w.extractLsb' 23 3) (w.extractLsb' 16 7) (w.extractLsb' 9 7)) else
  if w.extractLsb' 0 2 = 3#2 then some (.not (w.extractLsb' 23 3) (w.extractLsb' 16 7) (w.extractLsb' 9 7)) else
  none

/-- The words of op 0x08 (Tables 03-24 and 03-25). -/
def decode08 (w : Word) : Option Instr :=
  if w.extractLsb' 0 2 = 0#2 then some (.bfxI32 (w.extractLsb' 23 3) (w.extractLsb' 16 7) (w.extractLsb' 9 7) (w.extractLsb' 2 7)) else
  if w.extractLsb' 0 2 = 1#2 then some (.bfxN32 (w.extractLsb' 23 3) (w.extractLsb' 16 7) (w.extractLsb' 9 7) (w.extractLsb' 2 7)) else
  if w.extractLsb' 0 2 = 2#2 then some (.bfi (w.extractLsb' 23 3) (w.extractLsb' 16 7) (w.extractLsb' 9 7) (w.extractLsb' 2 7)) else
  if w.extractLsb' 0 2 = 3#2 then some (.isel (w.extractLsb' 23 3) (w.extractLsb' 16 7) (w.extractLsb' 9 7) (w.extractLsb' 2 7)) else
  none

/-- The words of op 0x09 (Tables 03-24 and 03-25). -/
def decode09 (w : Word) : Option Instr :=
  if w.extractLsb' 0 2 = 0#2 then some (.iabs (w.extractLsb' 23 3) (w.extractLsb' 16 7) (w.extractLsb' 9 7)) else
  if w.extractLsb' 0 2 = 1#2 then some (.ineg (w.extractLsb' 23 3) (w.extractLsb' 16 7) (w.extractLsb' 9 7)) else
  if w.extractLsb' 0 2 = 2#2 then some (.mov (w.extractLsb' 23 3) (w.extractLsb' 16 7) (w.extractLsb' 9 7)) else
  if w.extractLsb' 0 2 = 3#2 then some (.lane (w.extractLsb' 23 3) (w.extractLsb' 16 7)) else
  none

/-- The words of op 0x0A (Tables 03-24 and 03-25). -/
def decode0A (w : Word) : Option Instr :=
  if w.extractLsb' 0 2 = 0#2 then some (.fadd (w.extractLsb' 23 3) (w.extractLsb' 16 7) (w.extractLsb' 9 7) (w.extractLsb' 2 7)) else
  if w.extractLsb' 0 2 = 1#2 then some (.fsub (w.extractLsb' 23 3) (w.extractLsb' 16 7) (w.extractLsb' 9 7) (w.extractLsb' 2 7)) else
  if w.extractLsb' 0 2 = 2#2 then some (.fmul (w.extractLsb' 23 3) (w.extractLsb' 16 7) (w.extractLsb' 9 7) (w.extractLsb' 2 7)) else
  if w.extractLsb' 0 2 = 3#2 then some (.ffma (w.extractLsb' 23 3) (w.extractLsb' 16 7) (w.extractLsb' 9 7) (w.extractLsb' 2 7)) else
  none

/-- The words of op 0x0B (Tables 03-24 and 03-25). -/
def decode0B (w : Word) : Option Instr :=
  if w.extractLsb' 0 2 = 0#2 then some (.fmin (w.extractLsb' 23 3) (w.extractLsb' 16 7) (w.extractLsb' 9 7) (w.extractLsb' 2 7)) else
  if w.extractLsb' 0 2 = 1#2 then some (.fmax (w.extractLsb' 23 3) (w.extractLsb' 16 7) (w.extractLsb' 9 7) (w.extractLsb' 2 7)) else
  if w.extractLsb' 0 2 = 2#2 then some (.fabs (w.extractLsb' 23 3) (w.extractLsb' 16 7) (w.extractLsb' 9 7)) else
  if w.extractLsb' 0 2 = 3#2 then some (.fneg (w.extractLsb' 23 3) (w.extractLsb' 16 7) (w.extractLsb' 9 7)) else
  none

/-- The words of op 0x0C (Tables 03-24 and 03-25). -/
def decode0C (w : Word) : Option Instr :=
  if w.extractLsb' 0 2 = 0#2 then some (.fdiv (w.extractLsb' 23 3) (w.extractLsb' 16 7) (w.extractLsb' 9 7) (w.extractLsb' 2 7)) else
  if w.extractLsb' 0 2 = 1#2 then some (.fsqrt (w.extractLsb' 23 3) (w.extractLsb' 16 7) (w.extractLsb' 9 7)) else
  if w.extractLsb' 0 2 = 2#2 then some (.fscale (w.extractLsb' 23 3) (w.extractLsb' 16 7) (w.extractLsb' 9 7) (w.extractLsb' 2 7)) else
  if w.extractLsb' 0 2 = 3#2 ∧ w.extractLsb' 2 7 = 0#7 then some (.fcls (w.extractLsb' 23 3) (w.extractLsb' 16 7) (w.extractLsb' 9 7)) else
  none

/-- The words of op 0x0D (Tables 03-24 and 03-25). -/
def decode0D (w : Word) : Option Instr :=
  if w.extractLsb' 0 2 = 0#2 then some (.frcp (w.extractLsb' 23 3) (w.extractLsb' 16 7) (w.extractLsb' 9 7)) else
  if w.extractLsb' 0 2 = 1#2 then some (.frsq (w.extractLsb' 23 3) (w.extractLsb' 16 7) (w.extractLsb' 9 7)) else
  if w.extractLsb' 0 2 = 2#2 then some (.fex2 (w.extractLsb' 23 3) (w.extractLsb' 16 7) (w.extractLsb' 9 7)) else
  if w.extractLsb' 0 2 = 3#2 then some (.flg2 (w.extractLsb' 23 3) (w.extractLsb' 16 7) (w.extractLsb' 9 7)) else
  none

/-- The words of op 0x0E (Tables 03-24 and 03-25). -/
def decode0E (w : Word) : Option Instr :=
  if w.extractLsb' 0 2 = 0#2 then some (.fsin (w.extractLsb' 23 3) (w.extractLsb' 16 7) (w.extractLsb' 9 7)) else
  if w.extractLsb' 0 2 = 1#2 then some (.fcos (w.extractLsb' 23 3) (w.extractLsb' 16 7) (w.extractLsb' 9 7)) else
  if w.extractLsb' 0 2 = 2#2 then some (.frnd (w.extractLsb' 23 3) (w.extractLsb' 16 7) (w.extractLsb' 9 7) (w.extractLsb' 2 7)) else
  none

/-- The words of op 0x0F (Tables 03-24 and 03-25). -/
def decode0F (w : Word) : Option Instr :=
  if w.extractLsb' 0 2 = 0#2 then some (.hadd2F16 (w.extractLsb' 23 3) (w.extractLsb' 16 7) (w.extractLsb' 9 7) (w.extractLsb' 2 7)) else
  if w.extractLsb' 0 2 = 1#2 then some (.hmul2F16 (w.extractLsb' 23 3) (w.extractLsb' 16 7) (w.extractLsb' 9 7) (w.extractLsb' 2 7)) else
  if w.extractLsb' 0 2 = 2#2 then some (.hfma2F16 (w.extractLsb' 23 3) (w.extractLsb' 16 7) (w.extractLsb' 9 7) (w.extractLsb' 2 7)) else
  if w.extractLsb' 0 2 = 3#2 then some (.hmax2F16 (w.extractLsb' 23 3) (w.extractLsb' 16 7) (w.extractLsb' 9 7) (w.extractLsb' 2 7)) else
  none

/-- The words of op 0x10 (Tables 03-24 and 03-25). -/
def decode10 (w : Word) : Option Instr :=
  if w.extractLsb' 0 2 = 0#2 then some (.hadd2Bf16 (w.extractLsb' 23 3) (w.extractLsb' 16 7) (w.extractLsb' 9 7) (w.extractLsb' 2 7)) else
  if w.extractLsb' 0 2 = 1#2 then some (.hmul2Bf16 (w.extractLsb' 23 3) (w.extractLsb' 16 7) (w.extractLsb' 9 7) (w.extractLsb' 2 7)) else
  if w.extractLsb' 0 2 = 2#2 then some (.hfma2Bf16 (w.extractLsb' 23 3) (w.extractLsb' 16 7) (w.extractLsb' 9 7) (w.extractLsb' 2 7)) else
  if w.extractLsb' 0 2 = 3#2 then some (.hmax2Bf16 (w.extractLsb' 23 3) (w.extractLsb' 16 7) (w.extractLsb' 9 7) (w.extractLsb' 2 7)) else
  none

/-- The words of op 0x11 (Tables 03-24 and 03-25). -/
def decode11 (w : Word) : Option Instr :=
  if w.extractLsb' 0 2 = 0#2 then some (.cvt (w.extractLsb' 23 3) (w.extractLsb' 16 7) (w.extractLsb' 9 7) (w.extractLsb' 2 7)) else
  if w.extractLsb' 0 2 = 1#2 then some (.scl (w.extractLsb' 23 3) (w.extractLsb' 16 7) (w.extractLsb' 9 7) (w.extractLsb' 2 7)) else
  if w.extractLsb' 0 2 = 2#2 then some (.upk (w.extractLsb' 23 3) (w.extractLsb' 16 7) (w.extractLsb' 9 7) (w.extractLsb' 2 7)) else
  none

/-- The words of op 0x12 (Tables 03-24 and 03-25). -/
def decode12 (w : Word) : Option Instr :=
  if w.extractLsb' 0 2 = 0#2 then some (.pk2 (w.extractLsb' 23 3) (w.extractLsb' 16 7) (w.extractLsb' 9 7) (w.extractLsb' 2 7)) else
  if w.extractLsb' 0 2 = 1#2 then some (.pk4 (w.extractLsb' 23 3) (w.extractLsb' 16 7) (w.extractLsb' 9 7) (w.extractLsb' 2 7)) else
  if w.extractLsb' 0 2 = 2#2 then some (.pk8 (w.extractLsb' 23 3) (w.extractLsb' 16 7) (w.extractLsb' 9 7) (w.extractLsb' 2 7)) else
  none

/-- The words of op 0x13 (Tables 03-24 and 03-25). -/
def decode13 (w : Word) : Option Instr :=
  if w.extractLsb' 0 2 = 0#2 then some (.dot4E4m3 (w.extractLsb' 23 3) (w.extractLsb' 16 7) (w.extractLsb' 9 7) (w.extractLsb' 2 7)) else
  if w.extractLsb' 0 2 = 1#2 then some (.dot4E5m2 (w.extractLsb' 23 3) (w.extractLsb' 16 7) (w.extractLsb' 9 7) (w.extractLsb' 2 7)) else
  if w.extractLsb' 0 2 = 2#2 then some (.dot4I8 (w.extractLsb' 23 3) (w.extractLsb' 16 7) (w.extractLsb' 9 7) (w.extractLsb' 2 7)) else
  if w.extractLsb' 0 2 = 3#2 then some (.dot4N8 (w.extractLsb' 23 3) (w.extractLsb' 16 7) (w.extractLsb' 9 7) (w.extractLsb' 2 7)) else
  none

/-- The words of op 0x14 (Tables 03-24 and 03-25). -/
def decode14 (w : Word) : Option Instr :=
  if w.extractLsb' 0 2 = 0#2 then some (.dot8E2m1 (w.extractLsb' 23 3) (w.extractLsb' 16 7) (w.extractLsb' 9 7) (w.extractLsb' 2 7)) else
  if w.extractLsb' 0 2 = 1#2 then some (.dot8I4 (w.extractLsb' 23 3) (w.extractLsb' 16 7) (w.extractLsb' 9 7) (w.extractLsb' 2 7)) else
  if w.extractLsb' 0 2 = 2#2 then some (.dot2F16 (w.extractLsb' 23 3) (w.extractLsb' 16 7) (w.extractLsb' 9 7) (w.extractLsb' 2 7)) else
  if w.extractLsb' 0 2 = 3#2 then some (.dot2Bf16 (w.extractLsb' 23 3) (w.extractLsb' 16 7) (w.extractLsb' 9 7) (w.extractLsb' 2 7)) else
  none

/-- The words of op 0x15 (Tables 03-24 and 03-25). -/
def decode15 (w : Word) : Option Instr :=
  if w.extractLsb' 0 2 = 0#2 then some (.shflIdx (w.extractLsb' 23 3) (w.extractLsb' 16 7) (w.extractLsb' 9 7) (w.extractLsb' 2 7)) else
  if w.extractLsb' 0 2 = 1#2 then some (.shflXor (w.extractLsb' 23 3) (w.extractLsb' 16 7) (w.extractLsb' 9 7) (w.extractLsb' 2 7)) else
  if w.extractLsb' 0 2 = 2#2 then some (.shflUp (w.extractLsb' 23 3) (w.extractLsb' 16 7) (w.extractLsb' 9 7) (w.extractLsb' 2 7)) else
  if w.extractLsb' 0 2 = 3#2 then some (.shflDn (w.extractLsb' 23 3) (w.extractLsb' 16 7) (w.extractLsb' 9 7) (w.extractLsb' 2 7)) else
  none

/-- The words of op 0x16 (Tables 03-24 and 03-25). -/
def decode16 (w : Word) : Option Instr :=
  if w.extractLsb' 0 2 = 0#2 then some (.gred (w.extractLsb' 23 3) (w.extractLsb' 16 7) (w.extractLsb' 9 7) (w.extractLsb' 2 7)) else
  if w.extractLsb' 0 2 = 1#2 then some (.gscan (w.extractLsb' 23 3) (w.extractLsb' 16 7) (w.extractLsb' 9 7) (w.extractLsb' 2 7)) else
  if w.extractLsb' 0 2 = 2#2 then some (.vote (w.extractLsb' 23 3) (w.extractLsb' 16 7) (w.extractLsb' 9 7) (w.extractLsb' 2 7)) else
  if w.extractLsb' 0 2 = 3#2 then some (.bcast (w.extractLsb' 23 3) (w.extractLsb' 16 7) (w.extractLsb' 9 7) (w.extractLsb' 2 7)) else
  none

/-- The words of op 0x17 (Tables 03-24 and 03-25). -/
def decode17 (w : Word) : Option Instr :=
  if w.extractLsb' 0 2 = 0#2 then some (.compact (w.extractLsb' 23 3) (w.extractLsb' 16 7) (w.extractLsb' 9 7)) else
  if w.extractLsb' 0 2 = 1#2 then some (.p2v (w.extractLsb' 23 3) (w.extractLsb' 16 7) (w.extractLsb' 2 7)) else
  if w.extractLsb' 0 2 = 2#2 then some (.v2p (w.extractLsb' 23 3) (w.extractLsb' 9 7) (w.extractLsb' 2 7)) else
  none

/-- The words of op 0x18 (Tables 03-24 and 03-25). -/
def decode18 (w : Word) : Option Instr :=
  some (.icmp (w.extractLsb' 23 3) (w.extractLsb' 20 3) (w.extractLsb' 16 4) (w.extractLsb' 9 7) (w.extractLsb' 2 7) (w.extractLsb' 0 2))

/-- The words of op 0x19 (Tables 03-24 and 03-25). -/
def decode19 (w : Word) : Option Instr :=
  some (.fcmp (w.extractLsb' 23 3) (w.extractLsb' 20 3) (w.extractLsb' 16 4) (w.extractLsb' 9 7) (w.extractLsb' 2 7) (w.extractLsb' 0 2))

/-- The words of op 0x1A (Tables 03-24 and 03-25). -/
def decode1A (w : Word) : Option Instr :=
  if w.extractLsb' 0 2 = 0#2 then some (.pand (w.extractLsb' 23 3) (w.extractLsb' 20 3) (w.extractLsb' 17 3) (w.extractLsb' 14 3)) else
  if w.extractLsb' 0 2 = 1#2 then some (.por (w.extractLsb' 23 3) (w.extractLsb' 20 3) (w.extractLsb' 17 3) (w.extractLsb' 14 3)) else
  if w.extractLsb' 0 2 = 2#2 then some (.pxor (w.extractLsb' 23 3) (w.extractLsb' 20 3) (w.extractLsb' 17 3) (w.extractLsb' 14 3)) else
  if w.extractLsb' 0 2 = 3#2 then some (.pnot (w.extractLsb' 23 3) (w.extractLsb' 20 3) (w.extractLsb' 17 3)) else
  none

/-- The words of op 0x1B (Tables 03-24 and 03-25). -/
def decode1B (w : Word) : Option Instr :=
  some (.sbra (w.extractLsb' 20 6) (w.extractLsb' 0 20))

/-- The words of op 0x1C (Tables 03-24 and 03-25). -/
def decode1C (w : Word) : Option Instr :=
  some (.loop (w.extractLsb' 20 6) (w.extractLsb' 0 20))

/-- The words of op 0x1D (Tables 03-24 and 03-25). -/
def decode1D (w : Word) : Option Instr :=
  if w.extractLsb' 0 2 = 0#2 then some (.jmpi (w.extractLsb' 23 3) (w.extractLsb' 16 7) (w.extractLsb' 9 7) (w.extractLsb' 2 7)) else
  none

/-- The words of op 0x1E (Tables 03-24 and 03-25). -/
def decode1E (w : Word) : Option Instr :=
  some (.mma (w.extractLsb' 19 7) (w.extractLsb' 13 6) (w.extractLsb' 7 6) (w.extractLsb' 6 1) (w.extractLsb' 5 1) (w.extractLsb' 3 2) (w.extractLsb' 1 2) (w.extractLsb' 0 1))

/-- The words of op 0x1F (Tables 03-24 and 03-25). -/
def decode1F (w : Word) : Option Instr :=
  if w.extractLsb' 0 2 = 0#2 then some (.pemitSym (w.extractLsb' 23 3) (w.extractLsb' 9 7)) else
  if w.extractLsb' 0 2 = 1#2 then some (.pemitOne (w.extractLsb' 23 3) (w.extractLsb' 9 7)) else
  if w.extractLsb' 0 2 = 2#2 then some (.pemitTwo (w.extractLsb' 23 3) (w.extractLsb' 9 7)) else
  none

/-- The words of op 0x20 (Tables 03-24 and 03-25). -/
def decode20 (w : Word) : Option Instr :=
  some (.iaddi (w.extractLsb' 23 3) (w.extractLsb' 16 7) (w.extractLsb' 9 7) (w.extractLsb' 0 9))

/-- The words of op 0x21 (Tables 03-24 and 03-25). -/
def decode21 (w : Word) : Option Instr :=
  some (.andi (w.extractLsb' 23 3) (w.extractLsb' 16 7) (w.extractLsb' 9 7) (w.extractLsb' 0 9))

/-- The words of op 0x22 (Tables 03-24 and 03-25). -/
def decode22 (w : Word) : Option Instr :=
  some (.ori (w.extractLsb' 23 3) (w.extractLsb' 16 7) (w.extractLsb' 9 7) (w.extractLsb' 0 9))

/-- The words of op 0x23 (Tables 03-24 and 03-25). -/
def decode23 (w : Word) : Option Instr :=
  some (.xori (w.extractLsb' 23 3) (w.extractLsb' 16 7) (w.extractLsb' 9 7) (w.extractLsb' 0 9))

/-- The words of op 0x24 (Tables 03-24 and 03-25). -/
def decode24 (w : Word) : Option Instr :=
  some (.shli (w.extractLsb' 23 3) (w.extractLsb' 16 7) (w.extractLsb' 9 7) (w.extractLsb' 0 9))

/-- The words of op 0x25 (Tables 03-24 and 03-25). -/
def decode25 (w : Word) : Option Instr :=
  some (.shri (w.extractLsb' 23 3) (w.extractLsb' 16 7) (w.extractLsb' 9 7) (w.extractLsb' 0 9))

/-- The words of op 0x26 (Tables 03-24 and 03-25). -/
def decode26 (w : Word) : Option Instr :=
  some (.sari (w.extractLsb' 23 3) (w.extractLsb' 16 7) (w.extractLsb' 9 7) (w.extractLsb' 0 9))

/-- The words of op 0x27 (Tables 03-24 and 03-25). -/
def decode27 (w : Word) : Option Instr :=
  some (.movi (w.extractLsb' 23 3) (w.extractLsb' 16 7) (w.extractLsb' 0 9))

/-- The words of op 0x28 (Tables 03-24 and 03-25). -/
def decode28 (w : Word) : Option Instr :=
  some (.imuli (w.extractLsb' 23 3) (w.extractLsb' 16 7) (w.extractLsb' 9 7) (w.extractLsb' 0 9))

/-- The words of op 0x29 (Tables 03-24 and 03-25). -/
def decode29 (w : Word) : Option Instr :=
  some (.ld (w.extractLsb' 23 3) (w.extractLsb' 16 7) (w.extractLsb' 9 7) (w.extractLsb' 6 3) (w.extractLsb' 0 6))

/-- The words of op 0x2A (Tables 03-24 and 03-25). -/
def decode2A (w : Word) : Option Instr :=
  some (.st (w.extractLsb' 23 3) (w.extractLsb' 16 7) (w.extractLsb' 9 7) (w.extractLsb' 6 3) (w.extractLsb' 0 6))

/-- The words of op 0x2B (Tables 03-24 and 03-25). -/
def decode2B (w : Word) : Option Instr :=
  some (.lds (w.extractLsb' 23 3) (w.extractLsb' 16 7) (w.extractLsb' 9 7) (w.extractLsb' 6 3) (w.extractLsb' 0 6))

/-- The words of op 0x2C (Tables 03-24 and 03-25). -/
def decode2C (w : Word) : Option Instr :=
  some (.sts (w.extractLsb' 23 3) (w.extractLsb' 16 7) (w.extractLsb' 9 7) (w.extractLsb' 6 3) (w.extractLsb' 0 6))

/-- The words of op 0x2D (Tables 03-24 and 03-25). -/
def decode2D (w : Word) : Option Instr :=
  some (.sld (w.extractLsb' 23 3) (w.extractLsb' 16 6) (w.extractLsb' 9 6) (w.extractLsb' 6 3) (w.extractLsb' 0 6))

/-- The words of op 0x2E (Tables 03-24 and 03-25). -/
def decode2E (w : Word) : Option Instr :=
  some (.sst (w.extractLsb' 23 3) (w.extractLsb' 16 6) (w.extractLsb' 9 6) (w.extractLsb' 6 3) (w.extractLsb' 0 6))

/-- The words of op 0x2F (Tables 03-24 and 03-25). -/
def decode2F (w : Word) : Option Instr :=
  if w.extractLsb' 6 3 = 0#3 then some (.ldt (w.extractLsb' 23 3) (w.extractLsb' 16 7) (w.extractLsb' 9 7) (w.extractLsb' 0 6)) else
  if w.extractLsb' 6 3 = 1#3 then some (.stt (w.extractLsb' 23 3) (w.extractLsb' 16 7) (w.extractLsb' 9 7) (w.extractLsb' 0 6)) else
  if w.extractLsb' 6 3 = 2#3 then some (.pf (w.extractLsb' 23 3) (w.extractLsb' 9 7) (w.extractLsb' 0 6)) else
  none

/-- The words of op 0x30 (Tables 03-24 and 03-25). -/
def decode30 (w : Word) : Option Instr :=
  some (.ldx (w.extractLsb' 23 3) (w.extractLsb' 16 7) (w.extractLsb' 9 7) (w.extractLsb' 2 7) (w.extractLsb' 0 2))

/-- The words of op 0x31 (Tables 03-24 and 03-25). -/
def decode31 (w : Word) : Option Instr :=
  some (.stx (w.extractLsb' 23 3) (w.extractLsb' 16 7) (w.extractLsb' 9 7) (w.extractLsb' 2 7) (w.extractLsb' 0 2))

/-- The words of op 0x32 (Tables 03-24 and 03-25). -/
def decode32 (w : Word) : Option Instr :=
  some (.hgath (w.extractLsb' 23 3) (w.extractLsb' 16 7) (w.extractLsb' 9 7) (w.extractLsb' 2 7) (w.extractLsb' 0 2))

/-- The words of op 0x33 (Tables 03-24 and 03-25). -/
def decode33 (w : Word) : Option Instr :=
  if w.extractLsb' 6 3 = 0#3 then some (.cpaIn (w.extractLsb' 23 3) (w.extractLsb' 16 7) (w.extractLsb' 9 7) (w.extractLsb' 0 6)) else
  if w.extractLsb' 6 3 = 1#3 then some (.cpaOut (w.extractLsb' 23 3) (w.extractLsb' 16 7) (w.extractLsb' 9 7) (w.extractLsb' 0 6)) else
  none

/-- The words of op 0x34 (Tables 03-24 and 03-25). -/
def decode34 (w : Word) : Option Instr :=
  some (.atomAdd (w.extractLsb' 23 3) (w.extractLsb' 16 7) (w.extractLsb' 9 7) (w.extractLsb' 2 7) (w.extractLsb' 0 2))

/-- The words of op 0x35 (Tables 03-24 and 03-25). -/
def decode35 (w : Word) : Option Instr :=
  some (.atomMin (w.extractLsb' 23 3) (w.extractLsb' 16 7) (w.extractLsb' 9 7) (w.extractLsb' 2 7) (w.extractLsb' 0 2))

/-- The words of op 0x36 (Tables 03-24 and 03-25). -/
def decode36 (w : Word) : Option Instr :=
  some (.atomMax (w.extractLsb' 23 3) (w.extractLsb' 16 7) (w.extractLsb' 9 7) (w.extractLsb' 2 7) (w.extractLsb' 0 2))

/-- The words of op 0x37 (Tables 03-24 and 03-25). -/
def decode37 (w : Word) : Option Instr :=
  if w.extractLsb' 0 2 = 0#2 then some (.atomAnd (w.extractLsb' 23 3) (w.extractLsb' 16 7) (w.extractLsb' 9 7) (w.extractLsb' 2 7)) else
  if w.extractLsb' 0 2 = 1#2 then some (.atomOr (w.extractLsb' 23 3) (w.extractLsb' 16 7) (w.extractLsb' 9 7) (w.extractLsb' 2 7)) else
  if w.extractLsb' 0 2 = 2#2 then some (.atomXor (w.extractLsb' 23 3) (w.extractLsb' 16 7) (w.extractLsb' 9 7) (w.extractLsb' 2 7)) else
  if w.extractLsb' 0 2 = 3#2 then some (.atomExch (w.extractLsb' 23 3) (w.extractLsb' 16 7) (w.extractLsb' 9 7) (w.extractLsb' 2 7)) else
  none

/-- The words of op 0x38 (Tables 03-24 and 03-25). -/
def decode38 (w : Word) : Option Instr :=
  if w.extractLsb' 1 1 = 0#1 then some (.cas (w.extractLsb' 23 3) (w.extractLsb' 16 7) (w.extractLsb' 9 7) (w.extractLsb' 2 7) (w.extractLsb' 0 1)) else
  none

/-- The words of op 0x39 (Tables 03-24 and 03-25). -/
def decode39 (w : Word) : Option Instr :=
  some (.satom (w.extractLsb' 23 3) (w.extractLsb' 16 7) (w.extractLsb' 9 7) (w.extractLsb' 2 7) (w.extractLsb' 0 2))

/-- The words of op 0x3A (Tables 03-24 and 03-25). -/
def decode3A (w : Word) : Option Instr :=
  some (.bra (w.extractLsb' 23 3) (w.extractLsb' 0 23))

/-- The words of op 0x3B (Tables 03-24 and 03-25). -/
def decode3B (w : Word) : Option Instr :=
  some (.call (w.extractLsb' 23 3) (w.extractLsb' 0 23))

/-- The words of op 0x3C (Tables 03-24 and 03-25). -/
def decode3C (w : Word) : Option Instr :=
  some (.smovi (w.extractLsb' 20 6) (w.extractLsb' 0 14))

/-- The words of op 0x3D (Tables 03-24 and 03-25). -/
def decode3D (w : Word) : Option Instr :=
  if w.extractLsb' 23 3 = 0#3 then some (.hintImm (w.extractLsb' 0 23)) else
  if w.extractLsb' 23 3 = 1#3 then some (.hintMod (w.extractLsb' 0 18)) else
  if w.extractLsb' 23 3 = 2#3 then some (.hintRep (w.extractLsb' 6 6) (w.extractLsb' 4 2) (w.extractLsb' 2 2) (w.extractLsb' 0 2)) else
  if w.extractLsb' 23 3 = 3#3 then some (.hintPref (w.extractLsb' 0 23)) else
  if w.extractLsb' 23 3 = 4#3 then some (.hintBar (w.extractLsb' 0 15)) else
  none

/-- The words of op 0x3E (Tables 03-24 and 03-25). -/
def decode3E (w : Word) : Option Instr :=
  some (.dict (w.extractLsb' 16 10) (w.extractLsb' 13 3) (w.extractLsb' 3 10) (w.extractLsb' 0 3))

/-- The words of op 0x3F (Tables 03-24 and 03-25). -/
def decode3F (w : Word) : Option Instr :=
  if w.extractLsb' 0 8 = 0#8 then some (.sadd (w.extractLsb' 20 6) (w.extractLsb' 14 6) (w.extractLsb' 8 6)) else
  if w.extractLsb' 0 8 = 1#8 then some (.ssub (w.extractLsb' 20 6) (w.extractLsb' 14 6) (w.extractLsb' 8 6)) else
  if w.extractLsb' 0 8 = 2#8 then some (.smul (w.extractLsb' 20 6) (w.extractLsb' 14 6) (w.extractLsb' 8 6)) else
  if w.extractLsb' 0 8 = 3#8 then some (.sand (w.extractLsb' 20 6) (w.extractLsb' 14 6) (w.extractLsb' 8 6)) else
  if w.extractLsb' 0 8 = 4#8 then some (.sor (w.extractLsb' 20 6) (w.extractLsb' 14 6) (w.extractLsb' 8 6)) else
  if w.extractLsb' 0 8 = 5#8 then some (.sxor (w.extractLsb' 20 6) (w.extractLsb' 14 6) (w.extractLsb' 8 6)) else
  if w.extractLsb' 0 8 = 6#8 then some (.sshl (w.extractLsb' 20 6) (w.extractLsb' 14 6) (w.extractLsb' 8 6)) else
  if w.extractLsb' 0 8 = 7#8 then some (.sshr (w.extractLsb' 20 6) (w.extractLsb' 14 6) (w.extractLsb' 8 6)) else
  if w.extractLsb' 0 8 = 8#8 then some (.ssar (w.extractLsb' 20 6) (w.extractLsb' 14 6) (w.extractLsb' 8 6)) else
  if w.extractLsb' 0 8 = 9#8 then some (.sminI32 (w.extractLsb' 20 6) (w.extractLsb' 14 6) (w.extractLsb' 8 6)) else
  if w.extractLsb' 0 8 = 10#8 then some (.sminN32 (w.extractLsb' 20 6) (w.extractLsb' 14 6) (w.extractLsb' 8 6)) else
  if w.extractLsb' 0 8 = 11#8 then some (.smaxI32 (w.extractLsb' 20 6) (w.extractLsb' 14 6) (w.extractLsb' 8 6)) else
  if w.extractLsb' 0 8 = 12#8 then some (.smaxN32 (w.extractLsb' 20 6) (w.extractLsb' 14 6) (w.extractLsb' 8 6)) else
  if w.extractLsb' 0 8 = 13#8 then some (.smov (w.extractLsb' 20 6) (w.extractLsb' 14 6)) else
  if w.extractLsb' 0 8 = 14#8 then some (.ssel (w.extractLsb' 20 6) (w.extractLsb' 14 6) (w.extractLsb' 8 6)) else
  if w.extractLsb' 0 8 = 16#8 then some (.scmpEq (w.extractLsb' 20 6) (w.extractLsb' 14 6) (w.extractLsb' 8 6)) else
  if w.extractLsb' 0 8 = 17#8 then some (.scmpNe (w.extractLsb' 20 6) (w.extractLsb' 14 6) (w.extractLsb' 8 6)) else
  if w.extractLsb' 0 8 = 18#8 then some (.scmpLt (w.extractLsb' 20 6) (w.extractLsb' 14 6) (w.extractLsb' 8 6)) else
  if w.extractLsb' 0 8 = 19#8 then some (.scmpLe (w.extractLsb' 20 6) (w.extractLsb' 14 6) (w.extractLsb' 8 6)) else
  if w.extractLsb' 0 8 = 20#8 then some (.scmpGt (w.extractLsb' 20 6) (w.extractLsb' 14 6) (w.extractLsb' 8 6)) else
  if w.extractLsb' 0 8 = 21#8 then some (.scmpGe (w.extractLsb' 20 6) (w.extractLsb' 14 6) (w.extractLsb' 8 6)) else
  if w.extractLsb' 0 8 = 22#8 then some (.scmpLtn (w.extractLsb' 20 6) (w.extractLsb' 14 6) (w.extractLsb' 8 6)) else
  if w.extractLsb' 0 8 = 23#8 then some (.scmpLen (w.extractLsb' 20 6) (w.extractLsb' 14 6) (w.extractLsb' 8 6)) else
  if w.extractLsb' 0 8 = 24#8 then some (.scmpGtn (w.extractLsb' 20 6) (w.extractLsb' 14 6) (w.extractLsb' 8 6)) else
  if w.extractLsb' 0 8 = 25#8 then some (.scmpGen (w.extractLsb' 20 6) (w.extractLsb' 14 6) (w.extractLsb' 8 6)) else
  if w.extractLsb' 0 8 = 64#8 then some (.ret) else
  if w.extractLsb' 0 8 = 65#8 then some (.exit) else
  if w.extractLsb' 0 8 = 66#8 then some (.regang) else
  if w.extractLsb' 0 8 = 67#8 then some (.yield) else
  if w.extractLsb' 0 8 = 68#8 then some (.brk) else
  if w.extractLsb' 0 8 = 69#8 then some (.trap (w.extractLsb' 8 12)) else
  if w.extractLsb' 0 8 = 70#8 then some (.rfe) else
  if w.extractLsb' 0 8 = 71#8 then some (.sleep (w.extractLsb' 14 6)) else
  if w.extractLsb' 0 8 = 72#8 then some (.wvalue (w.extractLsb' 20 6) (w.extractLsb' 14 6) (w.extractLsb' 8 6)) else
  if w.extractLsb' 0 8 = 96#8 then some (.fenceAcq (w.extractLsb' 14 6)) else
  if w.extractLsb' 0 8 = 97#8 then some (.fenceRel (w.extractLsb' 14 6)) else
  if w.extractLsb' 0 8 = 98#8 then some (.fenceAr (w.extractLsb' 14 6)) else
  if w.extractLsb' 0 8 = 99#8 then some (.fenceNs (w.extractLsb' 14 6)) else
  if w.extractLsb' 0 8 = 100#8 then some (.wpred) else
  if w.extractLsb' 0 8 = 101#8 then some (.succ) else
  if w.extractLsb' 0 8 = 102#8 then some (.drain) else
  if w.extractLsb' 0 8 = 103#8 then some (.wcnt (w.extractLsb' 14 6) (w.extractLsb' 8 6)) else
  if w.extractLsb' 0 8 = 104#8 then some (.tbar) else
  if w.extractLsb' 0 8 = 105#8 then some (.cbar) else
  if w.extractLsb' 0 8 = 106#8 then some (.gsync) else
  if w.extractLsb' 0 8 = 107#8 then some (.bini (w.extractLsb' 14 6) (w.extractLsb' 8 6)) else
  if w.extractLsb' 0 8 = 108#8 then some (.barr (w.extractLsb' 14 6) (w.extractLsb' 8 6)) else
  if w.extractLsb' 0 8 = 109#8 then some (.bexp (w.extractLsb' 14 6) (w.extractLsb' 8 6)) else
  if w.extractLsb' 0 8 = 110#8 then some (.bwait (w.extractLsb' 14 6) (w.extractLsb' 8 6)) else
  if w.extractLsb' 0 8 = 111#8 then some (.stmap (w.extractLsb' 20 6) (w.extractLsb' 14 6) (w.extractLsb' 8 6)) else
  if w.extractLsb' 0 8 = 112#8 then some (.stunmap (w.extractLsb' 14 6)) else
  if w.extractLsb' 0 8 = 113#8 then some (.stflush (w.extractLsb' 14 6)) else
  if w.extractLsb' 0 8 = 114#8 then some (.cflush (w.extractLsb' 14 6) (w.extractLsb' 8 6)) else
  if w.extractLsb' 0 8 = 115#8 then some (.cinv (w.extractLsb' 14 6) (w.extractLsb' 8 6)) else
  if w.extractLsb' 0 8 = 128#8 then some (.mfence (w.extractLsb' 20 6)) else
  if w.extractLsb' 0 8 = 129#8 then some (.mwait (w.extractLsb' 14 6)) else
  if w.extractLsb' 0 8 = 130#8 then some (.mcjoin (w.extractLsb' 20 6) (w.extractLsb' 14 6)) else
  if w.extractLsb' 0 8 = 131#8 then some (.mcleave (w.extractLsb' 14 6)) else
  if w.extractLsb' 0 8 = 132#8 then some (.mcload (w.extractLsb' 14 6) (w.extractLsb' 8 6)) else
  if w.extractLsb' 0 8 = 133#8 then some (.mcrel (w.extractLsb' 14 6) (w.extractLsb' 8 6)) else
  if w.extractLsb' 0 8 = 134#8 then some (.bcopy (w.extractLsb' 14 6)) else
  if w.extractLsb' 0 8 = 135#8 then some (.bfill (w.extractLsb' 14 6)) else
  if w.extractLsb' 0 8 = 136#8 then some (.cring (w.extractLsb' 14 6) (w.extractLsb' 8 6)) else
  if w.extractLsb' 0 8 = 137#8 then some (.plaunch (w.extractLsb' 20 6) (w.extractLsb' 14 6)) else
  if w.extractLsb' 0 8 = 138#8 then some (.pfin (w.extractLsb' 14 6)) else
  if w.extractLsb' 0 8 = 139#8 then some (.pread (w.extractLsb' 20 6) (w.extractLsb' 14 6) (w.extractLsb' 8 6)) else
  if w.extractLsb' 0 8 = 160#8 then some (.tspawn (w.extractLsb' 14 6)) else
  if w.extractLsb' 0 8 = 161#8 then some (.tchk) else
  if w.extractLsb' 0 8 = 162#8 then some (.imprv (w.extractLsb' 20 6) (w.extractLsb' 14 6) (w.extractLsb' 8 6)) else
  if w.extractLsb' 0 8 = 163#8 then some (.incrd (w.extractLsb' 20 6) (w.extractLsb' 8 6)) else
  if w.extractLsb' 0 8 = 164#8 then some (.launch (w.extractLsb' 14 6)) else
  if w.extractLsb' 0 8 = 165#8 then some (.claunch (w.extractLsb' 14 6)) else
  if w.extractLsb' 0 8 = 192#8 then some (.mfsr (w.extractLsb' 20 6) (w.extractLsb' 8 12)) else
  if w.extractLsb' 0 8 = 193#8 ∧ w.extractLsb' 8 12 = 1#12 then some (.mtsrGflags (w.extractLsb' 20 6)) else
  if w.extractLsb' 0 8 = 193#8 ∧ w.extractLsb' 8 12 = 3#12 then some (.mtsrParty (w.extractLsb' 20 6)) else
  if w.extractLsb' 0 8 = 193#8 ∧ w.extractLsb' 8 12 = 20#12 then some (.mtsrGtcmp (w.extractLsb' 20 6)) else
  if w.extractLsb' 0 8 = 193#8 ∧ w.extractLsb' 8 12 = 21#12 then some (.mtsrGtcmph (w.extractLsb' 20 6)) else
  if w.extractLsb' 0 8 = 193#8 ∧ w.extractLsb' 12 8 = 35#8 ∧ w.extractLsb' 8 1 = 0#1 then some (.mtsrIncctl (w.extractLsb' 20 6) (w.extractLsb' 9 3)) else
  if w.extractLsb' 0 8 = 194#8 then some (.kteam) else
  if w.extractLsb' 0 8 = 195#8 then some (.tlbinv (w.extractLsb' 14 6) (w.extractLsb' 8 6)) else
  if w.extractLsb' 0 8 = 196#8 then some (.sevent (w.extractLsb' 8 12)) else
  if w.extractLsb' 0 8 = 193#8 then some (.mtsr (w.extractLsb' 20 6) (w.extractLsb' 8 12)) else
  none

/-- The instruction whose encoding a word matches up to its reserved bits; none where Table 03-20 gives ILLEGAL by op,
function, hint kind, size or type. -/
def decodeRaw (w : Word) : Option Instr :=
  if w.extractLsb' 26 6 = 1#6 then decode01 w else
  if w.extractLsb' 26 6 = 2#6 then decode02 w else
  if w.extractLsb' 26 6 = 3#6 then decode03 w else
  if w.extractLsb' 26 6 = 4#6 then decode04 w else
  if w.extractLsb' 26 6 = 5#6 then decode05 w else
  if w.extractLsb' 26 6 = 6#6 then decode06 w else
  if w.extractLsb' 26 6 = 7#6 then decode07 w else
  if w.extractLsb' 26 6 = 8#6 then decode08 w else
  if w.extractLsb' 26 6 = 9#6 then decode09 w else
  if w.extractLsb' 26 6 = 10#6 then decode0A w else
  if w.extractLsb' 26 6 = 11#6 then decode0B w else
  if w.extractLsb' 26 6 = 12#6 then decode0C w else
  if w.extractLsb' 26 6 = 13#6 then decode0D w else
  if w.extractLsb' 26 6 = 14#6 then decode0E w else
  if w.extractLsb' 26 6 = 15#6 then decode0F w else
  if w.extractLsb' 26 6 = 16#6 then decode10 w else
  if w.extractLsb' 26 6 = 17#6 then decode11 w else
  if w.extractLsb' 26 6 = 18#6 then decode12 w else
  if w.extractLsb' 26 6 = 19#6 then decode13 w else
  if w.extractLsb' 26 6 = 20#6 then decode14 w else
  if w.extractLsb' 26 6 = 21#6 then decode15 w else
  if w.extractLsb' 26 6 = 22#6 then decode16 w else
  if w.extractLsb' 26 6 = 23#6 then decode17 w else
  if w.extractLsb' 26 6 = 24#6 then decode18 w else
  if w.extractLsb' 26 6 = 25#6 then decode19 w else
  if w.extractLsb' 26 6 = 26#6 then decode1A w else
  if w.extractLsb' 26 6 = 27#6 then decode1B w else
  if w.extractLsb' 26 6 = 28#6 then decode1C w else
  if w.extractLsb' 26 6 = 29#6 then decode1D w else
  if w.extractLsb' 26 6 = 30#6 then decode1E w else
  if w.extractLsb' 26 6 = 31#6 then decode1F w else
  if w.extractLsb' 26 6 = 32#6 then decode20 w else
  if w.extractLsb' 26 6 = 33#6 then decode21 w else
  if w.extractLsb' 26 6 = 34#6 then decode22 w else
  if w.extractLsb' 26 6 = 35#6 then decode23 w else
  if w.extractLsb' 26 6 = 36#6 then decode24 w else
  if w.extractLsb' 26 6 = 37#6 then decode25 w else
  if w.extractLsb' 26 6 = 38#6 then decode26 w else
  if w.extractLsb' 26 6 = 39#6 then decode27 w else
  if w.extractLsb' 26 6 = 40#6 then decode28 w else
  if w.extractLsb' 26 6 = 41#6 then decode29 w else
  if w.extractLsb' 26 6 = 42#6 then decode2A w else
  if w.extractLsb' 26 6 = 43#6 then decode2B w else
  if w.extractLsb' 26 6 = 44#6 then decode2C w else
  if w.extractLsb' 26 6 = 45#6 then decode2D w else
  if w.extractLsb' 26 6 = 46#6 then decode2E w else
  if w.extractLsb' 26 6 = 47#6 then decode2F w else
  if w.extractLsb' 26 6 = 48#6 then decode30 w else
  if w.extractLsb' 26 6 = 49#6 then decode31 w else
  if w.extractLsb' 26 6 = 50#6 then decode32 w else
  if w.extractLsb' 26 6 = 51#6 then decode33 w else
  if w.extractLsb' 26 6 = 52#6 then decode34 w else
  if w.extractLsb' 26 6 = 53#6 then decode35 w else
  if w.extractLsb' 26 6 = 54#6 then decode36 w else
  if w.extractLsb' 26 6 = 55#6 then decode37 w else
  if w.extractLsb' 26 6 = 56#6 then decode38 w else
  if w.extractLsb' 26 6 = 57#6 then decode39 w else
  if w.extractLsb' 26 6 = 58#6 then decode3A w else
  if w.extractLsb' 26 6 = 59#6 then decode3B w else
  if w.extractLsb' 26 6 = 60#6 then decode3C w else
  if w.extractLsb' 26 6 = 61#6 then decode3D w else
  if w.extractLsb' 26 6 = 62#6 then decode3E w else
  if w.extractLsb' 26 6 = 63#6 then decode3F w else
  none

/-- Why a word is no well-formed instruction (R59, R60). -/
inductive Reject where
  /-- Table 03-20: the word raises ILLEGAL. -/
  | illegal
  /-- A field marked zero, or unused, is not zero: the word that stands for `i` raises RESERVED_BITS. -/
  | reservedBits (i : Instr)
  deriving DecidableEq, Repr

/-- Decoding of any word: a well-formed instruction whose encoding is the word, or the reason it is refused. -/
def decode (w : Word) : Except Reject Instr :=
  match decodeRaw w with
  | none => .error .illegal
  | some i => if wellFormed i then if encode i = w then .ok i else .error (.reservedBits i) else .error .illegal

/-- The word at the front of a list of bytes, little-endian (R1, R50), decoded; none where fewer than four stand. -/
def decodeBytes : List Byte → Option (Except Reject Instr × List Byte)
  | a :: b :: c :: d :: rest => some (decode (d ++ c ++ b ++ a), rest)
  | _ => none

/-- The bytes of a word as they lie in memory (R1). -/
def wordBytes (w : Word) : List Byte :=
  [w.extractLsb' 0 8, w.extractLsb' 8 8, w.extractLsb' 16 8, w.extractLsb' 24 8]

/-- The instruction the decoder reads from a word of the opcode table's numbering: one word of 32 bits. -/
def decodeTableWord (_nbits w : Nat) : Option Instr :=
  match decodeBytes (wordBytes (BitVec.ofNat 32 w)) with
  | some (.ok i, _) => some i
  | _ => none

end Sys2Proof
end

