-- ==== Sys2Proof/Config.lean ====
section
/-! DEFINITION. What the spec fixes as constants of the part, and the free values: constants with no body, for the values
that the spec leaves open and after which the device goes on (R5, R126). -/

namespace Sys2Proof.Config

/-- Lanes of a group (R21). -/
def lanes : Nat := 96

/-- Bytes of local device memory: PA 0 to 0x59_682E_FFFF (R253, Table 10-2). -/
def localBytes : Nat := 384000000000

/-- Pages of 4 KiB of local device memory (R268). -/
def localPages : Nat := 93750000

/-- Cores of the device, numbered 96d + 16p + c (R13, R308). -/
def cores : Nat := 384

/-- The free value for the `n`-th value the spec leaves undefined (R5): any bits. DESIGN CHOICE, log 5: unconstrained. -/
opaque freeBits : Nat → BitVec 128

/-- The value that `frcp` returns within its bound (R126): a fixed function of the input bits, not stated. -/
opaque frcp : Word → Word

/-- The value that `frsq` returns within its bound (R126). -/
opaque frsq : Word → Word

/-- The value that `fex2` returns within its bound (R126). -/
opaque fex2 : Word → Word

/-- The value that `flg2` returns within its bound (R126). -/
opaque flg2 : Word → Word

/-- The value that `fsin` returns within its bound (R126). -/
opaque fsin : Word → Word

/-- The value that `fcos` returns within its bound (R126). -/
opaque fcos : Word → Word

/-- The ECDSA signature under the device identity key over a message (R398, R400): not computable from the spec. -/
opaque sign : List Byte → List Byte

/-- The digest of the security processor's boot code, measurement 1 (R399): not given by the spec. -/
opaque bootDigest : BitVec 512

/-- The digest of a device configuration, measurement 4 (R399): the layout that it covers is not stated. -/
opaque configDigest : List Byte → BitVec 512

/-- The serial that a firmware image carries (R401): where it stands in the image is not stated. -/
opaque imageSerial : List Byte → Word

/-- The number from which the port of a peer line is chosen among the ports that are up (R395): the hash is not stated. -/
opaque portHash : Nat → Nat

/-- The certificate chain of slot 0 (R398): not given by the spec. -/
opaque certificates : List Byte

end Sys2Proof.Config
end

