-- ==== Sys2Proof/Machine/Flags.lean ====
section
/-! DEFINITION. The number formats, exact values, rounding and the sticky flags (R8, R110 to R135). -/

namespace Sys2Proof.Machine

/-! ## Flags (Table 05-8) -/

/-- GFLAGS bits: SAT 4, UF 3, OV 2, DZ 1, NV 0. -/
abbrev Flags := BitVec 5

def fNV : Flags := 1
def fDZ : Flags := 2
def fOV : Flags := 4
def fUF : Flags := 8
def fSAT : Flags := 16

/-- A flag where a condition holds. -/
def flagIf (c : Bool) (f : Flags) : Flags := if c then f else 0

/-! ## Formats (Table 05-1) -/

inductive NFmt where
  | fp32 | fp16 | bf16 | e5m2 | e4m3 | e2m1 | int8 | int4
  deriving DecidableEq, Repr

/-- Width of the mantissa field. -/
def NFmt.mbits : NFmt → Nat
  | .fp32 => 23 | .fp16 => 10 | .bf16 => 7 | .e5m2 => 2 | .e4m3 => 3 | .e2m1 => 1 | .int8 => 0 | .int4 => 0

/-- Width of the exponent field. -/
def NFmt.ebits : NFmt → Nat
  | .fp32 => 8 | .fp16 => 5 | .bf16 => 8 | .e5m2 => 5 | .e4m3 => 4 | .e2m1 => 2 | .int8 => 0 | .int4 => 0

def NFmt.bias : NFmt → Int
  | .fp32 => 127 | .fp16 => 15 | .bf16 => 127 | .e5m2 => 15 | .e4m3 => 7 | .e2m1 => 1 | .int8 => 0 | .int4 => 0

/-- Bits of an element. -/
def NFmt.width : NFmt → Nat
  | .fp32 => 32 | .fp16 => 16 | .bf16 => 16 | .e5m2 => 8 | .e4m3 => 8 | .e2m1 => 4 | .int8 => 8 | .int4 => 4

def NFmt.isInt : NFmt → Bool
  | .int8 | .int4 => true
  | _ => false

def NFmt.hasInf : NFmt → Bool
  | .fp32 | .fp16 | .bf16 | .e5m2 => true
  | _ => false

/-- Exponent of the least step: the weight of a subnormal's last bit; 0 for integers. -/
def NFmt.emin (f : NFmt) : Int := if f.isInt then 0 else 1 - f.bias - f.mbits

/-- The largest finite value as m and e of m · 2^e. -/
def NFmt.maxFin : NFmt → Nat × Int
  | .fp32 => (16777215, 104) | .fp16 => (2047, 5) | .bf16 => (255, 120) | .e5m2 => (7, 13) | .e4m3 => (7, 6)
  | .e2m1 => (3, 1) | .int8 => (127, 0) | .int4 => (7, 0)

/-- The canonical NaN (Table 05-1); 0 where the format has none. -/
def NFmt.nan : NFmt → Word
  | .fp32 => 0x7FC00000 | .fp16 => 0x7E00 | .bf16 => 0x7FC0 | .e5m2 => 0x7E | .e4m3 => 0x7F | _ => 0

/-! ## Values -/

/-- The value of a floating pattern: NaN, infinity, signed zero, or (−1)^neg · m · 2^e with m > 0. -/
inductive FVal where
  | nan (signaling : Bool)
  | inf (neg : Bool)
  | zero (neg : Bool)
  | fin (neg : Bool) (m : Nat) (e : Int)
  deriving DecidableEq, Repr

/-- The value of a pattern of a format (R110, R111). -/
def NFmt.value (f : NFmt) (x : Word) : FVal :=
  if f.isInt then
    let w := f.width
    let n := x.toNat % 2 ^ w
    if n = 0 then .zero false
    else if n < 2 ^ (w - 1) then .fin false n 0 else .fin true (2 ^ w - n) 0
  else
    let n := x.toNat % 2 ^ f.width
    let neg := decide (n / 2 ^ (f.width - 1) = 1)
    let e := n / 2 ^ f.mbits % 2 ^ f.ebits
    let m := n % 2 ^ f.mbits
    if f.hasInf && e = 2 ^ f.ebits - 1 then
      if m = 0 then .inf neg else .nan (decide (m < 2 ^ (f.mbits - 1)))
    else if f = .e4m3 ∧ e = 15 ∧ m = 7 then .nan false
    else if e = 0 then if m = 0 then .zero neg else .fin neg m f.emin
    else .fin neg (2 ^ f.mbits + m) (f.emin + (e : Int) - 1)

/-- An exact integer as a value. -/
def ofInt (x : Int) : FVal :=
  if x = 0 then .zero false else .fin (decide (x < 0)) x.natAbs 0

def FVal.isNan : FVal → Bool
  | .nan _ => true
  | _ => false

def FVal.isSnan : FVal → Bool
  | .nan b => b
  | _ => false

def FVal.isInf : FVal → Bool
  | .inf _ => true
  | _ => false

def FVal.isZero : FVal → Bool
  | .zero _ => true
  | _ => false

def FVal.sign : FVal → Bool
  | .nan _ => false
  | .inf n | .zero n | .fin n _ _ => n

/-- Sign-changed value. -/
def FVal.neg : FVal → FVal
  | .nan s => .nan s
  | .inf n => .inf !n
  | .zero n => .zero !n
  | .fin n m e => .fin (!n) m e

/-- NV for signaling operands (R124). -/
def snans (l : List FVal) : Flags := flagIf (l.any FVal.isSnan) fNV

/-- Signed integer of a finite value on the grid of step 2^e0, with e0 at or below its exponent. -/
def FVal.scaled (e0 : Int) : FVal → Int
  | .fin n m e => let k := (m : Int) * 2 ^ (e - e0).toNat; if n then -k else k
  | _ => 0

def FVal.exp : FVal → Option Int
  | .fin _ _ e => some e
  | _ => none

/-- Comparison of two values that are not NaN, with −0 equal to +0. -/
def FVal.compare (a b : FVal) : Ordering :=
  match a, b with
  | .inf x, .inf y => if x = y then .eq else if x then .lt else .gt
  | .inf x, _ => if x then .lt else .gt
  | _, .inf y => if y then .gt else .lt
  | _, _ =>
    let e0 := min (a.exp.getD 0) (b.exp.getD 0)
    Ord.compare (a.scaled e0) (b.scaled e0)

/-! ## Rounding (ROUND of R8) -/

/-- Rounding modes; `rha` is the rule of selector 4 of `frnd` (R127). -/
inductive RMode where
  | rne | rz | rdn | rup | rha
  deriving DecidableEq, Repr

/-- The mode of a two-bit rnd field (R116). -/
def RMode.ofBits (b : BitVec 2) : RMode :=
  if b = 0 then .rne else if b = 1 then .rz else if b = 2 then .rdn else .rup

/-- Whether the magnitude is raised by one step: `hi` even or odd, the remainder compared with half. -/
def RMode.up (mode : RMode) (neg odd : Bool) (half : Ordering) (inexact : Bool) : Bool :=
  match mode with
  | .rne => half = .gt || (half = .eq && odd)
  | .rha => half = .gt || half = .eq
  | .rz => false
  | .rdn => neg && inexact
  | .rup => !neg && inexact

/-- A rounded magnitude m · 2^q, and whether it differs from the exact one. -/
structure Rounded where
  m : Nat
  q : Int
  inexact : Bool
  deriving DecidableEq, Repr

/-- The magnitude m · 2^e, or a value just above it where `sticky`, rounded to the grid of step 2^q. -/
def roundAt (mode : RMode) (neg : Bool) (m : Nat) (e : Int) (sticky : Bool) (q : Int) : Rounded :=
  if q ≤ e then { m := m * 2 ^ (e - q).toNat, q := q, inexact := sticky }
  else
    let k := (q - e).toNat
    let hi := m / 2 ^ k
    let rem := m % 2 ^ k
    let half : Ordering := if sticky && 2 * rem = 2 ^ k then .gt else Ord.compare (2 * rem) (2 ^ k)
    let inexact := sticky || decide (rem ≠ 0)
    { m := if mode.up neg (decide (hi % 2 = 1)) half inexact then hi + 1 else hi, q := q, inexact := inexact }

/-- The step of a format at a magnitude: the exponent of the last bit kept, with no upper limit of the exponent. -/
def NFmt.step (f : NFmt) (m : Nat) (e : Int) : Int :=
  if f.isInt then 0 else max (e + Nat.log2 m - f.mbits) f.emin

/-- ROUND of a non-zero magnitude to a format. -/
def NFmt.round (f : NFmt) (mode : RMode) (neg : Bool) (m : Nat) (e : Int) (sticky : Bool) : Rounded :=
  roundAt mode neg m e sticky (f.step m e)

/-- m · 2^e against m' · 2^e'. -/
def cmpMag (m : Nat) (e : Int) (m' : Nat) (e' : Int) : Ordering :=
  let e0 := min e e'
  Ord.compare (m * 2 ^ (e - e0).toNat) (m' * 2 ^ (e' - e0).toNat)

/-- The pattern of a sign, exponent and mantissa on the format's grid, with m · 2^q at most the largest finite value. -/
def NFmt.pattern (f : NFmt) (neg : Bool) (m : Nat) (q : Int) : Word :=
  if f.isInt then BitVec.ofNat 32 ((if neg then 2 ^ f.width - m else m) % 2 ^ f.width)
  else
    let (m, q) := if m = 2 ^ (f.mbits + 1) then (m / 2, q + 1) else (m, q)
    let body := if m < 2 ^ f.mbits then m else (q - f.emin + 1).toNat * 2 ^ f.mbits + (m - 2 ^ f.mbits)
    BitVec.ofNat 32 ((if neg then 2 ^ (f.width - 1) else 0) + body)

def NFmt.infinity (f : NFmt) (neg : Bool) : Word :=
  BitVec.ofNat 32 ((if neg then 2 ^ (f.width - 1) else 0) + (2 ^ f.ebits - 1) * 2 ^ f.mbits)

def NFmt.zeroOf (f : NFmt) (neg : Bool) : Word :=
  if f.isInt then 0 else BitVec.ofNat 32 (if neg then 2 ^ (f.width - 1) else 0)

def NFmt.largest (f : NFmt) (neg : Bool) : Word :=
  if f.isInt then BitVec.ofNat 32 (if neg then 2 ^ (f.width - 1) else 2 ^ (f.width - 1) - 1)
  else
    let (m, e) := f.maxFin
    let k := f.mbits - Nat.log2 m
    f.pattern neg (m * 2 ^ k) (e - k)

/-- A rounded magnitude beyond the largest finite value of Table 05-1, as NARROW compares it for every format, the integers
included (R118). -/
def NFmt.exceeds (f : NFmt) (r : Rounded) : Bool :=
  let (m, e) := f.maxFin
  cmpMag r.m r.q m e = .gt

/-- The exact magnitude lies below the smallest normal. -/
def NFmt.tiny (f : NFmt) (m : Nat) (e : Int) : Bool :=
  !f.isInt && decide ((Nat.log2 m : Int) + e < f.emin + f.mbits)

/-- The IEEE overflow result of a mode (R118). -/
def NFmt.overflow (f : NFmt) (mode : RMode) (neg : Bool) : Word :=
  match mode with
  | .rne | .rha => f.infinity neg
  | .rz => f.largest neg
  | .rdn => if neg then f.infinity true else f.largest false
  | .rup => if neg then f.largest true else f.infinity false

/-- An exact result with the flags already raised, rounded once to a format with an infinity (R124). -/
def NFmt.finish (f : NFmt) (mode : RMode) (x : FVal) (sticky : Bool := false) : Word × Flags :=
  match x with
  | .nan _ => (f.nan, 0)
  | .inf n => (f.infinity n, 0)
  | .zero n => (f.zeroOf n, 0)
  | .fin n m e =>
    let r := f.round mode n m e sticky
    if f.exceeds r then (f.overflow mode n, fOV)
    else (if r.m = 0 then f.zeroOf n else f.pattern n r.m r.q, flagIf (r.inexact && f.tiny m e) fUF)

/-! ## Exact arithmetic -/

/-- The exact sum: NaN with NV for ∞ − ∞; an exact zero sum of opposite signs is +0, or −0 under RDN (R124). -/
def FVal.add (mode : RMode) (a b : FVal) : FVal × Flags :=
  let nv := snans [a, b]
  match a, b with
  | .nan _, _ | _, .nan _ => (.nan false, nv)
  | .inf x, .inf y => if x = y then (.inf x, 0) else (.nan false, fNV)
  | .inf x, _ => (.inf x, 0)
  | _, .inf y => (.inf y, 0)
  | .zero x, .zero y => (.zero (if x = y then x else decide (mode = .rdn)), 0)
  | .zero _, y => (y, 0)
  | x, .zero _ => (x, 0)
  | .fin _ _ e, .fin _ _ e' =>
    let e0 := min e e'
    let k := a.scaled e0 + b.scaled e0
    if k = 0 then (.zero (decide (mode = .rdn)), 0) else (.fin (decide (k < 0)) k.natAbs e0, 0)

/-- The exact product: NaN with NV for 0 · ∞. -/
def FVal.mul (a b : FVal) : FVal × Flags :=
  let s := a.sign != b.sign
  match a, b with
  | .nan _, _ | _, .nan _ => (.nan false, snans [a, b])
  | .inf _, .zero _ | .zero _, .inf _ => (.nan false, fNV)
  | .inf _, _ | _, .inf _ => (.inf s, 0)
  | .zero _, _ | _, .zero _ => (.zero s, 0)
  | .fin _ m e, .fin _ m' e' => (.fin s (m * m') (e + e'), 0)

/-- Integer square root by bits, from bit `k` down. -/
def isqrtFrom : Nat → Nat → Nat → Nat
  | 0, _, r => r
  | k + 1, n, r => let t := r + 2 ^ k; isqrtFrom k n (if t * t ≤ n then t else r)

/-- The greatest r with r · r at most n, for n below 2^256. -/
def isqrt (n : Nat) : Nat := isqrtFrom 128 n 0

/-- Rounded operations at a format: addition, product and fused product-sum with one rounding (R124, R128). -/
def NFmt.addOp (f : NFmt) (mode : RMode) (a b : Word) : Word × Flags :=
  let (x, fl) := (f.value a).add mode (f.value b)
  let (r, fl') := f.finish mode x
  (r, fl ||| fl')

def NFmt.mulOp (f : NFmt) (mode : RMode) (a b : Word) : Word × Flags :=
  let (x, fl) := (f.value a).mul (f.value b)
  let (r, fl') := f.finish mode x
  (r, fl ||| fl')

def NFmt.fmaOp (f : NFmt) (mode : RMode) (a b d : Word) : Word × Flags :=
  let (p, fl) := (f.value a).mul (f.value b)
  let (x, fl') := p.add mode (f.value d)
  let (r, fl'') := f.finish mode x
  (r, fl ||| fl' ||| fl'')

/-- Minimum and maximum: −0 below +0, a NaN skipped, two NaNs give the canonical NaN, no flag (R124). -/
def NFmt.minOp (f : NFmt) (a b : Word) : Word :=
  let x := f.value a
  let y := f.value b
  if x.isNan then if y.isNan then f.nan else b
  else if y.isNan then a
  else match x.compare y with
    | .lt => a
    | .gt => b
    | .eq => if x.sign then a else b

def NFmt.maxOp (f : NFmt) (a b : Word) : Word :=
  let x := f.value a
  let y := f.value b
  if x.isNan then if y.isNan then f.nan else b
  else if y.isNan then a
  else match x.compare y with
    | .gt => a
    | .lt => b
    | .eq => if x.sign then b else a

/-- Correctly rounded division (R124). -/
def divOp (mode : RMode) (a b : Word) : Word × Flags :=
  let x := NFmt.fp32.value a
  let y := NFmt.fp32.value b
  let s := x.sign != y.sign
  match x, y with
  | .nan _, _ | _, .nan _ => (NFmt.fp32.nan, snans [x, y])
  | .inf _, .inf _ | .zero _, .zero _ => (NFmt.fp32.nan, fNV)
  | .inf _, _ => (NFmt.fp32.infinity s, 0)
  | .zero _, _ | _, .inf _ => (NFmt.fp32.zeroOf s, 0)
  | .fin _ _ _, .zero _ => (NFmt.fp32.infinity s, fDZ)
  | .fin _ m e, .fin _ m' e' =>
    NFmt.fp32.finish mode (.fin s (m * 2 ^ 60 / m') (e - e' - 60)) (decide (m * 2 ^ 60 % m' ≠ 0))

/-- Correctly rounded square root (R124). -/
def sqrtOp (mode : RMode) (a : Word) : Word × Flags :=
  match NFmt.fp32.value a with
  | .nan s => (NFmt.fp32.nan, flagIf s fNV)
  | .zero n => (NFmt.fp32.zeroOf n, 0)
  | .inf n => if n then (NFmt.fp32.nan, fNV) else (NFmt.fp32.infinity false, 0)
  | .fin n m e =>
    if n then (NFmt.fp32.nan, fNV)
    else
      let k : Nat := if e % 2 = 0 then 60 else 61
      let big := m * 2 ^ k
      let r := isqrt big
      NFmt.fp32.finish mode (.fin false r ((e - k) / 2)) (decide (r * r ≠ big))

/-- a · 2^n, rounded once (R124, R131). -/
def scaleOp (mode : RMode) (a : Word) (n : Int) : Word × Flags :=
  let x := NFmt.fp32.value a
  match x with
  | .fin s m e => NFmt.fp32.finish mode (.fin s m (e + max (-600) (min 600 n)))
  | _ => let (r, _) := NFmt.fp32.finish mode x; (r, snans [x])

/-- `fcls` (R125). -/
def classOp (a : Word) : Word :=
  match NFmt.fp32.value a with
  | .nan true => 1
  | .nan false => 2
  | .inf true => 4
  | .inf false => 0x200
  | .zero true => 0x20
  | .zero false => 0x40
  | .fin n m _ => if m < 2 ^ 23 then (if n then 0x10 else 0x80) else (if n then 8 else 0x100)

/-- Rounding to an integral FP32 value (R127). -/
def integralOp (mode : RMode) (a : Word) : Word × Flags :=
  match NFmt.fp32.value a with
  | .nan s => (NFmt.fp32.nan, flagIf s fNV)
  | .inf _ | .zero _ => (a, 0)
  | .fin n m e =>
    if 0 ≤ e then (a, 0)
    else
      let r := roundAt mode n m e false 0
      if r.m = 0 then (NFmt.fp32.zeroOf n, 0) else ((NFmt.fp32.finish .rz (.fin n r.m 0)).1, 0)

/-! ## Narrowing (R118) -/

/-- NARROW of a value under a mode and a saturation bit; the pattern lies in the low bits of the word. -/
def NFmt.narrow (f : NFmt) (mode : RMode) (sat : Bool) (x : FVal) : Word × Flags :=
  match x with
  | .nan s =>
    if f = .e2m1 ∨ f.isInt then (0, fNV) else (f.nan, flagIf s fNV)
  | .inf n => if f.hasInf then (f.infinity n, 0) else (f.largest n, fOV ||| fSAT)
  | .zero n => (f.zeroOf n, 0)
  | .fin n m e =>
    let r := f.round mode n m e false
    if f.exceeds r then
      if sat || f = .e2m1 then (f.largest n, fOV ||| fSAT)
      else if f = .e4m3 then (if n then 0xFF else 0x7F, fOV)
      else if f.isInt then
        let t := r.m * 2 ^ r.q.toNat % 2 ^ f.width
        (BitVec.ofNat 32 ((if n then 2 ^ f.width - t else t) % 2 ^ f.width), fOV)
      else (f.overflow mode n, fOV)
    else (if r.m = 0 then f.zeroOf n else f.pattern n r.m r.q, flagIf (r.inexact && f.tiny m e) fUF)

/-- Position of a format's control in NMODE (Table 05-5); none for FP32. -/
def NFmt.ctl : NFmt → Option Nat
  | .e2m1 => some 0 | .e4m3 => some 3 | .e5m2 => some 6 | .bf16 => some 9 | .fp16 => some 12 | .int8 => some 15
  | .int4 => some 18 | .fp32 => none

/-- Rounding and saturation of a narrowing: the MOD fields where given, else NMODE (R116, R117). -/
def narrowCtl (nmode : Word) (modR : BitVec 3) (modS : BitVec 2) (f : NFmt) : RMode × Bool :=
  let c := nmode.extractLsb' (f.ctl.getD 0) 3
  (if modR = 0 then RMode.ofBits (c.extractLsb' 0 2) else RMode.ofBits (modR.extractLsb' 0 2),
   if modS = 0 then c.extractLsb' 2 1 = 1 else modS = 3)

/-- The rounding of a form that does not narrow: its own rule, or the MOD field (R117). -/
def ownMode (dflt : RMode) (modR : BitVec 3) : RMode :=
  if modR = 0 then dflt else RMode.ofBits (modR.extractLsb' 0 2)

/-- FP32 to an integer range with saturation and NV (R130). -/
def toIntOp (mode : RMode) (lo hi : Int) (a : Word) : Word × Flags :=
  match NFmt.fp32.value a with
  | .nan _ => (0, fNV)
  | .inf n => (BitVec.ofInt 32 (if n then lo else hi), fNV)
  | .zero _ => (0, 0)
  | .fin n m e =>
    let r := roundAt mode n m e false 0
    let v : Int := if n then -(r.m : Int) else r.m
    if v < lo then (BitVec.ofInt 32 lo, fNV) else if hi < v then (BitVec.ofInt 32 hi, fNV) else (BitVec.ofInt 32 v, 0)

/-- Element `k` of width `w` of a packed word (R112). -/
def element (w k : Nat) (x : Word) : Word := BitVec.ofNat 32 (x.toNat / 2 ^ (w * k) % 2 ^ w)

/-- The low `w` bits sign-extended to 32. -/
def sext (w : Nat) (x : Word) : Word :=
  let n := x.toNat % 2 ^ w
  if n < 2 ^ (w - 1) then BitVec.ofNat 32 n else BitVec.ofNat 32 (2 ^ 32 + n - 2 ^ w)

/-- The signed value of the low `w` bits. -/
def sval (w : Nat) (x : Word) : Int :=
  let n := x.toNat % 2 ^ w
  if n < 2 ^ (w - 1) then n else (n : Int) - 2 ^ w

/-- `cvt` by selector (Table 05-13). -/
def cvtOp (nmode : Word) (modR : BitVec 3) (modS : BitVec 2) (s : Nat) (a : Word) : Word × Flags :=
  let x := NFmt.fp32.value a
  let nar := fun (f : NFmt) (v : FVal) => let (mode, sat) := narrowCtl nmode modR modS f; f.narrow mode sat v
  let ext := fun (f : NFmt) (r : Word × Flags) => (sext f.width r.1, r.2)
  match s with
  | 0 => ((NFmt.fp32.finish (ownMode .rne modR) (ofInt a.toInt)).1, 0)
  | 1 => ((NFmt.fp32.finish (ownMode .rne modR) (ofInt a.toNat)).1, 0)
  | 2 => toIntOp (ownMode .rz modR) (-2147483648) 2147483647 a
  | 3 => toIntOp (ownMode .rz modR) 0 4294967295 a
  | 4 => nar .fp16 x
  | 5 => nar .bf16 x
  | 6 => nar .e4m3 x
  | 7 => nar .e5m2 x
  | 8 => nar .e2m1 x
  | 9 => ext .int8 (nar .int8 x)
  | 10 => ext .int4 (nar .int4 x)
  | 11 => ext .int8 (nar .int8 (ofInt a.toInt))
  | _ => ext .int4 (nar .int4 (ofInt a.toInt))

/-- An element widened exactly to FP32; a NaN gives the canonical NaN (R132). -/
def widen (f : NFmt) (x : Word) : Word := (NFmt.fp32.finish .rne (f.value x)).1

/-- `upk` by selector (R132). -/
def upkOp (s : Nat) (a : Word) : Word :=
  let k := s % 8
  match s / 8 with
  | 1 => widen .fp16 (element 16 k a)
  | 2 => widen .bf16 (element 16 k a)
  | 3 => widen .e4m3 (element 8 k a)
  | 4 => widen .e5m2 (element 8 k a)
  | 5 => widen .e2m1 (element 4 k a)
  | 6 => sext 8 (element 8 k a)
  | _ => sext 4 (element 4 k a)

/-! ## Dot products (R134, R135) -/

/-- The exact sum of finite products and an accumulator; an exact zero is −0 only if all are −0. -/
def exactSum (l : List FVal) : FVal :=
  let e0 := l.foldl (fun acc v => min acc (v.exp.getD acc)) (((l.findSome? FVal.exp).getD 0))
  let k := l.foldl (fun acc v => acc + v.scaled e0) (0 : Int)
  if k = 0 then .zero (l.all fun v => v.isZero && v.sign) else .fin (decide (k < 0)) k.natAbs e0

/-- The float dot product of element pairs into an FP32 accumulator. -/
def dotOp (f : NFmt) (n : Nat) (a b d : Word) : Word × Flags :=
  let el := fun x => (List.range n).map fun k => f.value (element f.width k x)
  let c := NFmt.fp32.value d
  let all := c :: (el a ++ el b)
  if all.any FVal.isNan then (NFmt.fp32.nan, snans all)
  else
    let ps := (List.zipWith FVal.mul (el a) (el b)).map Prod.fst
    if ps.any FVal.isNan then (NFmt.fp32.nan, fNV)
    else
      let infs := (c :: ps).filter FVal.isInf
      match infs with
      | [] => NFmt.fp32.finish .rne (exactSum (c :: ps))
      | i :: rest => if rest.all (fun j => j.sign = i.sign) then (NFmt.fp32.infinity i.sign, 0) else (NFmt.fp32.nan, fNV)

/-- The integer dot product: S modulo 2^32, OV outside the range. -/
def dotIntOp (w n : Nat) (signed : Bool) (a b d : Word) : Word × Flags :=
  let el := fun (x : Word) (k : Nat) => if signed then sval w (element w k x) else ((element w k x).toNat : Int)
  let acc : Int := if signed then d.toInt else d.toNat
  let s := (List.range n).foldl (fun t k => t + el a k * el b k) acc
  let ok := if signed then decide (-2147483648 ≤ s) && decide (s ≤ 2147483647)
    else decide (0 ≤ s) && decide (s ≤ 4294967295)
  (BitVec.ofInt 32 s, flagIf (!ok) fOV)

/-! ## Special functions (R126) -/

/-- The sign-free bits. -/
def mag (x : Word) : Nat := x.toNat % 2 ^ 31

/-- A power of two with its exponent. -/
def FVal.pow2 : FVal → Option Int
  | .fin _ m e => if m = 2 ^ Nat.log2 m then some (e + Nat.log2 m) else none
  | _ => none

/-- A free value kept where its bits, read as a magnitude, lie between two bounds; else the lower bound (R126). -/
def within (lo hi : Nat) (sign : Bool) (v : Word) : Word :=
  let m := mag v
  BitVec.ofNat 32 ((if sign then 2 ^ 31 else 0) + (if lo ≤ m ∧ m ≤ hi then m else lo))

/-- In units of 2^−250: the exponent of an ulp of FP32 at a magnitude, 2^−149 at least (R126). -/
def ulpAt (x : Nat) : Nat := max (Nat.log2 x - 23) 101

/-- The bits of the largest FP32 magnitude at or below a magnitude in units of 2^−250, as if exponents had no upper limit. -/
def magDown (x : Nat) : Nat := (ulpAt x - 101) * 2 ^ 23 + x / 2 ^ ulpAt x

/-- The bits of the smallest FP32 magnitude at or above a magnitude in units of 2^−250. -/
def magUp (x : Nat) : Nat := (ulpAt x - 101) * 2 ^ 23 + (x + 2 ^ ulpAt x - 1) / 2 ^ ulpAt x

/-- A free value kept within `n` ulp of an exact magnitude in units of 2^−250, with the exact result's sign; infinity where that
lies beyond the range (R126, log 6). -/
def bounded (n : Nat) (sign : Bool) (x : Nat) (v : Word) : Word :=
  let d := n * 2 ^ ulpAt x
  let lo := magUp (x - d)
  if 0x7F7FFFFF < lo then NFmt.fp32.infinity sign else within lo (min (magDown (x + d)) 0x7F7FFFFF) sign v

/-- A magnitude m · 2^e of FP32 in units of 2^−149. -/
def wholeOf (m : Nat) (e : Int) : Nat := m * 2 ^ (149 + e).toNat

/-! Exact results in units of 2^−250, each to within a few units: series in whole numbers. -/

/-- The sum of `n` terms: `part i t` of each `t`, which starts at `first` and goes on by `step`, with every other one subtracted
where `alt` says. -/
def series (alt : Bool) (n first : Nat) (step part : Nat → Nat → Nat) : Nat :=
  let go := fun (a : Nat × Int) (i : Nat) => (step i a.1, if alt && i % 2 = 1 then a.2 - part i a.1 else a.2 + part i a.1)
  ((List.range n).foldl go (first, 0)).2.toNat

/-- ln (p / q) for q ≤ p ≤ 2q: twice the inverse hyperbolic tangent of (p − q) / (p + q). -/
def lnFx (p q : Nat) : Nat :=
  let z := (p - q) * 2 ^ 250 / (p + q)
  2 * series false 85 z (fun _ t => t * z / 2 ^ 250 * z / 2 ^ 250) fun i t => t / (2 * i + 1)

/-- e^y for y below 1. -/
def expFx (y : Nat) : Nat := series false 64 (2 ^ 250) (fun i t => t * y / 2 ^ 250 / (i + 1)) fun _ t => t

/-- sin y for y up to π / 2. -/
def sinFx (y : Nat) : Nat := series true 36 y (fun i t => t * y / 2 ^ 250 * y / 2 ^ 250 / ((2 * i + 2) * (2 * i + 3))) fun _ t => t

/-- cos y for y up to π / 2. -/
def cosFx (y : Nat) : Nat := series true 36 (2 ^ 250) (fun i t => t * y / 2 ^ 250 * y / 2 ^ 250 / ((2 * i + 1) * (2 * i + 2))) fun _ t => t

/-- sin y as the place where an ulp is measured: the exact sine lies below its angle, also where the series cannot tell (R126). -/
def sinMag (y : Nat) : Nat := if sinFx y = y then y - 1 else sinFx y

/-- cos y likewise: below 1 for every angle but 0. -/
def cosMag (y : Nat) : Nat := if y ≠ 0 ∧ cosFx y = 2 ^ 250 then 2 ^ 250 - 1 else cosFx y

/-- The arc tangent of 1 / n in units of 2^−399. -/
def atanInv (n : Nat) : Nat := series true 90 (2 ^ 250 * 2 ^ 149 / n) (fun _ t => t / (n * n)) fun i t => t / (2 * i + 1)

/-- π / 2 in units of 2^−399, by Machin's formula. -/
def halfPi : Nat := 8 * atanInv 5 - 2 * atanInv 239

/-- The quadrant of an angle, modulo 4, and the angle from the quadrant's start. -/
def quadrant (m : Nat) (e : Int) : Nat × Nat :=
  let a := wholeOf m e * 2 ^ 250
  (a / halfPi % 4, a % halfPi / 2 ^ 149)

/-- UF for a subnormal or zero result of a finite input, OV for an infinite one (R126). -/
def specialFlags (r : Word) : Flags :=
  flagIf (decide (mag r < 2 ^ 23)) fUF ||| flagIf (decide (mag r = 0x7F800000)) fOV

/-- A special result with its flags from the value. -/
def special (r : Word) : Word × Flags := (r, specialFlags r)

/-- `frcp`: exact for powers of two, else a value within one ulp of 1/a. -/
def frcpOp (a : Word) : Word × Flags :=
  let x := NFmt.fp32.value a
  match x with
  | .nan s => (NFmt.fp32.nan, flagIf s fNV)
  | .zero n => (NFmt.fp32.infinity n, fDZ)
  | .inf n => (NFmt.fp32.zeroOf n, 0)
  | .fin n m e =>
    match x.pow2 with
    | some _ => special (divOp .rne 0x3F800000 a).1
    | none =>
      special (bounded 1 n (2 ^ 250 * 2 ^ 149 / wholeOf m e) (Config.frcp a))

/-- `frsq`: exact for powers of four, else a value within one ulp of 1/√a. -/
def frsqOp (a : Word) : Word × Flags :=
  let x := NFmt.fp32.value a
  match x with
  | .nan s => (NFmt.fp32.nan, flagIf s fNV)
  | .zero n => (NFmt.fp32.infinity n, fDZ)
  | .inf n => if n then (NFmt.fp32.nan, fNV) else (0, 0)
  | .fin n m e =>
    if n then (NFmt.fp32.nan, fNV)
    else
      match x.pow2.filter (fun k => k % 2 = 0) with
      | some k => special (NFmt.fp32.finish .rne (.fin false 1 (-(k / 2)))).1
      | none => special (bounded 1 false (isqrtFrom 200 (2 ^ 240 * 2 ^ 149 / wholeOf m e) 0 * 2 ^ 130) (Config.frsq a))

/-- `fex2`: exact for integers, +∞ from 128 on, else a value within two ulps of 2^a. -/
def fex2Op (a : Word) : Word × Flags :=
  match NFmt.fp32.value a with
  | .nan s => (NFmt.fp32.nan, flagIf s fNV)
  | .zero _ => (0x3F800000, 0)
  | .inf n => (if n then 0 else 0x7F800000, 0)
  | .fin n m e =>
    let z : Int := if n then -(wholeOf m e : Int) else wholeOf m e
    let k := z / 2 ^ 149
    let f := (z % 2 ^ 149).toNat
    if 128 ≤ k then (0x7F800000, fOV)
    else if f = 0 ∧ -149 ≤ k then special (NFmt.fp32.finish .rne (.fin false 1 k)).1
    else
      let y := expFx (f * lnFx 2 1 / 2 ^ 149)
      special (bounded 2 false (if k < -250 then 0 else if k < 0 then y / 2 ^ (-k).toNat else y * 2 ^ k.toNat) (Config.fex2 a))

/-- `flg2`: exact for powers of two, else a value within two ulps of log₂ a. -/
def flg2Op (a : Word) : Word × Flags :=
  let x := NFmt.fp32.value a
  match x with
  | .nan s => (NFmt.fp32.nan, flagIf s fNV)
  | .zero _ => (0xFF800000, fDZ)
  | .inf n => if n then (NFmt.fp32.nan, fNV) else (0x7F800000, 0)
  | .fin n m e =>
    if n then (NFmt.fp32.nan, fNV)
    else match x.pow2 with
      | some z => special (NFmt.fp32.finish .rne (ofInt z)).1
      | none =>
        let z : Int := (e + Nat.log2 m) * 2 ^ 250 + (lnFx m (2 ^ Nat.log2 m) * 2 ^ 250 / lnFx 2 1 : Nat)
        special (bounded 2 (decide (z < 0)) z.natAbs (Config.flg2 a))

/-- Ulps of a sine or cosine: 2 up to π, 3 beyond. -/
def angleUlps (m : Nat) (e : Int) : Nat := if wholeOf m e * 2 ^ 250 ≤ 2 * halfPi then 2 else 3

/-- `fsin` (R126). -/
def fsinOp (a : Word) : Word × Flags :=
  match NFmt.fp32.value a with
  | .nan s => (NFmt.fp32.nan, flagIf s fNV)
  | .zero _ => (a, 0)
  | .inf _ => (NFmt.fp32.nan, fNV)
  | .fin n m e =>
    let (q, y) := quadrant m e
    special (bounded (angleUlps m e) (n != decide (2 ≤ q)) (if q % 2 = 0 then sinMag y else cosMag y) (Config.fsin a))

/-- `fcos` (R126). -/
def fcosOp (a : Word) : Word × Flags :=
  match NFmt.fp32.value a with
  | .nan s => (NFmt.fp32.nan, flagIf s fNV)
  | .zero _ => (0x3F800000, 0)
  | .inf _ => (NFmt.fp32.nan, fNV)
  | .fin _ m e =>
    let (q, y) := quadrant m e
    special (bounded (angleUlps m e) (q = 1 || q = 2) (if q % 2 = 0 then cosMag y else sinMag y) (Config.fcos a))

end Sys2Proof.Machine
end

