-- ==== Sys2Proof/Machine/Table.lean ====
section
/-! DEFINITION. Sparse tables: sorted lists of key and value pairs in one canonical form. -/

namespace Sys2Proof.Machine

/-- A sparse table: keys strictly rising; with a default, no entry equal to the default. -/
abbrev Tab (α : Type) := List (Nat × α)

/-- The value at `k`, or `dflt` where no entry stands. -/
def Tab.get {α : Type} (dflt : α) : Tab α → Nat → α
  | [], _ => dflt
  | (j, v) :: t, k => if k = j then v else Tab.get dflt t k

/-- The entry at `k`, if any. -/
def Tab.find {α : Type} : Tab α → Nat → Option α
  | [], _ => none
  | (j, v) :: t, k => if k = j then some v else Tab.find t k

/-- The table without an entry at `k`. -/
def Tab.del {α : Type} : Tab α → Nat → Tab α
  | [], _ => []
  | (j, v) :: t, k => if k = j then Tab.del t k else (j, v) :: Tab.del t k

/-- The table with the entry `v` at `k`. -/
def Tab.put {α : Type} : Tab α → Nat → α → Tab α
  | [], k, v => [(k, v)]
  | (j, w) :: t, k, v =>
    if k = j then (k, v) :: t else if k < j then (k, v) :: (j, w) :: t else (j, w) :: Tab.put t k v

/-- The table whose value at `k` is `v`; writing the default removes the entry. -/
def Tab.set {α : Type} [DecidableEq α] (dflt : α) (t : Tab α) (k : Nat) (v : α) : Tab α :=
  if v = dflt then Tab.del t k else Tab.put t k v

/-- Every key of the table is above `b`, and the keys rise strictly. -/
def Tab.rising {α : Type} : Nat → Tab α → Bool
  | _, [] => true
  | b, (j, _) :: t => decide (b ≤ j) && Tab.rising (j + 1) t

/-- The canonical form of a table with default `dflt`. -/
def Tab.wf {α : Type} [DecidableEq α] (dflt : α) (t : Tab α) : Bool :=
  Tab.rising 0 t && t.all fun e => decide (e.2 ≠ dflt)

/-- Apply `f` to the entry at `k`, where one stands. -/
def Tab.modify {α : Type} (t : Tab α) (k : Nat) (f : α → α) : Tab α :=
  match Tab.find t k with
  | some v => Tab.put t k (f v)
  | none => t

/-- The least key at or above `n` below `n + fuel` that the table does not hold. -/
def Tab.free {α : Type} (t : Tab α) (n : Nat) : Nat → Option Nat
  | 0 => none
  | fuel + 1 => if (Tab.find t n).isNone then some n else Tab.free t (n + 1) fuel

end Sys2Proof.Machine
end

