-- ==== Sys2Proof/Machine/State.lean ====
section
/-! DEFINITION. The state of the Sarastan as plain data: groups, teams, cores, memories, queues, tables, contexts, the
host side, and the agenda that says which step comes next; the reasons a step can stop; and the state after reset. -/

namespace Sys2Proof.Machine

/-- Why the machine stops. Every fault that the spec describes is taken as a next state; this one is the model's own. -/
inductive Fault where
  /-- Raised by the meaning of a word when the current agent does not exist (no such group or courier): no agent
  issues the word, a situation the spec does not have. Safe: `step` never runs a word for such an agent. -/
  | noAgent
  deriving DecidableEq, Repr

/-- Why an instruction has no meaning. -/
inductive Refusal where
  /-- Raised by an arm of `exec` that has no meaning yet. Safe: the machine stops. -/
  | notModelled (mnemonic : String)
  deriving DecidableEq, Repr

/-- The fault names of Table 16-12 (R390). -/
inductive FCode where
  | illegal | reservedBits | privilege | operand | hintSeq | dict
  | align | address | translation | permission | stage2 | tagFormat
  | barrierClobber | barrierAbandoned | stashRange
  | fpTrap | branchRange | callDepth | watchdog | timer
  | matrixMismatch | party | batch | mcast | pairOverflow | pairEmit | uncorrectable | trap
  deriving DecidableEq, Repr

/-! ## Groups -/

/-- A path: a PC (or regang address, or return PC) and its lanes of one quad (Table 04-7). -/
structure Path where
  pc : DWord
  mask : BitVec 4
  deriving DecidableEq, Repr

/-- The control state of one quad (R99, Table 04-7) with its age (R101). Stacks are listed top first. -/
structure Quad where
  path : Option Path := none
  defer : List Path := []
  park : List Path := []
  ret : List Path := []
  age : Nat := 0
  deriving DecidableEq, Repr

/-- The pending hints of a group with their payloads (HINTST, R230). -/
structure Hints where
  imm : Option (BitVec 23) := none
  mod : Option (BitVec 23) := none
  rep : Option (BitVec 23) := none
  pref : Option (BitVec 23) := none
  bar : Option (BitVec 23) := none
  deriving DecidableEq, Repr

/-- The identity registers (R233, Table 08-16). -/
structure Ident where
  teamx : Word := 0
  teamy : Word := 0
  teamz : Word := 0
  gridx : Word := 0
  gridy : Word := 0
  gridz : Word := 0
  gint : BitVec 4 := 0
  teamn : Word := 0
  clusx : BitVec 2 := 0
  clusy : BitVec 2 := 0
  param : DWord := 0
  stashid : BitVec 16 := 0
  teamg : BitVec 5 := 1
  width : BitVec 4 := 1
  height : BitVec 4 := 1
  gkind : BitVec 2 := 0
  deriving DecidableEq, Repr

/-- A deferred matrix fault (R196). -/
structure DefFault where
  code : FCode
  faux : Word
  faddr : DWord
  deriving DecidableEq, Repr

/-- Where a matrix operation stands (R193, R196). -/
inductive MatSt where
  | issued | fetched | complete | discarded
  deriving DecidableEq, Repr

/-- An issued matrix operation (R183, Table 16-11) with the operand bytes and tags it fetched. -/
structure MatOp where
  batch : BitVec 16
  idx : Nat
  acc : Nat
  red : Bool
  z : Bool
  int : Bool
  asrc : Bool
  bsrc : Bool
  ovr : BitVec 4 := 0
  abase : DWord
  apitch : Word
  bbase : DWord
  bpitch : Word
  members : BitVec 16
  lanes : LaneMask
  /-- Where each row of A and column of B lies: a PA, or a team and stash offset in one number. -/
  alocs : List Nat := []
  blocs : List Nat := []
  st : MatSt := .issued
  blocks : BitVec 4 := 0
  afmt : Nat := 0
  bfmt : Nat := 0
  abytes : List (BitVec 4096) := []
  bbytes : List (BitVec 4096) := []
  atags : List (List Tag) := []
  btags : List (List Tag) := []
  pins : List Nat := []
  flags : BitVec 5 := 0
  /-- Number of the party that it started with, which no other party has (R189). -/
  party : Option Nat := none
  /-- B has been read, by this operation or for its whole party; the address of a poisoned sector met there. -/
  bread : Bool := false
  bbad : Option Nat := none
  deriving DecidableEq, Repr

inductive FenceK where
  | acq | rel | ar | ns
  deriving DecidableEq, Repr

/-- An issued fence that has not completed: its kind and scope, the bound below which an operation is earlier (R158), and whether a load
has come to stand behind it that may execute early (R159). -/
structure Fence where
  kind : FenceK
  scope : Nat
  bound : Nat
  tried : Bool := false
  deriving DecidableEq, Repr

/-- A wait in progress (R343): the waiting word's PC, CTIME at its start, whether it has arrived at its barrier or has
sent its request, and a value latched at its start. -/
structure Wait where
  pc : DWord
  start : Nat
  arrived : Bool := false
  latched : Nat := 0
  /-- Where the waiting word continues, and the CTIME at which a `sleep` ends. -/
  next : DWord := 0
  till : Option Nat := none
  /-- The flush point or barrier it waits at: 1 `tbar`, 2 `cbar`, 3 `gsync`, 4 `drain`, 0 none. -/
  span : Nat := 0
  /-- The barrier object it waits at: team and offset (R169). Its stash address is latched. -/
  bar : Option (Nat × Nat) := none
  /-- The number of the next operation when a waiting `wvalue` issued: a fence with a higher bound orders it (R158). -/
  load : Option Nat := none
  /-- The watchdog measures the wait (Table 14-3). -/
  timed : Bool := true
  deriving DecidableEq, Repr

/-- An operation that has reached the muster latch (R189): its word, its number and what it will start with. -/
structure Muster where
  pc : DWord
  num : BitVec 16
  op : MatOp
  deriving DecidableEq, Repr

/-- A lane's pair in a pair group (R302): records and exclusion class. -/
structure PairLane where
  i : Word
  j : Word
  cls : BitVec 2
  deriving DecidableEq, Repr

/-- Whether a group issues (R372, R381). -/
inductive Run where
  | running
  | faulted
  | halted
  | ended
  deriving DecidableEq, Repr

/-- The state of one group (R219, Table 08-1). -/
structure Grp where
  /-- `v` register `r` of lane `l` at key 96r + l. -/
  v : Tab Word := []
  /-- `p0` to `p6`. -/
  p : Tab LaneMask := []
  /-- `s0` to `s63`. -/
  s : Tab Word := []
  exited : LaneMask := 0
  quads : Tab Quad := []
  nmode : Word := 0x00124924
  gflags : BitVec 5 := 0
  garm : BitVec 5 := 0
  members : BitVec 16 := 0
  nextop : BitVec 16 := 0
  bopen : BitVec 16 := 0
  bops : Nat := 0
  closed : List (BitVec 16) := []
  defer : Option DefFault := none
  mops : List MatOp := []
  ifc0 : Nat := 0
  ifc1 : Nat := 0
  ifc2 : Nat := 0
  ifc3 : Nat := 0
  tbound : DWord := 0
  tslot : BitVec 3 := 0
  gtcmp : DWord := 0
  stage : Word := 0
  latch : Option (Nat × Word) := none
  hints : Hints := {}
  rep : Option (BitVec 6) := none
  /-- PC of the word that the pending hints precede: its fragment issues next (R61). -/
  hintPc : Option DWord := none
  id : Ident := {}
  fcode : BitVec 8 := 0
  fpc : DWord := 0
  faddr : DWord := 0
  fhalt : Bool := false
  skid : BitVec 4 := 0
  faux : Word := 0
  epoch : Nat := 0
  hcount : Nat := 0
  emitted : LaneMask := 0
  pairs : List PairLane := []
  frame : Option DWord := none
  /-- The quads of the faulting fragment, FRAG of Table 16-3. -/
  frag : BitVec 24 := 0
  primary : Bool := false
  pending : Bool := false
  waits : List Wait := []
  fences : List Fence := []
  muster : Option Muster := none
  run : Run := .running
  /-- Instructions issued since a sibling's halt was broadcast to the group, if one is under way (R372). -/
  halting : Option Nat := none
  frozen : Bool := false
  /-- PC of the fragment that gave way by `yield` (R107). -/
  yielded : Option DWord := none
  /-- Pending imprecise UNCORRECTABLE: address met and PC of the access (R269, R379). -/
  soft : Option (DWord × Word) := none
  /-- Lanes whose access read poison, each with its sector's address (R306). -/
  softLanes : Tab Nat := []
  /-- Registers that hold an uncorrectable error, by class (0 vector, 1 scalar, 2 predicate) and number (R269, R379). -/
  regErrs : List (Nat × Nat) := []
  /-- Scalars that an engine will still write (R206, R207): first number and count. -/
  owed : List (Nat × Nat) := []
  /-- Locality score (R294). -/
  score : Nat := 0
  /-- CYC of the core at the last issue (R293), and the number of issues. -/
  last : Nat := 0
  issues : Nat := 0
  /-- After a `yield`: the core's other groups that issue first, by team and GINT, with their numbers of issues then (R107). -/
  gave : List (Nat × Nat × Nat) := []
  /-- CYC at which an engaged throttle first held the group's ready memory word back (R294). -/
  denied : Option Nat := none
  /-- The word that issues now is slot A of a D word whose slot B is not empty (R66). -/
  inSlot : Bool := false
  deriving DecidableEq, Repr

/-! ## Teams -/

inductive Kind where
  | team | task | pair
  deriving DecidableEq, Repr

/-- A kernel object as read (R271, Table 11-1); a task takes the spawner's, a pair group the descriptor's fields. -/
structure KObj where
  entry : DWord := 0
  dict : DWord := 0
  regs : Nat := 8
  teamg : Nat := 1
  cx : Nat := 1
  cy : Nat := 1
  stash : Nat := 0
  mode : Nat := 0
  prio : Nat := 0
  hbind : Bool := false
  deriving DecidableEq, Repr

/-- What stash bytes under a window line held before the line's first touch: bytes, tags and poison of both sectors (R262). -/
structure Under where
  bytes : List Byte := []
  t0 : Tag := 0
  t1 : Tag := 0
  p0 : Bool := false
  p1 : Bool := false
  deriving DecidableEq, Repr

/-- A window line that is not ABSENT (Table 10-4): its physical line number, whether it is dirty, the stage-2 leaf of its
page for dirty tracking (R316), and what stood there before. -/
structure WinLine where
  pa : Nat
  dirty : Bool
  leaf : Nat := 0
  ipa : Nat := 0
  lsz : Nat := 4096
  dset : Bool := true
  was : Under := {}
  deriving DecidableEq, Repr

/-- A stash window (R148): global base, stash offset and length in KiB, and its lines by index. -/
structure Window where
  base : DWord
  off : Nat
  len : Nat
  lines : Tab WinLine := []
  deriving DecidableEq, Repr

/-- A team that is ending (R380, Table 16-6): killed, or by exit with its last group and that group's last PC. -/
inductive Ending where
  | kill
  | exit (gint : Nat) (pc : DWord)
  deriving DecidableEq, Repr

/-- A team resident on a core (R20, R21): its kernel, place, stash with tags and poison, barrier generations, windows,
groups and marks. The fields of a barrier object lie in the stash bytes (Table 06-8); its generation stands here. -/
structure Team where
  ctx : Nat := 0
  lid : Nat := 0
  kind : Kind := .team
  kobj : KObj := {}
  core : Nat := 0
  slot : Nat := 0
  cluster : Nat := 0
  rank : Nat := 0
  stashid : BitVec 16 := 0
  stash : Tab Byte := []
  stags : Tab Tag := []
  spoison : List Nat := []
  /-- Live barrier objects: generation by stash offset. -/
  bars : Tab (BitVec 16) := []
  /-- Last generation used at an offset (R338). -/
  gens : Tab (BitVec 16) := []
  wins : Tab Window := []
  groups : Tab Grp := []
  succ : Bool := false
  halted : Bool := false
  ccyc : Nat := 0
  /-- The team's last group is in the at-exit steps of R381. -/
  exiting : Bool := false
  /-- The steps of Table 16-6 have begun and are not done. -/
  ending : Option Ending := none
  deriving DecidableEq, Repr

/-! ## Memory operations in flight -/

/-- Who made an access. -/
inductive Who where
  | grp (team gint : Nat)
  | courier (core : Nat)
  deriving DecidableEq, Repr

/-- The place that performs a part: a line's home, or a team's stash (R348). -/
inductive Place where
  | home
  | stash (team : Nat)
  deriving DecidableEq, Repr

inductive OpK where
  | load (sext : Bool)
  | store
  | atomic (k : AtomK)
  | ldt
  | stt
  | hgath
  | pread
  | cpaIn
  | cpaOut
  | padd
  deriving DecidableEq, Repr

/-- One lane's share of an access: the name it used (virtual or stash address), where it is performed, its data, the
value it got, and for a lane copy the stash place and the stash address by which the lane named it. -/
structure LaneAcc where
  lane : Nat
  name : Nat
  addr : Nat
  data : BitVec 128 := 0
  got : BitVec 128 := 0
  gotTag : Tag := 0
  aux : Nat := 0
  sname : Nat := 0
  deriving DecidableEq, Repr

inductive PartSt where
  | waiting
  | forwarded
  | held (order : Nat)
  | done (wct : Nat)
  | lost
  deriving DecidableEq, Repr

/-- The lanes of one instruction in one 64-byte sector: one access (R140). -/
structure Part where
  place : Place
  sector : Nat
  lanes : List LaneAcc
  st : PartSt := .waiting
  /-- Die and slice that the request was hashed to under the map of its time (R33). -/
  sent : Nat × Nat := (0, 0)
  /-- PA of the stage-2 leaf and the D bit as translation found it (R323). -/
  leaf : Nat := 0
  dset : Bool := true
  /-- IPA of the page and the size of its stage-2 leaf, for the dirty log (R315). -/
  ipa : Nat := 0
  lsz : Nat := 4096
  /-- Served from the L1 under a lease (R357). -/
  leased : Bool := false
  /-- The Ellek Link port by which a request to a peer has left (R395). -/
  port : Option Nat := none
  /-- A write to a peer or to the host: its port has accepted it; the peer has acknowledged it (R365, R366). -/
  ported : Bool := false
  acked : Bool := false
  deriving DecidableEq, Repr

/-- Destination registers of a returning access: first register and count. -/
inductive Dst where
  | none
  | vec (r n : Nat)
  | scal (r n : Nat)
  deriving DecidableEq, Repr

/-- An issued access of a group or courier that is not yet both answered and complete. -/
structure MemOp where
  who : Who
  core : Nat
  ctx : Nat
  kind : OpK
  size : Nat
  dst : Dst := .none
  /-- The in-flight counter that counts it (Table 06-7). -/
  ifc : Option Nat := none
  pc : DWord := 0
  policy : BitVec 2 := 0
  rc : Nat := 0
  parts : List Part := []
  /-- Barrier object to credit: team, offset, generation (R146, R338). -/
  bar : Option (Nat × Nat × BitVec 16) := none
  replied : Bool := false
  deriving DecidableEq, Repr

/-- A byte credit on its way to a barrier object (R170, R338). -/
structure Credit where
  team : Nat
  off : Nat
  gen : BitVec 16
  bytes : Nat
  deriving DecidableEq, Repr

/-- A word that a waiting `wvalue` watches at its home (R163). -/
structure Watch where
  who : Who
  pc : DWord
  pa : Nat
  want : Word
  seen : Bool := false
  deriving DecidableEq, Repr

/-! ## Cores -/

/-- An L1 line (R258): two sectors with data, tags and valid bits, the lease expiry, read count and reads served, the
cache policy, an age for replacement, and the group whose fill brought it. -/
structure L1Line where
  d0 : BitVec 512 := 0
  d1 : BitVec 512 := 0
  t0 : Tag := 0
  t1 : Tag := 0
  v0 : Bool := false
  v1 : Bool := false
  expiry : Nat := 0
  rc : Nat := 0
  reads : Nat := 0
  policy : BitVec 2 := 0
  used : Nat := 0
  filler : Nat × Nat := (0, 0)
  /-- The context that filled it (R340). -/
  ctx : Option Nat := none
  deriving DecidableEq, Repr

/-- A cached combined translation (R322): context, page base and size, PA base, the permissions both leaves grant, the
stage-2 leaf's PA, its D bit as the walk found it, and the IPA of the page. In a stage-2 entry, which the L2 TLB alone holds, `base`
is an IPA and the stage-1 permissions are not used. -/
structure TlbEntry where
  ctx : Nat
  base : Nat
  size : Nat
  pa : Nat
  r : Bool
  w : Bool
  x : Bool
  r2 : Bool
  w2 : Bool
  x2 : Bool
  leaf : Nat
  d : Bool
  ipa : Nat
  lsz : Nat
  only2 : Bool := false
  /-- The stage-2 page is one of 64 KiB, with 16 leaves in a row; the D bits of all of them as the walk found them (R321, R323). -/
  cont : Bool := false
  ds : BitVec 16 := 0
  deriving DecidableEq, Repr

/-- Where a hamper record is (R154, R211). -/
inductive HLoc where
  | core (c : Nat)
  | spill
  | home
  deriving DecidableEq, Repr

/-- A hamper record (R154). -/
structure HRec where
  ctx : Nat
  lid : Nat
  pa : Nat
  /-- The virtual address that its issue named, by which a restored context finds the location again (R389). -/
  va : Nat := 0
  k : AtomK
  value : DWord
  teamn : Nat
  gint : Nat
  lane : Nat
  prog : Nat
  epoch : Nat
  team : Nat
  loc : HLoc
  /-- The page's leaf, for dirty tracking (R316). -/
  leaf : Nat := 0
  ipa : Nat := 0
  lsz : Nat := 4096
  dset : Bool := true
  deriving DecidableEq, Repr

/-- A dictionary place (R334): its key, the words, and the fault of each bad entry. -/
structure DictPlace where
  ctx : Nat
  addr : DWord
  words : List Word
  bad : Tab FCode := []
  deriving DecidableEq, Repr

/-- A courier copy in flight (R178, R179): its descriptor bytes, cursor in bytes of the shape, bytes written, serial,
and how it ended. -/
structure Copy where
  fill : Bool
  desc : List Byte
  cursor : Nat := 0
  done : Nat := 0
  serial : Nat
  status : Option FCode := none
  faddr : DWord := 0
  finished : Bool := false
  started : Bool := false
  /-- The barrier object bound at the start: team, offset and generation (R338). -/
  bound : Option (Nat × Nat × BitVec 16) := none
  /-- The latest write-completion time of its writes. -/
  wct : Nat := 0
  /-- Destination sectors written in part, by place: the bytes written so far (R179, Tags). -/
  cover : Tab (BitVec 64) := []
  deriving DecidableEq, Repr

/-- The courier of a core (R238). -/
structure Courier where
  ctx : Nat
  num : Nat
  s : Tab Word := []
  cpc : DWord := 0
  ret : List DWord := []
  latch : Option (Nat × Word) := none
  ring : DWord := 0
  size : Nat := 0
  next : Nat := 1
  copies : List Copy := []
  stopped : Bool := false
  wait : Option Wait := none
  fences : List Fence := []
  last : Nat := 0
  deriving DecidableEq, Repr

/-- One core (R19, R241-R244). -/
structure Core where
  ctx : Option Nat := none
  since : Nat := 0
  /-- Team in each residency slot. -/
  slots : Tab Nat := []
  cfg : Word := 1
  cyc : Nat := 0
  mhz : Nat := 3600
  l1 : Tab L1Line := []
  tlb : List TlbEntry := []
  dicts : List DictPlace := []
  courier : Option Courier := none
  /-- Victim tags: line, and team and group whose fill brought it (R294). -/
  victims : List (Nat × Nat × Nat) := []
  thr : Bool := false
  nmem : Nat := 16
  /-- The adaptive threshold of the throttle (R294), a free value of the device. -/
  threshold : Nat := 0
  /-- Groups admitted out of order after starving, and how often the scores have halved (R294). -/
  admitted : List (Nat × Nat) := []
  halvings : Nat := 0
  /-- A pre-emption of the core is under way (HSTAT.PRE, R382). -/
  pre : Bool := false
  deriving DecidableEq, Repr

/-! ## Homes, maps and tables -/

/-- The writer of a write that the device makes itself. Writes of one writer are performed in order, each once the one before is
complete; writes of `loose` have no order among themselves. -/
inductive Src where
  | loose
  | ring
  | dlog (ctx : Nat)
  | pairs (ctx lid : Nat)
  | queue (q : Nat)
  | done (ctx : Nat)
  | child (ctx : Nat)
  | save (ctx : Nat)
  | copy (core : Nat)
  deriving DecidableEq, Repr

/-- What a write through translation knows of its page for dirty tracking (R316, R323): context, core, stage-2 leaf, the D bit as
translation found it, IPA and leaf size. -/
structure Dirt where
  ctx : Nat
  core : Nat
  leaf : Nat
  d : Bool
  ipa : Nat
  lsz : Nat
  deriving DecidableEq, Repr

/-- A write inside one line that the device makes itself and that waits at its home (R34, R265, R266, R316). -/
structure Posted where
  src : Src
  pa : Nat
  bs : List Byte
  dirt : Option Dirt := none
  /-- Its place among the held writes of its line, once it waits there (R266). -/
  order : Option Nat := none
  deriving DecidableEq, Repr

/-- A line at its home (R264): presence in L2, dirty, lease length, horizon, owning stash (team), pins, read count and
reads served. An absent line's horizon stands in the horizon buffer (R260). -/
structure Line where
  present : Bool := false
  dirty : Bool := false
  lease : Nat := 2048
  wrote : Bool := false
  horizon : Nat := 0
  owner : Option Nat := none
  pins : Nat := 0
  rc : Nat := 0
  reads : Nat := 0
  /-- Cache policy of the request that brought it into L2 (R143). -/
  policy : BitVec 2 := 0
  /-- Its lease length came from its old home, and its next fill keeps it (R268, R325). -/
  handed : Bool := false
  deriving DecidableEq, Repr

/-- A placement entry that differs from bring-up (Table 13-6). -/
structure Placement where
  stack : Nat
  frame : Nat
  lock : Bool := false
  c0 : Nat := 0
  c1 : Nat := 0
  c2 : Nat := 0
  c3 : Nat := 0
  deriving DecidableEq, Repr

/-- A slice-map change that waits at step 2 of R325. -/
structure MapChange where
  die : Nat
  moves : List (Nat × Nat)
  since : Nat
  deriving DecidableEq, Repr

/-- A member record of a multicast entry (Table 13-8). -/
structure McMember where
  team : Nat
  stashid : BitVec 16
  ring : Nat
  depth : Nat
  stat : Nat
  bar : Option Nat
  nreq : Nat := 0
  nrel : Nat := 0
  susp : Bool := false
  /-- Group whose request is pending for a sequence: (sequence, gint). -/
  reqs : List (Nat × Nat) := []
  /-- Sequences delivered into the slots: number, address, length (R329). -/
  got : List (Nat × Nat × Nat) := []
  /-- GTIME of the last delivery (R330). -/
  lastAt : Option Nat := none
  deriving DecidableEq, Repr

/-- A sequence record of a multicast entry (Table 13-8, R174). -/
structure McSeq where
  n : Nat
  addr : Nat
  len : Nat
  pas : List Nat
  asked : List Nat
  mism : List Nat := []
  t0 : Nat
  delivering : Bool := false
  byTimer : Bool := false
  dataErr : Bool := false
  data : List Byte := []
  tags : List Tag := []
  /-- Ranks still to be delivered. -/
  due : List Nat := []
  /-- Barrier generations bound at the release: (rank, generation). -/
  gens : List (Nat × BitVec 16) := []
  deriving DecidableEq, Repr

/-- A multicast entry (R328). -/
structure McEntry where
  ctx : Nat
  lid : Nat
  cluster : Nat
  g : Nat
  mask : Nat
  timer : Nat
  slot : Nat
  deliv : Bool := false
  /-- Sequences released so far; they are released in order. -/
  released : Nat := 0
  /-- GTIME of the last join (R330). -/
  joinAt : Option Nat := none
  members : Tab McMember := []
  seqs : List McSeq := []
  deriving DecidableEq, Repr

/-! ## Search -/

/-- An incumbent slot (R246). -/
structure Slot where
  key : DWord := 0
  payload : DWord := 0
  owned : Bool := false
  owner : BitVec 6 := 0
  sense : Bool := false
  serial : BitVec 31 := 0
  stageKey : DWord := 0
  stagePay : DWord := 0
  deriving DecidableEq, Repr

/-- A pod's shadow of a slot (R249). -/
structure Shadow where
  key : DWord := 0
  sense : Bool := false
  owner : BitVec 6 := 0
  owned : Bool := false
  serial : BitVec 31 := 0
  deriving DecidableEq, Repr

/-- A request on its way to the incumbent unit: a candidate (R206) or a read (R207). -/
structure IncReq where
  who : Agent
  slot : Nat
  read : Bool
  sd : Nat
  key : DWord := 0
  payload : DWord := 0
  deriving DecidableEq, Repr

/-- A task record in a heap or spill area (Table 07-5, R204): with its spawner's kernel and identity. -/
structure Task where
  ctx : Nat
  lid : Nat
  payload : List Word
  bound : DWord
  entry : DWord
  slot : Nat
  kobj : KObj
  id : Ident
  order : Nat
  deriving DecidableEq, Repr

/-- A child in an open grid (R285): its parameter block's place in the child area, the team that contributed it, and the tick in which
it arrived. -/
structure Child where
  pos : Nat
  team : Nat
  tick : Nat := 0
  deriving DecidableEq, Repr

/-- An open child grid of a pod's aggregator (R286). -/
structure OpenGrid where
  ctx : Nat
  kaddr : DWord
  kobj : KObj
  children : List Child
  first : Nat
  deriving DecidableEq, Repr

/-! ## Launches -/

/-- An entry of the in-flight table (R278, R276): the record's fields and the launch's counts. -/
structure Launch where
  ctx : Nat
  lid : Nat
  kobj : KObj
  kaddr : DWord := 0
  param : DWord := 0
  gx : Nat := 1
  gy : Nat := 1
  gz : Nat := 1
  preds : List Nat := []
  done : DWord := 0
  pods : Nat := 0
  queue : Nat := 0
  /-- Predecessors found in flight at the take (R283), by their `order`. -/
  waits : List Nat := []
  /-- The lowest team not yet dispatched; teams are dispatched in rising order. -/
  nextTeam : Nat := 0
  ended : Nat := 0
  succs : Nat := 0
  killed : Bool := false
  tasks : Nat := 0
  /-- Teams killed before their dispatch (R380). -/
  goneTeams : List Nat := []
  /-- The latest write-completion time of its ended teams' writes (R280). -/
  wct : Nat := 0
  /-- The latest write-completion time of its applied hamper records (R370). -/
  hwct : Nat := 0
  foreign : Bool := false
  mred : Bool := false
  /-- Its number in order of take, which no other launch has. -/
  order : Nat := 0
  /-- Indirection table of a child grid (R287). -/
  table : DWord := 0
  /-- Places in the child area of a child grid's table and of each team's block (R287). -/
  tpos : Nat := 0
  blocks : List Nat := []
  paramBytes : List Byte := []
  digests : Tab (BitVec 512) := []
  deriving DecidableEq, Repr

/-- A launch queue (R273, R274): descriptor, HEAD, and the TAIL last read; since when the host has had the line of TAILA, which the device
holds otherwise (R392). -/
structure Queue where
  ring : DWord := 0
  taila : DWord := 0
  heada : DWord := 0
  loge : Nat := 0
  prio : Nat := 0
  ctx : Nat := 0
  enable : Bool := false
  stopped : Bool := false
  head : Nat := 0
  tail : Nat := 0
  taken : Option Nat := none
  deriving DecidableEq, Repr

/-! ## The pair engine -/

/-- A pair in a basket: records, displacement, squared distance and exclusion class (R302). -/
structure BasketPair where
  i : Word
  j : Word
  dx : Word
  dy : Word
  dz : Word
  r2 : Word
  cls : BitVec 2
  deriving DecidableEq, Repr

/-- What one pairing unit holds of a pair launch (R299 to R302): its grid, the A record or list entry it matches with the next
candidate's number, and its basket. -/
structure Share where
  pod : Nat
  cur : Option Nat := none
  index : Nat := 0
  binned : Bool := false
  /-- Lowest positions and edge of the grid in units of 2^−149, and cells per axis. -/
  lo : List Int := []
  hi : List Int := []
  edge : Nat := 0
  cellsOn : List Nat := []
  /-- Records of set B by cell, each list ascending. -/
  cells : Tab (List Nat) := []
  basket : List BasketPair := []
  basketAt : Nat := 0
  flush : Bool := false
  deriving DecidableEq, Repr

/-- What a pair launch reads (R304, R333). -/
inductive PKind where
  | a | b | excl | scratch
  deriving DecidableEq, Repr

/-- A physical piece of what a pair launch reads, with its offset in the whole. -/
structure PPage where
  kind : PKind
  pa : Nat
  len : Nat
  off : Nat
  deriving DecidableEq, Repr

/-- A write while a pair launch that reads the bytes was in flight: to records of a set, headers or entries of its exclusion table, each from
a first to a last one, or to its context's scratch area (R198, R304, R333). -/
inductive Race where
  | recA (lo hi : Nat)
  | recB (lo hi : Nat)
  | rows (lo hi : Nat)
  | ents (lo hi : Nat)
  | scratch
  deriving DecidableEq, Repr

/-- A pair launch in flight (R198, Table 12-5). -/
structure PairLaunch where
  ctx : Nat
  lid : Nat
  daddr : DWord
  desc : List Byte
  shares : List Share := []
  /-- The next A record or list entry that no unit has taken. -/
  nextA : Nat := 0
  pairs : Nat := 0
  tests : Nat := 0
  groups : Nat := 0
  live : Nat := 0
  faults : Nat := 0
  lost : Nat := 0
  killed : Nat := 0
  coarsen : Nat := 0
  edge : Word := 0
  nanpos : List (Bool × Nat) := []
  /-- Physical places and lengths of its sets, its exclusion table and its context's scratch area, as they stood at its start (R304, R333). -/
  pages : List PPage := []
  /-- Physical places and lengths of its fault ring, and of what overlaps the ring of another launch that was in flight beside it (R309). -/
  ring : List (Nat × Nat) := []
  shared : List (Nat × Nat) := []
  /-- Contributions performed: the accumulator's address and the pair (R304). -/
  sums : List (Nat × Nat × Nat) := []
  /-- Its FINAL step has been made. -/
  final : Bool := false
  excluded : Nat := 0
  nextFault : Nat := 1
  /-- The latest write-completion time of its additions and entries. -/
  wct : Nat := 0
  deriving DecidableEq, Repr

/-- A pair addition on its way to its home (R200). -/
structure PairAdd where
  ctx : Nat
  lid : Nat
  va : DWord
  chan : Nat
  q : Option Int
  i : Word
  j : Word
  cls : BitVec 2
  core : Nat
  pc : DWord
  /-- The operation and part that stand for the addition's write. -/
  mop : Nat
  part : Nat
  /-- What it found of its page when it first reached its home, and waits for (R316). -/
  dirt : Option Dirt := none
  /-- Its value is a free one (R304). -/
  loose : Bool := false
  deriving DecidableEq, Repr

/-! ## Contexts and the host side -/

/-- A deterministic launch's manifest (R400). -/
structure Manifest where
  lid : Nat
  bytes : List Byte
  deriving DecidableEq, Repr

/-- An event on its way to a context's counter block (R346): offset, and for `sevent` the tag and time. -/
structure CountAdd where
  ctx : Nat
  off : Nat
  tag : Option (BitVec 8 × Word) := none
  at_ : Nat := 0
  deriving DecidableEq, Repr

/-- A team saved by pre-emption (R382), waiting to be restored: its number, the team with what its record does not hold, and
where its record lies in the save image, with its length. -/
structure Saved where
  uid : Nat
  team : Team
  pos : Nat
  len : Nat
  deriving DecidableEq, Repr

/-- A pre-emption whose teams have left their cores, and whose writes are on their way (R382): the function that began it, 0 for the
quantum; its result; and the cores where HSTAT.PRE stays set. -/
structure Unload where
  func : Nat
  result : Nat
  cores : List Nat
  deriving DecidableEq, Repr

/-- A context (Table 17-7) with the state the device keeps for it. -/
structure Ctx where
  live : Bool := false
  priv : Bool := false
  quant : Nat := 0
  wdog : Nat := 0
  dlthr : Nat := 0
  s1root : DWord := 0
  s2root : DWord := 0
  handler : DWord := 0
  centry : DWord := 0
  cparam : DWord := 0
  saveb : DWord := 0
  savel : DWord := 0
  tspill : DWord := 0
  tspilll : DWord := 0
  child : DWord := 0
  childl : DWord := 0
  hlog : DWord := 0
  hlogl : DWord := 0
  pscr : DWord := 0
  pscrl : DWord := 0
  cntblk : DWord := 0
  dlogb : DWord := 0
  dlogs : Nat := 0
  /-- Handler frames in use, by address (R377). -/
  frames : List Nat := []
  /-- GAP of R341; while not resident, the GTIME at which residency ended. -/
  gap : Nat := 0
  resident : Bool := false
  left : Nat := 0
  /-- The context stands saved whole, and no agent of it runs until its restore (R389). -/
  saving : Bool := false
  /-- A pre-emption that waits for the context's writes (R382). -/
  unload : Option Unload := none
  /-- Courier numbers given so far, and couriers saved off their cores (R238). -/
  couriers : Nat := 0
  savedCouriers : List Courier := []
  courierCores : List Nat := []
  nextPair : Nat := 1
  launchedPairs : Nat := 0
  dlogProd : Nat := 0
  hlogProd : Nat := 0
  hlogCons : Nat := 0
  spillHead : Tab Nat := []
  childHead : Nat := 0
  childTail : Nat := 0
  /-- Places of the child area given back ahead of the tail: start and bytes (R287). -/
  childFree : List (Nat × Nat) := []
  childSerial : Nat := 0
  manifests : List Manifest := []
  attached : List (Nat × Nat × BitVec 512) := []
  saved : List Saved := []
  completions : Nat := 0
  deriving DecidableEq, Repr

/-- The host fault ring (R313). -/
structure FaultRing where
  set : Bool := false
  base : Nat := 0
  size : Nat := 0
  prod : Nat := 0
  kept : List (List Byte) := []
  dropped : Nat := 0
  /-- LOST, as the device counts it. -/
  lost : Nat := 0
  deriving DecidableEq, Repr

/-- A command as its door found it (R394): the sequence number written, the function and the arguments; and whether its pre-emption or save has
begun. -/
structure Cmd where
  door : Word
  func : Word
  args : Tab Byte := []
  begun : Bool := false
  deriving DecidableEq, Repr

/-- The management window (R394, Table 17-3) and the recovery mailbox (R401). -/
structure Mgmt where
  /-- The commands whose doors have been written and that are not complete, in the order of the doors; the first runs. -/
  cmds : List Cmd := []
  door : Word := 0
  seq : Word := 0
  /-- Commands completed, for the interrupt source of R393. -/
  done : Nat := 0
  status : Word := 0
  func : Word := 0
  args : Tab Byte := []
  result : Tab Byte := []
  rdoor : Word := 0
  rseq : Word := 0
  rstatus : Word := 0
  rcmd : Word := 0
  roffset : Word := 0
  rlength : Word := 0
  rdata : Tab Byte := []
  deriving DecidableEq, Repr

/-- A bound MSI-X vector (R393). -/
structure Msix where
  source : Nat
  ctx : Nat
  cond : Bool := false
  waiting : Bool := false
  sent : Nat := 0
  /-- Events of the source that the host had seen at its last acknowledgement. -/
  seen : Nat := 0
  deriving DecidableEq, Repr

/-- A peer binding (R395). -/
structure Peer where
  ports : BitVec 16
  source : Bool
  identity : BitVec 512
  deriving DecidableEq, Repr

/-- Firmware state (R401). -/
structure Firmware where
  image : List Byte := []
  serial : Word := 0
  minimum : Word := 0
  staged : Option (List Byte × Word) := none
  recovery : Bool := false
  pieces : Tab Byte := []
  deriving DecidableEq, Repr

/-- The last answer of the DOE mailbox (R399). The spec names the requests and gives no message bodies. -/
inductive Spdm where
  | none
  | versions (v : List Nat)
  | capabilities
  | algorithms
  | digests (d : List (BitVec 512))
  | certificate (c : List Byte)
  | signed (body sig : List Byte)
  | keyExchange (session : Nat)
  | finished (session : Nat)
  | error
  deriving DecidableEq, Repr

/-- An answer that the device has sent: to the host or to a peer, its bytes, and whether they are marked poisoned (R254, R269,
R366). -/
structure Reply where
  peer : Option Nat := none
  poisoned : Bool := false
  data : List Byte
  deriving DecidableEq, Repr

/-- A write by the host or a peer whose acknowledgement waits for its write-completion time (R365, R366). -/
structure Ack where
  peer : Option Nat := none
  wct : Nat
  deriving DecidableEq, Repr

/-- A freed STASHID (R234): the accesses, the copies (context, courier number and serial) and the matrix operations (team, GINT, batch and
index) that were bound to it. -/
structure Quarantine where
  id : BitVec 16
  ops : List Nat := []
  copies : List (Nat × Nat × Nat) := []
  mops : List (Nat × Nat × BitVec 16 × Nat) := []
  deriving DecidableEq, Repr

/-- What comes next: an agent issues (a group may retry the wait of its fragment at a PC), or an event happens, with the choice that
the spec leaves to the device in it: the dies that stay behind at a tick, or that early loads failed their test (logs 18 and 60). -/
inductive Move where
  | issue (a : Agent)
  | poll (a : Agent) (pc : DWord)
  | event (i : Instr) (pick : BitVec 4 := 0)
  deriving DecidableEq, Repr

/-- The state of the device, its surroundings as far as a program or system software sees them, and the agenda. -/
structure State where
  gtime : Nat := 0
  /-- How many ticks each die's copy of GTIME is behind, at most 2 (R340). -/
  lags : Tab Nat := []
  ready : BitVec 64 := 0
  failed : BitVec 64 := 0
  smapsn : Word := 0
  mem : Tab Byte := []
  tags : Tab Tag := []
  poison : List Nat := []
  lines : Tab Line := []
  buckets : Tab Nat := []
  mapChange : List MapChange := []
  placement : Tab Placement := []
  moving : List (Nat × Nat) := []
  /-- How often the counters of the placement table have halved (R327). -/
  placeHalvings : Nat := 0
  ops : Tab MemOp := []
  nextOp : Nat := 0
  /-- Writes of the device that wait, oldest first, and by writer the time at which its last one is complete. -/
  posted : List Posted := []
  srcWct : List (Src × Nat) := []
  /-- Words that a `wvalue` watches: who waits, the word's PA and the value awaited; whether it has been seen (R163). -/
  watches : List Watch := []
  teams : Tab Team := []
  nextUid : Nat := 0
  cores : Tab Core := []
  hamper : List HRec := []
  credits : List Credit := []
  mcast : Tab McEntry := []
  l2tlb : Tab (List TlbEntry) := []
  icache : Tab (List Nat) := []
  slots : Tab Slot := []
  shadows : Tab Shadow := []
  broadcasts : Tab (List (Nat × Shadow × Nat)) := []
  increqs : List IncReq := []
  heaps : Tab (List Task) := []
  heapTurn : Tab Nat := []
  spilled : Tab (List Task) := []
  grids : Tab (List OpenGrid) := []
  queues : Tab Queue := []
  lastQueue : Nat := 127
  launches : List Launch := []
  pairLaunches : List PairLaunch := []
  /-- What of a pair launch in flight was written: context, launch id and place (R198, R304, R333). -/
  raced : List (Nat × Nat × Race) := []
  /-- Matrix operations whose operand bytes were overwritten before they completed (R193): team, GINT, batch and index. -/
  stale : List (Nat × Nat × BitVec 16 × Nat) := []
  padds : List PairAdd := []
  ctxs : Tab Ctx := []
  counts : List CountAdd := []
  ring : FaultRing := {}
  mgmt : Mgmt := {}
  msix : Tab Msix := []
  peers : Tab Peer := []
  remap : DWord := 0
  mapchg : DWord := 0
  migrate : DWord := 0
  corrected : DWord := 0
  cleandrop : DWord := 0
  poisoned : DWord := 0
  telemetry : Tab Byte := []
  powerCap : Nat := 2600
  powerLimit : Nat := 0
  tempLimit : Nat := 0
  capIntervals : Nat := 0
  /-- The last interval of 2^20 ticks counted in `capIntervals`, and whether a telemetry limit stands crossed (R403). -/
  capLast : Option Nat := none
  crossed : Bool := false
  ppm : Int := 0
  timeSource : Bool := false
  margins : Tab Byte := []
  retrained : Tab Nat := []
  firmware : Firmware := {}
  spdm : Spdm := .none
  sessions : Nat := 0
  sessionOpen : Option Nat := none
  /-- The session over which IDE got its keys (R391, R399). -/
  ideKeys : Option Nat := none
  /-- The skew measured towards the peer of each port that is up (R397). -/
  skews : Tab Nat := []
  replies : List Reply := []
  acks : List Ack := []
  acked : List Ack := []
  readyEvents : Nat := 0
  powerEvents : Nat := 0
  stashSerial : Tab (BitVec 16) := []
  /-- STASHIDs freed on a die, with what was bound to each before then (R234). -/
  quarantine : Tab (List Quarantine) := []
  freeCtr : Nat := 0
  order : Nat := 0
  agenda : List Move := []
  /-- The choice that the agenda gave with the event that comes now. -/
  pick : BitVec 4 := 0
  cur : Agent := .grp 0 0
  deriving DecidableEq, Repr

/-- The device after reset (R10, R402): every register at its reset value, no context, team or courier, memory as
initialized, an empty agenda. Values the spec does not give are those of log entries 3, 5, 11, 12, 13 and 14. -/
def State.reset : State := {}

end Sys2Proof.Machine
end

