-- ==== Sys2Proof/Machine/Mem.lean ====
section
/-! DEFINITION. Memory: bytes, tags, window owners, translation in two stages, home lines with leases and horizons, the
dirty log, and coherent accesses by descriptors, records and engines. -/

namespace Sys2Proof.Machine

/-! ## Bytes -/

/-- The low `n` bytes of a number, lowest first (R1). -/
def leBytes : Nat → Nat → List Byte
  | 0, _ => []
  | n + 1, v => BitVec.ofNat 8 v :: leBytes n (v / 256)

/-- The number whose bytes, lowest first, are listed. -/
def leNat : List Byte → Nat
  | [] => 0
  | b :: t => b.toNat + 256 * leNat t

/-- `n` bytes of a byte table from `a`. -/
def readBytes (t : Tab Byte) (a : Nat) : Nat → List Byte
  | 0 => []
  | n + 1 => Tab.get 0 t a :: readBytes t (a + 1) n

/-- A byte table with bytes written from `a`. -/
def writeBytes (t : Tab Byte) : Nat → List Byte → Tab Byte
  | _, [] => t
  | a, b :: bs => writeBytes (Tab.set 0 t a b) (a + 1) bs

/-- Bytes `off` to `off + n − 1` of a record, as a number. -/
def field (r : List Byte) (off n : Nat) : Nat := leNat ((r.drop off).take n)

/-- A record with a field overwritten. -/
def setField (r : List Byte) (off n v : Nat) : List Byte := r.take off ++ leBytes n v ++ r.drop (off + n)

/-- The canonical form of memory: addresses strictly rising, and no byte listed that reads as an unlisted one does, 0 (log 2). -/
def Memory.wf (m : List Host.Cell) : Bool := Tab.wf 0 m

/-- Zero bytes. -/
def zeros (n : Nat) : List Byte := List.replicate n 0

/-! ## Accessors -/

def State.team (s : State) (t : Nat) : Option Team := Tab.find s.teams t

def State.grp (s : State) (t k : Nat) : Option Grp := (s.team t).bind fun T => Tab.find T.groups k

def State.modTeam (s : State) (t : Nat) (f : Team → Team) : State := { s with teams := Tab.modify s.teams t f }

def State.modGrp (s : State) (t k : Nat) (f : Grp → Grp) : State :=
  s.modTeam t fun T => { T with groups := Tab.modify T.groups k f }

/-- A core; a core the table does not list is as after reset. -/
def State.core (s : State) (c : Nat) : Core := Tab.get {} s.cores c

def State.modCore (s : State) (c : Nat) (f : Core → Core) : State :=
  { s with cores := Tab.set {} s.cores c (f (s.core c)) }

def State.ctx (s : State) (c : Nat) : Ctx := Tab.get {} s.ctxs c

def State.modCtx (s : State) (c : Nat) (f : Ctx → Ctx) : State :=
  { s with ctxs := Tab.set {} s.ctxs c (f (s.ctx c)) }

/-- Pod 0 to 23 of a core, numbered 6d + p (R30, R308). -/
def podOf (core : Nat) : Nat := core / 16

/-- Die of a core. -/
def dieOf (core : Nat) : Nat := core / 96

/-- The number that stands for no core in an access by a chip-level unit of the I/O die: its TLB is empty, so tables are read anew,
and its copy of GTIME is the time source itself. -/
def ioCore : Nat := 384

/-- NOW() on a die: its copy of GTIME (R340). -/
def State.dieNow (s : State) (die : Nat) : Nat := s.gtime - Tab.get 0 s.lags die

/-- CTIME of a context on a core (R341): GTIME − GAP modulo 2^64 by the copy of the core's die, at the end of its residency while it
is not resident. -/
def State.ctime (s : State) (c : Nat) (core : Nat := ioCore) : Nat :=
  let x := s.ctx c
  let n := ((if x.resident then s.gtime else x.left) + 2 ^ 64 - x.gap % 2 ^ 64) % 2 ^ 64
  if x.resident then n - Tab.get 0 s.lags (dieOf core) else n

/-- A fresh free value (R5) and the state that has used it. -/
def State.free (s : State) : BitVec 128 × State := (Config.freeBits s.freeCtr, { s with freeCtr := s.freeCtr + 1 })

/-- `n` free runs of 16 bytes. -/
def State.freeRun (s : State) : Nat → List Byte × State
  | 0 => ([], s)
  | n + 1 =>
    let (v, s) := s.free
    let (bs, s) := s.freeRun n
    (leBytes 16 v.toNat ++ bs, s)

/-! ## Physical addresses (Table 10-2) -/

def region (pa : Nat) : Nat := pa / 2 ^ 48 % 16

def isLocal (pa : Nat) : Bool := region pa = 0

def isHost (pa : Nat) : Bool := region pa = 4

def isPeer (pa : Nat) : Bool := 8 ≤ region pa

/-- Ports of a peer index that are up (R395). -/
def State.peerPorts (s : State) (i : Nat) : BitVec 16 :=
  match Tab.find s.peers i with
  | some p => p.ports &&& s.ready.extractLsb' 40 16
  | none => 0

/-- The peer index of a peer PA (Table 10-2). -/
def peerOf (pa : Nat) : Nat := pa / 2 ^ 46 % 32

/-- The PA is backed, and a peer index is bound to a port (R253, R395). -/
def State.backed (s : State) (pa : Nat) : Bool :=
  (decide (pa < Config.localBytes)) || isHost pa || (isPeer pa && s.peerPorts (peerOf pa) ≠ 0)

/-! ## Home lines (R259, R264) -/

/-- Slice-map bucket of a line: the hash of R324. -/
def hashOf (pa : Nat) : Nat := (pa / 2 ^ 7 % 4096) ^^^ (pa / 2 ^ 19 % 4096) ^^^ (pa / 2 ^ 31 % 4096) ^^^ (pa / 2 ^ 43 % 512)

/-- Stack and frame of a local page (R326). -/
def State.placed (s : State) (page : Nat) : Placement :=
  (Tab.find s.placement page).getD { stack := page % 8, frame := page / 8 }

/-- Die that is home to a line (R324). -/
def State.homeDie (s : State) (pa : Nat) : Nat := if isLocal pa then (s.placed (pa / 4096)).stack / 2 else hashOf pa % 4

/-- The stack that holds a local page is ready; an access to one that is not waits (R402). -/
def State.stackReady (s : State) (pa : Nat) : Bool := !isLocal pa || s.ready.getLsbD (28 + (s.placed (pa / 4096)).stack)

/-- A map change under way holds new requests for the line's bucket (R325). -/
def State.mapHeld (s : State) (pa : Nat) : Bool :=
  s.mapChange.any fun m => m.die = s.homeDie pa && m.moves.any fun v => v.1 = hashOf pa

/-- The home of a line takes a new request: its stack is ready, and no map change moves the line (R325, R402). -/
def State.takes (s : State) (pa : Nat) : Bool := s.stackReady pa && !s.mapHeld pa

/-- The die that read a line of local memory from HBM is counted at its page; a unit of the I/O die lies on none (R327). -/
def State.countRead (s : State) (pa die : Nat) : State :=
  if !isLocal pa then s
  else
    let e := s.placed (pa / 4096)
    let up := fun (c : Nat) => min 255 (c + 1)
    let e := match die with
      | 0 => { e with c0 := up e.c0 }
      | 1 => { e with c1 := up e.c1 }
      | 2 => { e with c2 := up e.c2 }
      | 3 => { e with c3 := up e.c3 }
      | _ => e
    { s with placement := Tab.put s.placement (pa / 4096) e }

def lineOf (pa : Nat) : Nat := pa / 128

def sectorOf (pa : Nat) : Nat := pa / 64

def State.line (s : State) (n : Nat) : Line := Tab.get {} s.lines n

def State.modLine (s : State) (n : Nat) (f : Line → Line) : State :=
  { s with lines := Tab.set {} s.lines n (f (s.line n)) }

/-- NOW() at the home of a line. -/
def State.homeNow (s : State) (n : Nat) : Nat := s.dieNow (s.homeDie (n * 128))

/-- A write performed at a home: it halves the lease length while a lease is out, makes the line dirty and clears its
read count (R259, R267). -/
def Line.wrote_ (now : Nat) (l : Line) : Line :=
  { l with dirty := true, wrote := true, rc := 0, reads := 0,
           lease := if now < l.horizon then max 64 (l.lease / 2) else l.lease }

/-- The write-completion time: the later of the performing time and the horizon (R259). -/
def Line.wct (now : Nat) (l : Line) : Nat := max now l.horizon

/-- A fill granted to an L1: the lease length doubles where nothing wrote since the last fill, and the fill itself is granted the doubled one
(R259, log 62). -/
def Line.grant (now : Nat) (l : Line) : Line :=
  let n := if l.wrote then l.lease else min 2048 (2 * l.lease)
  { l with lease := n, wrote := false, horizon := max l.horizon (now + n) }

/-- A line that leaves L2: its horizon, owner and pins stay (R260, R262), its lease length starts anew at its next fill. -/
def Line.left (l : Line) : Line :=
  { l with present := false, dirty := false, rc := 0, reads := 0, lease := 2048, wrote := false, policy := 0, handed := false }

/-- A line brought into L2: its lease length starts at 2,048, or at the length that its old home handed over (R259, R268). -/
def Line.fill (l : Line) (rc : Nat) (policy : BitVec 2) : Line :=
  { l with present := true, dirty := false, rc := rc, reads := 0, policy := policy, handed := false
           lease := if l.handed then l.lease else 2048, wrote := l.handed && l.wrote }

/-- A line handed to a new home, its copy invalid unless it is pinned: horizon, lease length, owner and pins go with it (R268, R325). -/
def Line.hand (l : Line) : Line :=
  { l with present := decide (l.pins ≠ 0), dirty := false, rc := 0, reads := 0, policy := 0, handed := l.present || l.handed }

/-- A clean line that has served its count leaves L2 at once; a pinned one waits for its last pin (R267). -/
def Line.spent (l : Line) : Line :=
  if l.rc ≠ 0 ∧ l.rc ≤ l.reads ∧ !l.dirty ∧ l.pins = 0 then l.left else l

/-- One read served by an L2 copy (R267). -/
def Line.served (l : Line) : Line := ({ l with reads := l.reads + 1 } : Line).spent

/-- A pin of a line released (R197, R267). -/
def Line.unpinned (l : Line) : Line := ({ l with pins := l.pins - 1 } : Line).spent

/-! ## Window owners (R149, R262) -/

/-- Where an owned line stands: team, window number, line index, stash offset of the line. -/
structure OwnedLine where
  team : Nat
  win : Nat
  idx : Nat
  off : Nat
  deriving DecidableEq, Repr

/-- The window line of a team that holds a physical line. -/
def Team.holds (T : Team) (t ln : Nat) : Option OwnedLine :=
  T.wins.findSome? fun (n, w) =>
    (w.lines.find? fun e => e.2.pa = ln).map fun e => { team := t, win := n, idx := e.1, off := w.off * 1024 + 128 * e.1 }

/-- The owner of a line, where a window holds it. -/
def State.ownerOf (s : State) (ln : Nat) : Option OwnedLine :=
  (s.line ln).owner.bind fun t => (s.team t).bind fun T => T.holds t ln

/-- A read of a line by an agent of a die: from HBM, and counted, where neither L2 nor a stash holds the line (R268, R327). -/
def State.hbmRead (s : State) (pa die : Nat) : State :=
  if (s.line (lineOf pa)).present || (s.ownerOf (lineOf pa)).isSome then s else s.countRead pa die

/-- The lines of a physical range read so. -/
def State.hbmReads (s : State) (pa n die : Nat) : State :=
  (List.range ((pa % 128 + n + 127) / 128)).foldl (fun s i => s.hbmRead (pa / 128 * 128 + 128 * i) die) s

/-- A window line marked dirty. -/
def Team.soil (T : Team) (win idx : Nat) : Team :=
  { T with wins := Tab.modify T.wins win fun w => { w with lines := Tab.modify w.lines idx fun l => { l with dirty := true } } }

/-- The bytes of one line's range as the device sees them: at the owning stash, else at the home. -/
def State.cohRead (s : State) (pa n : Nat) : List Byte :=
  (List.range n).map fun i =>
    match s.ownerOf (lineOf (pa + i)) with
    | some o => match s.team o.team with
      | some T => Tab.get 0 T.stash (o.off + (pa + i) % 128)
      | none => 0
    | none => Tab.get 0 s.mem (pa + i)

/-- A stash place as one number. -/
def packStash (t off : Nat) : Nat := t * 2 ^ 20 + off

/-- An operation that is not complete reads its source A or B in a range of the stashes, or of global memory. -/
def MatOp.readsIn (o : MatOp) (stash : Bool) (at_ n : Nat) : Bool :=
  let hit := fun (src : Bool) (ls : List Nat) => src = stash && ls.any fun r => decide (at_ < r + 512) && decide (r < at_ + n)
  (o.st = .issued || o.st = .fetched) && (hit o.asrc o.alocs || hit o.bsrc o.blocs)

/-- The matrix operations of some teams whose results a write of `n` bytes leaves undefined (R193, R369). -/
def State.staled (s : State) (who : Nat → Bool) (stash : Bool) (at_ n : Nat) : List (Nat × Nat × BitVec 16 × Nat) :=
  s.teams.flatMap fun (t, T) => if !who t then [] else T.groups.flatMap fun (k, g) =>
    (g.mops.filter fun o => o.readsIn stash at_ n && !s.stale.contains (t, k, o.batch, o.idx)).map fun o => (t, k, o.batch, o.idx)

/-- Bytes of a stash were written by any agent (R193). -/
def State.staleStash (s : State) (t off n : Nat) : State := { s with stale := s.stale ++ s.staled (fun _ => true) true (packStash t off) n }

/-- Bytes of memory were written by a team (R193). -/
def State.staleHome (s : State) (t pa n : Nat) : State := { s with stale := s.stale ++ s.staled (fun u => u = t) false pa n }

/-- What a write of a range does to a piece that a pair launch reads: of the exclusion table, 8 bytes a header, then 4 bytes an entry (R301). -/
def PPage.races (p : PairLaunch) (pa n : Nat) (e : PPage) : List Race :=
  if e.pa + e.len ≤ pa ∨ pa + n ≤ e.pa then []
  else
    let lo := e.off + (max pa e.pa - e.pa)
    let hi := e.off + (min (pa + n) (e.pa + e.len) - e.pa) - 1
    let heads := 8 * field p.desc 8 4
    match e.kind with
    | .a => [.recA (lo / field p.desc 12 4) (hi / field p.desc 12 4)]
    | .b => [.recB (lo / field p.desc 36 4) (hi / field p.desc 36 4)]
    | .excl => (if lo < heads then [Race.rows (lo / 8) (hi / 8)] else []) ++ if heads ≤ hi then [.ents ((lo - heads) / 4) ((hi - heads) / 4)] else []
    | .scratch => [.scratch]

/-- Bytes of memory were written while a pair launch that reads them was in flight (R198, R304, R333). -/
def State.race (s : State) (pa n : Nat) : State :=
  let new := s.pairLaunches.flatMap fun p => (p.pages.flatMap (PPage.races p pa n)).map fun r => (p.ctx, p.lid, r)
  { s with raced := s.raced ++ new.filter fun e => !s.raced.contains e }

/-- A write of `n` bytes shows each word that a `wvalue` watches and that it has given the awaited value (R163). -/
def State.observe (s : State) (pa n : Nat) : State :=
  { s with watches := s.watches.map fun w =>
      if decide (w.pa < pa + n) && decide (pa < w.pa + 4) && leNat (s.cohRead w.pa 4) = w.want.toNat then { w with seen := true } else w }

/-- Bytes written inside one line, at the owning stash or at the home: the data alone. -/
def State.putLine (s : State) (pa : Nat) (bs : List Byte) : State :=
  let s := s.race pa bs.length
  (match s.ownerOf (lineOf pa) with
  | some o =>
    let s := s.staleStash o.team (o.off + pa % 128) bs.length
    s.modTeam o.team fun T => ({ T with stash := writeBytes T.stash (o.off + pa % 128) bs } : Team).soil o.win o.idx
  | none => { s with mem := writeBytes s.mem pa bs }).observe pa bs.length

/-- The write rules of a line applied once, where no stash owns it (R259, R264). -/
def State.wroteLine (s : State) (ln : Nat) : State :=
  match s.ownerOf ln with
  | some _ => s
  | none => s.modLine ln (Line.wrote_ (s.homeNow ln))

/-- The time, on a die's copy of GTIME, at which a write of a line performed now is complete: the write-completion time of its home, and
2 ticks more on another die (R259, R363); at once where a stash owns the line. -/
def State.wctFor (s : State) (ln die : Nat) : Nat :=
  if (s.ownerOf ln).isSome then s.dieNow die
  else (s.line ln).wct (s.homeNow ln) + (if s.homeDie (ln * 128) = die then 0 else 2)

/-- The ticks by which a fill's expiry is cut on a core of a die: the skew bound of a peer, or the 2 ticks between dies (R259, R363). -/
def State.leaseCut (s : State) (ln die : Nat) : Nat := if isPeer (ln * 128) then 16 else if s.homeDie (ln * 128) = die then 0 else 2

/-- A write inside one line by one access. -/
def State.cohWriteLine (s : State) (pa : Nat) (bs : List Byte) : State := (s.putLine pa bs).wroteLine (lineOf pa)

/-- The tag of a sector: at the owning stash, at the home, or 0 in host memory (R256). -/
def State.tagAt (s : State) (pa : Nat) : Tag :=
  if isHost pa then 0
  else match s.ownerOf (lineOf pa) with
    | some o => match s.team o.team with
      | some T => Tab.get 0 T.stags ((o.off + pa % 128) / 64)
      | none => 0
    | none => Tab.get 0 s.tags (sectorOf pa)

/-- A tag written at the owning stash (which makes the line dirty) or at the home; nothing in host memory. -/
def State.putTag (s : State) (pa : Nat) (t : Tag) : State :=
  if isHost pa then s
  else match s.ownerOf (lineOf pa) with
    | some o => s.modTeam o.team fun T =>
        ({ T with stags := Tab.set 0 T.stags ((o.off + pa % 128) / 64) t } : Team).soil o.win o.idx
    | none => { s with tags := Tab.set 0 s.tags (sectorOf pa) t }

/-- The sector is poisoned where it is held now (R269). -/
def State.poisonedAt (s : State) (pa : Nat) : Bool :=
  match s.ownerOf (lineOf pa) with
  | some o => match s.team o.team with
    | some T => T.spoison.contains ((o.off + pa % 128) / 64)
    | none => false
  | none => s.poison.contains (sectorOf pa)

/-! ## Translation (R317 to R323) -/

/-- The access kinds of Table 13-3. -/
inductive Acc where
  | r | w | rw | x
  deriving DecidableEq, Repr

def Acc.allows (k : Acc) (r w x : Bool) : Bool :=
  match k with
  | .r => r
  | .w => w
  | .rw => r && w
  | .x => x

def Acc.writes : Acc → Bool
  | .w | .rw => true
  | _ => false

/-- A leaf found by a walk: output address of the page, its size, permissions, PIN and D, and where the entry lies. -/
structure LeafAt where
  out : Nat
  size : Nat
  r : Bool
  w : Bool
  x : Bool
  pin : Bool
  d : Bool
  ea : Nat
  /-- One of the 16 leaves of a 64 KiB page, and the D bits of all of them (R321, R323). -/
  cont : Bool := false
  ds : BitVec 16 := 0
  deriving DecidableEq, Repr

/-- Bit `i` of a number. -/
def bitOf (n i : Nat) : Bool := decide (n / 2 ^ i % 2 = 1)

/-- One leaf entry at a level, checked (R319). -/
def leafOf (fc : FCode) (st1 : Bool) (lvl e ea : Nat) : Except FCode LeafAt :=
  let size := 2 ^ (12 + 9 * lvl)
  let out := e / 4096 % 2 ^ 40 * 4096
  if 3 ≤ lvl ∨ e / 2 ^ 52 ≠ 0 ∨ e / 2 ^ 8 % 16 ≠ 0 ∨ (st1 ∧ bitOf e 7) ∨ (bitOf e 5 ∧ lvl ≠ 0) ∨ out % size ≠ 0 then .error fc
  else .ok { out := out, size := size, r := bitOf e 2, w := bitOf e 3, x := bitOf e 4,
             pin := if st1 then bitOf e 6 else bitOf e 7, d := bitOf e 6, ea := ea, cont := bitOf e 5 }

/-- A leaf as a cached entry uses it: one of 16 leaves of a 64 KiB page stands for all of them (R321). -/
def LeafAt.wide (l : LeafAt) : LeafAt := if l.cont then { l with size := 65536, out := l.out / 65536 * 65536 } else l

/-- A walk from a table at `base` down the levels listed (Table 13-1, R319). -/
def walkFrom (rd : Nat → Except FCode Nat) (fc : FCode) (st1 : Bool) (va : Nat) : Nat → List Nat → Except FCode LeafAt
  | _, [] => .error fc
  | base, lvl :: rest =>
    let ea := base + 8 * (va / 2 ^ (12 + 9 * lvl) % (if lvl = 4 then 4096 else 512))
    match rd ea with
    | .error f => .error f
    | .ok e =>
      if !bitOf e 0 then .error fc
      else if bitOf e 1 then leafOf fc st1 lvl e ea
      else if lvl = 0 ∨ e / 2 ^ 52 ≠ 0 ∨ e / 4 % 2 ^ 10 ≠ 0 then .error fc
      else walkFrom rd fc st1 va (e / 4096 * 4096) rest

/-- The addresses of the entries that a walk reads from a table at `base` down the levels listed. -/
def walkPath (rd : Nat → Except FCode Nat) (va : Nat) : Nat → List Nat → List Nat
  | _, [] => []
  | base, lvl :: rest =>
    let ea := base + 8 * (va / 2 ^ (12 + 9 * lvl) % (if lvl = 4 then 4096 else 512))
    ea :: match rd ea with
      | .error _ => []
      | .ok e => if !bitOf e 0 || bitOf e 1 then [] else walkPath rd va (e / 4096 * 4096) rest

def levels : List Nat := [4, 3, 2, 1, 0]

/-- Root address of S1ROOT or S2ROOT (Table 09-10). -/
def rootOf (r : DWord) : Nat := r.toNat % 2 ^ 52 / 2 ^ 15 * 2 ^ 15

/-- An entry of a stage-2 table at a PA. -/
def State.entry2 (s : State) (ea : Nat) : Except FCode Nat := if s.backed ea then .ok (leNat (s.cohRead ea 8)) else .error .stage2

/-- A stage-2 walk: IPA to PA (R318). -/
def State.stage2 (s : State) (c ipa : Nat) : Except FCode LeafAt :=
  let root := (s.ctx c).s2root
  if !bitOf root.toNat 0 ∨ 2 ^ 52 ≤ ipa then .error .stage2
  else walkFrom s.entry2 .stage2 false ipa (rootOf root) levels

/-- The 16 leaves of a 64 KiB page lie in a row: the address of the leaf of an IPA, given that of one of them (R321). -/
def leafOf64 (leaf ipa : Nat) : Nat := leaf / 128 * 128 + 8 * (ipa / 4096 % 16)

/-- The D bits of the 16 leaves of a 64 KiB page in memory. -/
def State.leafDs (s : State) (leaf : Nat) : BitVec 16 :=
  (List.range 16).foldl (fun m i => if bitOf (leNat (s.cohRead (leafOf64 leaf (4096 * i)) 8)) 6 then m ||| BitVec.ofNat 16 (2 ^ i) else m) 0

/-- The leaf that a cached entry has for an IPA, and its copy of that leaf's D bit (R323). -/
def TlbEntry.leafAt (e : TlbEntry) (ipa : Nat) : Nat := if e.cont then leafOf64 e.leaf ipa else e.leaf

def TlbEntry.dAt (e : TlbEntry) (ipa : Nat) : Bool := if e.cont then e.ds.getLsbD (ipa / 4096 % 16) else e.d

/-- A stage-2 entry of a pod's L2 TLB for an IPA (R322). -/
def State.s2Hit (s : State) (core c ipa : Nat) : Option TlbEntry :=
  (Tab.get [] s.l2tlb (podOf core)).find? fun e => e.only2 && e.ctx = c && e.base ≤ ipa && ipa < e.base + e.size

/-- Stage 2 of a walk for a core: a cached stage-2 entry where one stands, else the tables. -/
def State.stage2On (s : State) (core c ipa : Nat) : Except FCode LeafAt :=
  match s.s2Hit core c ipa with
  | some e => .ok { out := if e.cont then e.pa + (ipa - e.base) / 4096 * 4096 else e.pa, size := if e.cont then 4096 else e.size, r := e.r2, w := e.w2, x := e.x2, pin := false,
                    d := e.dAt ipa, ea := e.leafAt ipa, cont := e.cont, ds := e.ds }
  | none => (s.stage2 c ipa).map fun l => if l.cont then { l with ds := s.leafDs l.ea } else l

/-- An entry of a stage-1 table at an IPA, read through stage 2 (R317). -/
def State.entry1 (s : State) (core c ia : Nat) : Except FCode Nat :=
  match s.stage2On core c ia with
  | .error f => .error f
  | .ok l => s.entry2 (l.out + ia % l.size)

/-- A stage-1 walk: VA to IPA, each table read through stage 2 (R317). -/
def State.stage1 (s : State) (c va : Nat) (core : Nat := ioCore) : Except FCode LeafAt :=
  let root := (s.ctx c).s1root
  if !bitOf root.toNat 0 then .error .translation
  else walkFrom (s.entry1 core c) .translation true va (rootOf root) levels

/-- The entries that a walk of stage 2 for a core reads: none where its TLB has the page (R322). -/
def State.reads2 (s : State) (core c ipa : Nat) : List Nat :=
  let root := (s.ctx c).s2root
  if (s.s2Hit core c ipa).isSome || !bitOf root.toNat 0 then [] else walkPath s.entry2 ipa (rootOf root) levels

/-- The PAs of the entries that the walk of an address reads, at both stages (R317, R318). -/
def State.walkReads (s : State) (core c va : Nat) : List Nat :=
  let root := (s.ctx c).s1root
  if !bitOf root.toNat 0 then []
  else
    ((walkPath (s.entry1 core c) va (rootOf root) levels).flatMap fun ia => s.reads2 core c ia ++ match s.stage2On core c ia with
      | .ok l => [l.out + ia % l.size]
      | .error _ => []) ++
    match s.stage1 c va core with
    | .ok l => s.reads2 core c (l.out + va % l.size)
    | .error _ => []

/-- A translation: the PA and what a write must know of the stage-2 leaf. -/
structure Tr where
  pa : Nat
  leaf : Nat
  d : Bool
  ipa : Nat
  lsz : Nat
  deriving DecidableEq, Repr

/-- A cached combined entry of a context for an address (R322). -/
def tlbFind (l : List TlbEntry) (c va : Nat) : Option TlbEntry :=
  l.find? fun e => !e.only2 && e.ctx = c && e.base ≤ va && va < e.base + e.size

/-- The cached entry that a core uses: its own TLB, then the pod's. -/
def State.tlbHit (s : State) (core c va : Nat) : Option TlbEntry :=
  match tlbFind (s.core core).tlb c va with
  | some e => some e
  | none => tlbFind (Tab.get [] s.l2tlb (podOf core)) c va

/-- Translation of one address for an access on a core: a cached entry where one stands, else both walks. Failures come
in the order TRANSLATION, PERMISSION, STAGE2 (Table 06-2, R320). -/
def State.trans (s : State) (core c : Nat) (k : Acc) (va : Nat) : Except FCode Tr :=
  match s.tlbHit core c va with
  | some e =>
    let pa := e.pa + (va - e.base)
    if !k.allows e.r e.w e.x then .error .permission
    else if !k.allows e.r2 e.w2 e.x2 || !s.backed pa then .error .stage2
    else
      let ipa := e.ipa + (va - e.base)
      .ok { pa := pa, leaf := e.leafAt ipa, d := e.dAt ipa, ipa := ipa, lsz := e.lsz }
  | none =>
    match s.stage1 c va core with
    | .error f => .error f
    | .ok l1 =>
      if !k.allows l1.r l1.w l1.x then .error .permission
      else
        let ipa := l1.out + va % l1.size
        match s.stage2On core c ipa with
        | .error f => .error f
        | .ok l2 =>
          let pa := l2.out + ipa % l2.size
          if !k.allows l2.r l2.w l2.x || !s.backed pa then .error .stage2
          else .ok { pa := pa, leaf := l2.ea, d := l2.d, ipa := ipa, lsz := l2.size }

/-- What a walk caches: the combined entry, with the smaller page and both sets of permissions, and the stage-2 entry of its
page (R321, R322). -/
def State.walkEntry (s : State) (c va : Nat) (core : Nat := ioCore) : Option (TlbEntry × TlbEntry) :=
  match s.stage1 c va core with
  | .error _ => none
  | .ok l1 =>
    let l1 := l1.wide
    match s.stage2On core c (l1.out + va % l1.size) with
    | .error _ => none
    | .ok l2 =>
      let lsz := l2.size
      let l2 := l2.wide
      let size := min l1.size l2.size
      let base := va / size * size
      let ipa := l1.out + base % l1.size
      let e : TlbEntry := { ctx := c, base := base, size := size, pa := l2.out + ipa % l2.size, r := l1.r, w := l1.w, x := l1.x,
                            r2 := l2.r, w2 := l2.w, x2 := l2.x, leaf := l2.ea, d := l2.d, ipa := ipa, lsz := lsz, cont := l2.cont, ds := l2.ds }
      some (e, { e with base := ipa / l2.size * l2.size, size := l2.size, pa := l2.out, ipa := ipa / l2.size * l2.size, only2 := true })

/-- An address with bits [63:60] not zero raises ADDRESS (R136). -/
def vaOk (va : Nat) : Bool := decide (va < 2 ^ 60)

/-- The tables that translate an address can be read now: a TLB of the core has the page, or the homes of the entries take requests
(R325, R402). -/
def State.tablesReady (s : State) (core c va : Nat) : Bool := (s.tlbHit core c va).isSome || (s.walkReads core c va).all s.takes

/-- The home of every line of a physical range inside one page takes requests. -/
def State.rangeTakes (s : State) (pa n : Nat) : Bool :=
  s.stackReady pa && (s.mapChange.isEmpty || (List.range ((pa % 128 + n + 127) / 128)).all fun i => !s.mapHeld (pa / 128 * 128 + 128 * i))

/-- A virtual range can be translated now, and with `data` its bytes accessed: neither a table nor a page of it lies on a stack that is not
ready, nor a line in a bucket that moves; the access waits otherwise (R325, R402). -/
def State.vaReadyFuel (s : State) (data : Bool) (core c : Nat) (k : Acc) : Nat → Nat → Nat → Bool
  | 0, _, _ => true
  | fuel + 1, va, n =>
    if n = 0 || !vaOk va then true
    else
      let m := min n (4096 - va % 4096)
      s.tablesReady core c va && match s.trans core c k va with
        | .error _ => true
        | .ok t => (!data || s.rangeTakes t.pa m) && s.vaReadyFuel data core c k fuel (va + m) (n - m)

/-- A virtual range can be accessed now. -/
def State.vaReady (s : State) (core c : Nat) (k : Acc) (va n : Nat) : Bool := s.vaReadyFuel true core c k (n / 4096 + 2) va n

/-- A virtual range can be translated now. -/
def State.vaTables (s : State) (core c : Nat) (k : Acc) (va n : Nat) : Bool := s.vaReadyFuel false core c k (n / 4096 + 2) va n

/-! ## Holds (R34, R155, R265, R266) -/

/-- The line of a part. -/
def Part.line (p : Part) : Nat := p.sector / 2

/-- A hamper record at its home makes the line hold a drain for every launch but its own (R155). -/
def State.drainHeld (s : State) (ln : Nat) (mine : Option (Nat × Nat) := none) : Bool :=
  s.hamper.any fun r => r.loc = .home && lineOf r.pa = ln && mine ≠ some (r.ctx, r.lid)

/-- The page of a line is locked for a move (R34). -/
def State.pageLocked (s : State) (ln : Nat) : Bool :=
  match Tab.find s.placement (ln / 32) with
  | some e => e.lock
  | none => false

/-- A reason to hold a write to a line (R265, R266): a pin, a drain or a page lock; or its stack is not ready (R402). -/
def State.lineHeld (s : State) (ln : Nat) (mine : Option (Nat × Nat) := none) : Bool :=
  (s.line ln).pins ≠ 0 || s.drainHeld ln mine || s.pageLocked ln || !s.stackReady (ln * 128)

/-- A held write of the line of an operation that arrived before an order. -/
def State.opsHeld (s : State) (ln : Nat) (before : Option Nat) : Bool :=
  s.ops.any fun (_, q) => q.parts.any fun r => r.place = .home && r.line = ln && match r.st with
    | .held k => before.all fun n => decide (k < n)
    | _ => false

/-- A held write of the line that the device makes itself and that arrived before an order. -/
def State.postsHeld (s : State) (ln : Nat) (before : Option Nat) : Bool :=
  s.posted.any fun p => lineOf p.pa = ln && p.order.any fun k => before.all fun n => decide (k < n)

/-- A write of the line is held. -/
def State.anyHeld (s : State) (ln : Nat) : Bool := s.opsHeld ln none || s.postsHeld ln none

/-- An earlier held write of the line waits (R266). -/
def State.heldBefore (s : State) (ln n : Nat) : Bool := s.opsHeld ln (some n) || s.postsHeld ln (some n)

/-! ## Dirty log (R315, R316, R323) -/

def Ctx.dbit (x : Ctx) : Bool := bitOf x.s2root.toNat 1

def Ctx.dlog (x : Ctx) : Bool := bitOf x.s2root.toNat 2

/-- What a write by translation knows of its page. -/
def Tr.dirt (t : Tr) (ctx core : Nat) : Dirt := { ctx := ctx, core := core, leaf := t.leaf, d := t.d, ipa := t.ipa, lsz := t.lsz }

/-- The D bit matters to the write: DBIT is 1 and the translation's copy of D is 0 (R323). -/
def State.tracks (s : State) (d : Dirt) : Bool := (s.ctx d.ctx).dbit && !d.d

/-- The leaf in memory has D = 0. -/
def State.clean (s : State) (d : Dirt) : Bool := !bitOf (leNat (s.cohRead d.leaf 8)) 6

/-- The dirty-log ring has room for one entry. -/
def State.dlogRoom (s : State) (c : Nat) : Bool :=
  let x := s.ctx c
  !x.dlog || decide (x.dlogProd - leNat (s.cohRead (x.dlogb.toNat + 8) 8) < (x.dlogs - 64) / 8)

/-- The last write of a writer is complete. -/
def State.srcReady (s : State) (k : Src) : Bool := s.srcWct.all fun e => e.1 ≠ k || decide (e.2 ≤ s.gtime)

/-- No write of a writer waits, and the last one is complete. -/
def State.srcIdle (s : State) (k : Src) : Bool := s.srcReady k && s.posted.all fun p => p.src ≠ k

/-- The write may be performed as far as dirty tracking goes: D is set, and what the log received is complete (R316). -/
def State.dirtyDone (s : State) (d : Dirt) : Bool := !s.tracks d || (!s.clean d && (!(s.ctx d.ctx).dlog || s.srcIdle (.dlog d.ctx)))

/-- SIZE code of a dirty-log entry. -/
def sizeCode (n : Nat) : Nat := if n = 2 ^ 30 then 3 else if n = 2 ^ 21 then 2 else 0

/-- The cached copies of D through which a core writes are set (R323). -/
def State.cacheD (s : State) (d : Dirt) : State :=
  let set_ := fun (l : List TlbEntry) => l.map fun t =>
    if t.ctx = d.ctx && t.leafAt (d.leaf / 8 * 4096) = d.leaf then { t with d := true, ds := t.ds ||| BitVec.ofNat 16 (2 ^ (d.leaf / 8 % 16)) } else t
  let s := s.modCore d.core fun k => { k with tlb := set_ k.tlb }
  { s with l2tlb := Tab.modify s.l2tlb (podOf d.core) set_ }

/-- D of a leaf set before a write, and the dirty-log entry with its PROD on their way where D turns from 0 to 1; nothing while
the log has no room, or the leaf's own line is held or moves (R34, R316, R323). -/
def State.logDirty (s : State) (d : Dirt) : State :=
  if !s.tracks d then s
  else if !s.clean d then s.cacheD d
  else if !s.dlogRoom d.ctx || s.lineHeld (lineOf d.leaf) || s.anyHeld (lineOf d.leaf) || s.mapHeld d.leaf then s
  else
    let e := leNat (s.cohRead d.leaf 8)
    let s := (s.cohWriteLine d.leaf (leBytes 8 (e + 64))).cacheD d
    let x := s.ctx d.ctx
    if !x.dlog then s
    else
      let k := x.dlogProd
      let ent := 2 ^ 63 + sizeCode d.lsz * 2 ^ 60 + d.ipa / 4096 % 2 ^ 40
      let at_ := x.dlogb.toNat + 64 + 8 * (k % ((x.dlogs - 64) / 8))
      let put := fun (pa v : Nat) => ({ src := .dlog d.ctx, pa := pa, bs := leBytes 8 v } : Posted)
      let s := { s with posted := s.posted ++ [put at_ ent, put x.dlogb.toNat (k + 1)] }
      s.modCtx d.ctx fun y => { y with dlogProd := k + 1 }

/-- What a window line knows of its page. -/
def WinLine.dirt (l : WinLine) (T : Team) : Dirt := { ctx := T.ctx, core := T.core, leaf := l.leaf, d := l.dset, ipa := l.ipa, lsz := l.lsz }

/-- The window line of an owned line. -/
def State.winLine (s : State) (w : OwnedLine) : Option (Team × WinLine) :=
  (s.team w.team).bind fun T => ((Tab.find T.wins w.win).bind fun W => Tab.find W.lines w.idx).map fun l => (T, l)

/-- A dirty line cannot be written back from the stash that owns it while its home holds writes to it (R34, R265). -/
def State.recallHeld (s : State) (ln : Nat) : Bool :=
  s.lineHeld ln && match (s.ownerOf ln).bind s.winLine with
    | some (_, l) => l.dirty
    | none => false

/-- What a write to a line must mark: a window line of the owner that is clean becomes dirty, and its page with it (R316). -/
def State.lineDirt (s : State) (ln : Nat) (d : Option Dirt) : Option Dirt :=
  match s.ownerOf ln with
  | none => d
  | some w => match s.winLine w with
    | some (T, l) => if l.dirty then none else some (l.dirt T)
    | none => none

/-! ## Writes that the device makes itself -/

/-- The write has arrived at its home as far as its writer goes, behind the writes that still wait. -/
def State.arrives (s : State) (waiting : List Posted) (p : Posted) : Bool :=
  (p.order.isSome || !s.mapHeld p.pa) && (p.src = .loose || (s.srcReady p.src && waiting.all fun q => q.src ≠ p.src))

/-- The write can be performed now: no reason holds its line, and no write of the line that arrived before waits (R266). -/
def State.mayPost (s : State) (waiting : List Posted) (p : Posted) : Bool :=
  s.arrives waiting p && !s.lineHeld (lineOf p.pa) && !s.opsHeld (lineOf p.pa) p.order && waiting.all fun q => lineOf q.pa ≠ lineOf p.pa

/-- The write as it waits: one that has arrived takes its place among the held writes of its line (R266). -/
def State.waitPost (s : State) (waiting : List Posted) (p : Posted) : State × Posted :=
  if s.arrives waiting p && p.order.isNone then ({ s with order := s.order + 1 }, { p with order := some s.order }) else (s, p)

/-- The write performed at its line, with the completion time of its writer's last write. -/
def State.postNow (s : State) (p : Posted) : State :=
  let wct := s.wctFor (lineOf p.pa) (dieOf ioCore)
  let s := s.cohWriteLine p.pa p.bs
  if p.src = .loose || decide (wct ≤ s.gtime) then s
  else { s with srcWct := (p.src, wct) :: s.srcWct.filter fun e => e.1 ≠ p.src && decide (s.gtime < e.2) }

/-- The waiting writes tried once, oldest first. -/
def State.postAll (s : State) (kept : List Posted) : List Posted → State
  | [] => { s with posted := kept.reverse ++ s.posted }
  | p :: t =>
    if !s.mayPost kept p then (s.waitPost kept p).1.postAll ((s.waitPost kept p).2 :: kept) t
    else match s.lineDirt (lineOf p.pa) p.dirt with
      | none => (s.postNow p).postAll kept t
      | some d =>
        let s := s.logDirty d
        if s.dirtyDone d then (s.postNow p).postAll kept t else (s.waitPost kept p).1.postAll ((s.waitPost kept p).2 :: kept) t

/-- The waiting writes tried `n` times: a write may first have to see its log entry complete. -/
def State.pumpN (s : State) : Nat → State
  | 0 => s
  | n + 1 => if s.posted.isEmpty then s else (({ s with posted := [] } : State).postAll [] s.posted).pumpN n

def State.pump (s : State) : State := s.pumpN 3

/-- D of a page set before a write, as far as the log has room. -/
def State.markDirty (s : State) (d : Dirt) : State := if s.tracks d then (s.logDirty d).pump else s

/-- The pieces of a write, line by line; `fuel` bounds the lines. -/
def pieces (src : Src) (dirt : Option Dirt) : Nat → Nat → List Byte → List Posted
  | 0, _, _ => []
  | fuel + 1, pa, bs =>
    if bs.isEmpty then []
    else
      let n := 128 - pa % 128
      { src := src, pa := pa, bs := bs.take n, dirt := dirt } :: pieces src dirt fuel (pa + n) (bs.drop n)

/-- A write of the device at a physical address: performed at once where nothing holds it, in its order otherwise. -/
def State.post (s : State) (src : Src) (pa : Nat) (bs : List Byte) (dirt : Option Dirt := none) : State :=
  ({ s with posted := s.posted ++ pieces src dirt (bs.length / 128 + 2) pa bs } : State).pump

/-- A write of an engine's bytes without an order. -/
def State.cohWrite (s : State) (pa : Nat) (bs : List Byte) : State := s.post .loose pa bs

/-- No write of the device waits on a physical range. -/
def State.settledAt (s : State) (pa n : Nat) : Bool := s.posted.all fun p => !(decide (pa < p.pa + p.bs.length) && decide (p.pa < pa + n))

/-! ## Accesses by descriptors, records and engines -/

/-- Bytes of a virtual range read coherently, page by page; the first failing address and its fault otherwise. -/
def State.readVAFuel (s : State) (core c : Nat) (k : Acc) : Nat → Nat → Nat → Except (FCode × Nat) (List Byte)
  | 0, _, _ => .ok []
  | fuel + 1, va, n =>
    if n = 0 then .ok []
    else if !vaOk va then .error (.address, va)
    else match s.trans core c k va with
      | .error f => .error (f, va)
      | .ok t =>
        let m := min n (4096 - va % 4096)
        match s.readVAFuel core c k fuel (va + m) (n - m) with
        | .error e => .error e
        | .ok rest => .ok (s.cohRead t.pa m ++ rest)

def State.readVA (s : State) (core c va n : Nat) : Except (FCode × Nat) (List Byte) :=
  s.readVAFuel core c .r (n / 4096 + 2) va n

/-- The HBM reads that reading a virtual range on a core causes, counted at their pages (R327). -/
def State.countVAFuel (s : State) (core c : Nat) (k : Acc) : Nat → Nat → Nat → State
  | 0, _, _ => s
  | fuel + 1, va, n =>
    if n = 0 then s
    else match s.trans core c k va with
      | .error _ => s
      | .ok t => let m := min n (4096 - va % 4096); (s.hbmReads t.pa m (dieOf core)).countVAFuel core c k fuel (va + m) (n - m)

def State.countVA (s : State) (core c : Nat) (k : Acc) (va n : Nat) : State := s.countVAFuel core c k (n / 4096 + 2) va n

/-- The first poisoned sector among `n` from a physical sector number, by its address. -/
def State.poisonFrom (s : State) (sector : Nat) : Nat → Option Nat
  | 0 => none
  | n + 1 => if s.poisonedAt (sector * 64) then some (sector * 64) else s.poisonFrom (sector + 1) n

/-- The first poisoned sector of a virtual range, by the virtual address at which it starts or the range does. -/
def State.poisonVAFuel (s : State) (core c : Nat) : Nat → Nat → Nat → Option Nat
  | 0, _, _ => none
  | fuel + 1, va, n =>
    if n = 0 then none
    else match s.trans core c .r va with
      | .error _ => none
      | .ok t =>
        let m := min n (4096 - va % 4096)
        match s.poisonFrom (sectorOf t.pa) (sectorOf (t.pa + m - 1) + 1 - sectorOf t.pa) with
        | some a => some (max va (va + a - t.pa))
        | none => s.poisonVAFuel core c fuel (va + m) (n - m)

def State.poisonVA (s : State) (core c va n : Nat) : Option Nat := s.poisonVAFuel core c (n / 4096 + 2) va n

/-- A record read by an engine, which reports the first poisoned sector that it meets (R269). -/
def State.readClean (s : State) (core c va n : Nat) : Except (FCode × Nat) (List Byte) :=
  match s.readVA core c va n with
  | .error e => .error e
  | .ok b => match s.poisonVA core c va n with
    | some a => .error (.uncorrectable, a)
    | none => .ok b

/-- A virtual range checked for an access, every page in ascending order. -/
def State.checkVAFuel (s : State) (core c : Nat) (k : Acc) : Nat → Nat → Nat → Except (FCode × Nat) Unit
  | 0, _, _ => .ok ()
  | fuel + 1, va, n =>
    if n = 0 then .ok ()
    else if !vaOk va then .error (.address, va)
    else match s.trans core c k va with
      | .error f => .error (f, va)
      | .ok _ => let m := min n (4096 - va % 4096); s.checkVAFuel core c k fuel (va + m) (n - m)

def State.checkVA (s : State) (core c : Nat) (k : Acc) (va n : Nat) : Except (FCode × Nat) Unit :=
  s.checkVAFuel core c k (n / 4096 + 2) va n

/-- Bytes written through translation in one page piece after another, with dirty tracking. -/
def State.writeVAFuel (s : State) (src : Src) (core c : Nat) : Nat → Nat → List Byte → Except (FCode × Nat) State
  | 0, _, _ => .ok s
  | fuel + 1, va, bs =>
    if bs.isEmpty then .ok s
    else if !vaOk va then .error (.address, va)
    else match s.trans core c .w va with
      | .error f => .error (f, va)
      | .ok t =>
        let m := 4096 - va % 4096
        (s.post src t.pa (bs.take m) (some (t.dirt c core))).writeVAFuel src core c fuel (va + m) (bs.drop m)

/-- A record written to a virtual address. -/
def State.writeVA (s : State) (core c va : Nat) (bs : List Byte) (src : Src := .loose) : Except (FCode × Nat) State :=
  s.writeVAFuel src core c (bs.length / 4096 + 2) va bs

/-- A team has written a virtual range: what its matrix operations read there is undefined (R193). -/
def State.staleVAFuel (s : State) (t core c : Nat) : Nat → Nat → Nat → State
  | 0, _, _ => s
  | fuel + 1, va, n =>
    if n = 0 then s
    else
      let m := min n (4096 - va % 4096)
      (match s.trans core c .w va with
       | .ok tr => s.staleHome t tr.pa m
       | .error _ => s).staleVAFuel t core c fuel (va + m) (n - m)

def State.staleVA (s : State) (t core c va n : Nat) : State := s.staleVAFuel t core c (n / 4096 + 2) va n

/-! ## The host fault ring (R313, R314) and courier faults -/

/-- Code of a fault (R390, Table 16-12). -/
def FCode.code : FCode → Nat
  | .illegal => 0x01 | .reservedBits => 0x02 | .privilege => 0x03 | .operand => 0x04 | .hintSeq => 0x05 | .dict => 0x06
  | .align => 0x10 | .address => 0x11 | .translation => 0x12 | .permission => 0x13 | .stage2 => 0x14 | .tagFormat => 0x15
  | .barrierClobber => 0x16 | .barrierAbandoned => 0x17 | .stashRange => 0x18
  | .fpTrap => 0x20 | .branchRange => 0x22 | .callDepth => 0x23 | .watchdog => 0x28 | .timer => 0x29
  | .matrixMismatch => 0x30 | .party => 0x31 | .batch => 0x32 | .mcast => 0x38
  | .pairOverflow => 0x3C | .pairEmit => 0x3D | .uncorrectable => 0x40 | .trap => 0x41

/-- A host fault entry (Table 12-6). -/
structure HFault where
  source : Nat
  fcode : Nat := 0
  reason : Nat := 0
  ctx : Nat := 0
  core : Nat := 0xFFFFFFFF
  who : Nat := 0
  lid : Nat := 0
  aux : Nat := 0
  pc : Nat := 0
  addr : Nat := 0
  deriving DecidableEq, Repr

/-- The 64 bytes of an entry at a time. -/
def HFault.bytes (e : HFault) (now : Nat) : List Byte :=
  leBytes 1 e.source ++ leBytes 1 e.fcode ++ leBytes 2 e.reason ++ leBytes 4 (e.ctx % 64) ++ leBytes 4 e.core ++ leBytes 4 e.who ++
  leBytes 4 e.lid ++ leBytes 4 e.aux ++ leBytes 8 e.pc ++ leBytes 8 e.addr ++ leBytes 8 now ++ zeros 16

/-- One entry's bytes put into a ring that is set, PROD following once the entry is complete, or dropped with LOST raised where
the ring is full. -/
def State.ringPut (s : State) (bs : List Byte) : State :=
  let r := s.ring
  let cap := (r.size - 64) / 64
  if r.prod - leNat (s.cohRead (r.base + 8) 8) < cap then
    let s := { s with ring := { r with prod := r.prod + 1 } }
    (s.post .ring (r.base + 64 + 64 * (r.prod % cap)) bs).post .ring r.base (leBytes 8 (r.prod + 1))
  else
    let s := { s with ring := { r with lost := r.lost + 1 } }
    s.post .ring (r.base + 16) (leBytes 8 (r.lost + 1))

/-- Report to the host fault ring; before it is set up to 64 entries are kept and the rest counted (R313). -/
def State.hostFault (s : State) (e : HFault) : State :=
  let bs := e.bytes s.gtime
  if s.ring.set then s.ringPut bs
  else if s.ring.kept.length < 64 then { s with ring := { s.ring with kept := s.ring.kept ++ [bs] } }
  else { s with ring := { s.ring with dropped := s.ring.dropped + 1 } }

/-- A courier fault: the courier stops, CPC stays, and the host is told (R239). -/
def State.faultCourier (s : State) (c : Nat) (code : FCode) (pc : DWord) (faux : Word) (faddr : DWord) : State :=
  match (s.core c).courier with
  | none => s
  | some y =>
    let s := s.modCore c fun k => { k with courier := k.courier.map fun (y : Courier) => { y with stopped := true, wait := none } }
    s.hostFault { source := 2, fcode := code.code, ctx := y.ctx, core := c, who := y.num, aux := faux.toNat, pc := pc.toNat, addr := faddr.toNat }

/-- A load or read of an agent meets poison at a physical address: an imprecise UNCORRECTABLE of the group at its next issue, with the
lanes that read it (R269, R306); a courier stops. -/
def State.soften (s : State) (w : Who) (pc : DWord) (pa : Nat) (lanes : List Nat) : State :=
  match w with
  | .grp t k => s.modGrp t k fun g => { g with
      soft := some (BitVec.ofNat 64 pa, pc.setWidth 32)
      softLanes := lanes.foldl (fun m l => Tab.put m l (pa / 128 * 128)) g.softLanes }
  | .courier c => s.faultCourier c .uncorrectable pc (pc.setWidth 32) (BitVec.ofNat 64 pa)

/-- An event of a context on its way to its counter block (R346); not counted without a block (R345). -/
def State.countEvent (s : State) (c off : Nat) (tag : Option (BitVec 8 × Word) := none) : State :=
  if (s.ctx c).cntblk = 0 then s else { s with counts := s.counts ++ [{ ctx := c, off := off, tag := tag, at_ := s.gtime }] }

end Sys2Proof.Machine
end

