-- ==== Sys2Proof/Machine/Access.lean ====
section
/-! DEFINITION. Memory operations: how a part of an operation is performed at its place (R140, R264, R348), the L1 under
leases (R258, R259), holds (R265, R266), and when an operation is answered and complete (R157, R161). -/

namespace Sys2Proof.Machine

/-! ## Atomic operations (Table 06-5) -/

/-- Bytes of an atomic's location. -/
def atomSize : AtomK → Nat
  | .addI64 | .minI64 | .maxI64 | .cas64 => 8
  | _ => 4

/-- A float atomic that a DETERMINISTIC launch sends to the hamper (R154). -/
def atomHampers : AtomK → Bool
  | .addF32 | .addF16x2 | .minF32 | .maxF32 => true
  | _ => false

/-- Two FP16 additions of packed elements. -/
def addF16x2 (a b : Word) : Word :=
  let k := fun i => (NFmt.fp16.addOp .rne (element 16 i a) (element 16 i b)).1
  k 0 ||| (k 1 <<< 16)

/-- OP(old, x) on 32 bits. -/
def atomOp32 (k : AtomK) (o x : Word) : Word :=
  match k with
  | .addF32 => (NFmt.fp32.addOp .rne o x).1
  | .addF16x2 => addF16x2 o x
  | .minI32 => if o.toInt ≤ x.toInt then o else x
  | .maxI32 => if x.toInt ≤ o.toInt then o else x
  | .minN32 => if o.toNat ≤ x.toNat then o else x
  | .maxN32 => if x.toNat ≤ o.toNat then o else x
  | .minF32 => NFmt.fp32.minOp o x
  | .maxF32 => NFmt.fp32.maxOp o x
  | .and32 => o &&& x
  | .or32 => o ||| x
  | .xor32 => o ^^^ x
  | .exch => x
  | _ => o + x

/-- The new value of a location: `old` and `x` in the low bits; for `cas`, `x` is the compare value and `new` the new one. -/
def atomApply (k : AtomK) (old x new : DWord) : DWord :=
  match k with
  | .addI64 => old + x
  | .minI64 => if old.toInt ≤ x.toInt then old else x
  | .maxI64 => if x.toInt ≤ old.toInt then old else x
  | .cas64 => if old = x then new else old
  | .cas32 => if old.setWidth 32 = x.setWidth 32 then new else old
  | _ => (atomOp32 k (old.setWidth 32) (x.setWidth 32)).setWidth 64

/-! ## Places -/

/-- Where a lane's share is: a physical address, or an offset in a team's stash. -/
inductive Loc where
  | pa (a : Nat)
  | st (team off : Nat)
  deriving DecidableEq, Repr

def Place.loc : Place → Nat → Loc
  | .home, a => .pa a
  | .stash t, a => .st t a

/-- The window of a team that maps a stash offset: window number and line index. -/
def Team.winAt (T : Team) (off : Nat) : Option (Nat × Nat) :=
  (T.wins.find? fun e => decide (e.2.off * 1024 ≤ off) && decide (off < (e.2.off + e.2.len) * 1024)).map
    fun e => (e.1, (off - e.2.off * 1024) / 128)

/-- The stash offset lies in a window line that is ABSENT (R262). -/
def Team.absent (T : Team) (off : Nat) : Bool :=
  match T.winAt off with
  | some (w, i) => match Tab.find T.wins w with
    | some W => (Tab.find W.lines i).isNone
    | none => false
  | none => false

/-- The window line at a stash offset, where it is present. -/
def Team.winLineAt (T : Team) (off : Nat) : Option (Nat × Nat × WinLine) :=
  match T.winAt off with
  | some (w, i) => (Tab.find T.wins w).bind fun W => (Tab.find W.lines i).map fun l => (w, i, l)
  | none => none

/-- Bytes at a place. -/
def State.locRead (s : State) (l : Loc) (n : Nat) : List Byte :=
  match l with
  | .pa a => s.cohRead a n
  | .st t off => match s.team t with
    | some T => readBytes T.stash off n
    | none => zeros n

/-- A write to stash bytes: data, and the window line dirty with its D bit where it was clean (R262, R316). -/
def State.stashPut (s : State) (t off : Nat) (f : Team → Team) : State :=
  match s.team t with
  | none => s
  | some T =>
    match T.winLineAt off with
    | none => s.modTeam t f
    | some (w, i, l) =>
      let s := if l.dirty then s else s.markDirty (l.dirt T)
      (s.modTeam t fun T => (f T).soil w i).observe (l.pa * 128) 128

/-- Bytes of a stash have been written, and with them those of a window line's range (R193, R198). -/
def State.touched (s : State) (t off n : Nat) : State :=
  let s := s.staleStash t off n
  match (s.team t).bind fun T => T.winLineAt off with
  | some (_, _, l) => (s.staleHome t (l.pa * 128 + off % 128) n).race (l.pa * 128 + off % 128) n
  | none => s

def State.locPut (s : State) (l : Loc) (bs : List Byte) : State :=
  match l with
  | .pa a => s.putLine a bs
  | .st t off => (s.touched t off bs.length).stashPut t off fun T => { T with stash := writeBytes T.stash off bs }

def State.locTag (s : State) (l : Loc) : Tag :=
  match l with
  | .pa a => s.tagAt a
  | .st t off => match s.team t with
    | some T => Tab.get 0 T.stags (off / 64)
    | none => 0

def State.locPutTag (s : State) (l : Loc) (g : Tag) : State :=
  match l with
  | .pa a => s.putTag a g
  | .st t off => s.stashPut t off fun T => { T with stags := Tab.set 0 T.stags (off / 64) g }

def State.locPoisoned (s : State) (l : Loc) : Bool :=
  match l with
  | .pa a => s.poisonedAt a
  | .st t off => match s.team t with
    | some T => T.spoison.contains (off / 64)
    | none => false

/-- The stash place that a number names. -/
def unpackStash (x : Nat) : Loc := .st (x / 2 ^ 20) (x % 2 ^ 20)

/-! ## L1 (R258, R259) -/

/-- The valid, unexpired sector of an address in a core's L1. -/
def State.l1Hit (s : State) (core pa : Nat) : Option L1Line :=
  (Tab.find (s.core core).l1 (lineOf pa)).filter fun l =>
    decide (s.dieNow (dieOf core) < l.expiry) && (if pa % 128 < 64 then l.v0 else l.v1)

/-- Bytes of an L1 line from an offset. -/
def L1Line.bytes (l : L1Line) (off n : Nat) : List Byte :=
  leBytes n ((if off < 64 then l.d0 else l.d1).toNat / 2 ^ (8 * (off % 64)))

/-- A sector with bytes overwritten from an offset. -/
def putSector (x : BitVec 512) (off : Nat) (bs : List Byte) : BitVec 512 :=
  let n := bs.length
  let m := BitVec.ofNat 512 ((2 ^ (8 * n) - 1) * 2 ^ (8 * off))
  (x &&& ~~~ m) ||| BitVec.ofNat 512 (leNat bs * 2 ^ (8 * off))

/-- A core's own store or atomic reply updates its valid copy of the sector, keeping the expiry; a write ends a read
count (R259, R267). -/
def State.l1Update (s : State) (core pa : Nat) (bs : List Byte) : State :=
  s.modCore core fun k => { k with l1 := Tab.modify k.l1 (lineOf pa) fun l =>
    if pa % 128 < 64 then (if l.v0 then { l with d0 := putSector l.d0 (pa % 64) bs, rc := 0 } else l)
    else (if l.v1 then { l with d1 := putSector l.d1 (pa % 64) bs, rc := 0 } else l) }

/-- A core's own tag write in its valid copy. -/
def State.l1UpdateTag (s : State) (core pa : Nat) (g : Tag) : State :=
  s.modCore core fun k => { k with l1 := Tab.modify k.l1 (lineOf pa) fun l =>
    if pa % 128 < 64 then { l with t0 := g, rc := 0 } else { l with t1 := g, rc := 0 } }

/-- The rank of a line for replacement: expired first, then stream, default, keep; older first (R258). -/
def L1Line.rank (now : Nat) (l : L1Line) : Nat :=
  if l.expiry ≤ now then 0 else (if l.policy = 1 then 1 else if l.policy = 2 then 3 else 2) * 2 ^ 64 + l.used

/-- The line to replace in a full set of eight ways, if the set is full. -/
def l1Victim (now : Nat) (l1 : Tab L1Line) (ln : Nat) : Option Nat :=
  let set := l1.filter fun e => e.1 % 128 = ln % 128 && e.1 ≠ ln
  if set.length < 8 then none
  else (set.foldl (fun acc e => match acc with
    | none => some e
    | some b => if e.2.rank now < b.2.rank now then some e else acc) (none : Option (Nat × L1Line))).map Prod.fst

/-- A line filled into a core's L1 under an expiry, a poisoned sector left invalid (R269), with the reads that it has served; a line it replaces leaves a victim tag,
and a line that has served its count is gone at once (R258, R267, R294). -/
def State.l1Fill (s : State) (core pa expiry rc reads : Nat) (policy : BitVec 2) (by_ : Nat × Nat) : State :=
  let ln := lineOf pa
  let get := fun o => BitVec.ofNat 512 (leNat (s.cohRead (ln * 128 + o) 64))
  let l : L1Line := { d0 := get 0, d1 := get 64, t0 := s.tagAt (ln * 128), t1 := s.tagAt (ln * 128 + 64), v0 := !s.poisonedAt (ln * 128), v1 := !s.poisonedAt (ln * 128 + 64),
                      expiry := expiry, rc := rc, reads := reads, policy := policy, used := s.order, filler := by_, ctx := (s.core core).ctx }
  let s := { s with order := s.order + 1 }
  let put := fun (t : Tab L1Line) => if rc ≠ 0 ∧ rc ≤ reads then Tab.del t ln else Tab.put t ln l
  s.modCore core fun k =>
    match l1Victim (s.dieNow (dieOf core)) k.l1 ln with
    | none => { k with l1 := put k.l1 }
    | some v =>
      let who := ((Tab.find k.l1 v).map L1Line.filler).getD (0, 0)
      { k with l1 := put (Tab.del k.l1 v), victims := ((v, who.1, who.2) :: k.victims).take 1024 }

/-- One read of an instruction served by an L1 line: a line that reaches its read count leaves (R267). -/
def State.l1Served (s : State) (core ln : Nat) : State :=
  let s := { s with order := s.order + 1 }
  s.modCore core fun k =>
    match Tab.find k.l1 ln with
    | none => k
    | some l =>
      if l.rc ≠ 0 ∧ l.rc ≤ l.reads + 1 then { k with l1 := Tab.del k.l1 ln }
      else { k with l1 := Tab.put k.l1 ln { l with reads := l.reads + 1, used := s.order } }

/-! ## Operations -/

def OpK.isWrite : OpK → Bool
  | .store | .atomic _ | .stt | .cpaOut | .padd => true
  | _ => false

/-- The operation returns a value to a register. -/
def MemOp.returns (o : MemOp) : Bool :=
  match o.kind with
  | .load _ | .ldt | .hgath | .pread => true
  | .atomic _ => o.dst ≠ .none
  | _ => false

def PartSt.isDone : PartSt → Bool
  | .done _ | .lost => true
  | _ => false

/-- Every part has been performed. -/
def MemOp.performed (o : MemOp) : Bool := o.parts.all fun p => p.st.isDone

/-- The latest write-completion time of the parts. -/
def MemOp.wct (o : MemOp) : Nat := o.parts.foldl (fun t p => match p.st with | .done w => max t w | _ => t) 0

/-- A part that a peer must acknowledge (R366). -/
def Part.peer (p : Part) : Bool := p.place = .home && p.lanes.any fun l => isPeer l.addr

/-- A part in host memory (R365). -/
def Part.host (p : Part) : Bool := p.place = .home && p.lanes.any fun l => isHost l.addr

/-- A write to a peer or to the host that its port has accepted, which completes it below system scope (R365, R366). -/
def Part.accepted (p : Part) : Bool := (p.peer || p.host) && p.ported

/-- The part is performed at its home and its write-completion time has come, or nothing of it is left to do. -/
def Part.landed (now : Nat) (p : Part) : Bool :=
  match p.st with
  | .done w => decide (w ≤ now)
  | .lost => true
  | _ => false

/-- The port that carries the requests for a peer line (R395): chosen by a hash among the ports that are up. -/
def State.portOf (s : State) (pa : Nat) : Option Nat :=
  let ups := (List.range 16).filter fun p => (s.peerPorts (peerOf pa)).getLsbD p
  if ups.isEmpty then none else ups[Config.portHash (lineOf pa) % ups.length]?

/-- An earlier request for a peer line is not performed; with `left`, it has not even left (R395). -/
def State.lineBefore (s : State) (id ln : Nat) (left : Bool) : Bool :=
  s.ops.any fun (j, q) => decide (j < id) && q.parts.any fun r => r.peer && r.line = ln && !r.st.isDone && (!left || r.port.isNone)

/-- The part is performed, as a write of group or team scope needs (Table 06-6). -/
def Part.seen (p : Part) : Bool := p.st.isDone || p.accepted

/-- The part is complete at device scope (Table 06-6). -/
def Part.complete (now : Nat) (p : Part) : Bool :=
  p.accepted || p.landed now

/-- The write is complete at device scope. -/
def MemOp.complete (now : Nat) (o : MemOp) : Bool := o.parts.all (Part.complete now)

/-- The access is complete at a scope: group and team 1, cluster and device 2 and 3, system 4 (Table 06-6). -/
def MemOp.completeAt (now scope : Nat) (o : MemOp) : Bool :=
  (!o.returns || o.replied) &&
  (!o.kind.isWrite ||
    (if scope ≤ 1 then o.parts.all Part.seen
     else o.complete now && (scope ≤ 3 || o.parts.all fun p => (!p.peer || p.acked) && (!p.host || p.landed now))))

/-- The operation is one that fences order (R157): not a lane copy. -/
def MemOp.fenced (o : MemOp) : Bool :=
  match o.kind with
  | .cpaIn | .cpaOut | .pread => false
  | _ => true

/-- The operation has nothing left to do. -/
def MemOp.over (o : MemOp) : Bool := (!o.returns || o.replied) && !o.kind.isWrite

/-- Two lane shares of accesses of one agent name a common byte by the same name (R351). -/
def sameName (p q : Part) (n m : Nat) : Bool :=
  (decide (p.place = .home) = decide (q.place = .home)) && p.lanes.any fun a => q.lanes.any fun b =>
    decide (a.name < b.name + m) && decide (b.name < a.name + n)

/-- An earlier access of an agent to its stash that is not performed names one of 16 bytes from these stash addresses (R351). -/
def State.stashBefore (s : State) (w : Who) (id : Nat) (names : List Nat) : Bool :=
  s.ops.any fun (j, q) => decide (j < id) && q.who = w && q.parts.any fun r => r.place ≠ .home && !r.st.isDone && r.lanes.any fun a =>
    names.any fun n => decide (a.name < n + 16) && decide (n < a.name + q.size)

/-- An earlier operation of the same agent that must be performed before this part: one that names its bytes, or bytes of the stash that a
`cpa.out` reads (R351, log 67). -/
def State.blocked (s : State) (id : Nat) (o : MemOp) (p : Part) : Bool :=
  (o.kind = .cpaOut && s.stashBefore o.who id (p.lanes.map LaneAcc.sname)) || s.ops.any fun (j, q) => decide (j < id) && q.who = o.who && (q.kind.isWrite || o.kind.isWrite || (q.kind ≠ .cpaIn && o.kind ≠ .cpaIn)) &&
    q.parts.any fun r => !r.st.isDone && sameName r p q.size o.size

/-- The launch of an operation: context and LID. -/
def State.launchOf (s : State) (o : MemOp) : Option (Nat × Nat) :=
  match o.who with
  | .grp t _ => (s.team t).bind fun T => if T.kind = .pair then none else some (T.ctx, T.lid)
  | .courier _ => none

/-- A write of a part is held at its line (R265, R266). -/
def State.writeHeld (s : State) (o : MemOp) (p : Part) : Bool :=
  o.kind.isWrite && p.place = .home && s.lineHeld p.line (s.launchOf o)

/-- What a part knows of its page. -/
def Part.dirt (p : Part) (o : MemOp) : Dirt := { ctx := o.ctx, core := o.core, leaf := p.leaf, d := p.dset, ipa := p.ipa, lsz := p.lsz }

/-- D set before a part's write at its home, or at the window line that owns it, as far as the log has room (R316). -/
def State.markPart (s : State) (o : MemOp) (p : Part) : State :=
  if !o.kind.isWrite then s
  else match s.lineDirt p.line (some (p.dirt o)) with
    | some d => s.markDirty d
    | none => s

/-- A part's write may be performed as far as dirty tracking goes (R316). -/
def State.partClear (s : State) (o : MemOp) (p : Part) : Bool :=
  !o.kind.isWrite || match s.lineDirt p.line (some (p.dirt o)) with
    | some d => s.dirtyDone d
    | none => true

/-- Slice of a die that a bucket names; at bring-up h mod 48. -/
def State.bucket (s : State) (die h : Nat) : Nat := (Tab.find s.buckets (die * 4096 + h)).getD (h % 48)

/-- HOME of a line: die and slice (R8, R324). -/
def State.home (s : State) (pa : Nat) : Nat × Nat :=
  let d := s.homeDie pa
  (d, s.bucket d (hashOf pa))

/-- The lines that L2 holds in the set of a line: one of the 1,024 sets of its slice (R264, log 48). -/
def State.setLines (s : State) (ln : Nat) : Tab Line :=
  s.lines.filter fun (n, l) => l.present && n % 1024 = ln % 1024 && s.home (n * 128) = s.home (ln * 128)

/-- Every one of the 16 ways of a line's set is taken. -/
def State.setFull (s : State) (ln : Nat) : Bool := decide (16 ≤ (s.setLines ln).length)

/-- The global lines of an operand of an `mma`. -/
def rowLines (stash : Bool) (ls : List Nat) : List Nat :=
  if stash then [] else ls.flatMap fun l => (List.range 4).map fun j => l / 128 + j

/-- A line brought into L2 with the read count and the policy of its request; the read is counted at the page (R267, R327). -/
def State.fillLine (s : State) (ln rc : Nat) (policy : BitVec 2) (die : Nat) : State :=
  (s.modLine ln fun l => l.fill rc policy).countRead (ln * 128) die

/-- A write at a place by a group is one by its team to the global bytes there, also where another team's window maps the stash (R193). -/
def State.staleBy (s : State) (w : Who) (l : Loc) (n : Nat) : State :=
  match w, l with
  | .grp t _, .pa a => s.staleHome t a n
  | .grp t _, .st u off => match (s.team u).bind fun U => U.winLineAt off with
    | some (_, _, x) => s.staleHome t (x.pa * 128 + off % 128) n
    | none => s
  | .courier _, _ => s

/-- One lane's share performed at a location: loads and atomics take the old value, writes change it (R140, R151). A `cpa.out` whose
source team has ended reads a free value and a free tag: the spec gives a discarded load an undefined value and is silent on the copy
(R137, log 53). -/
def State.lanePerform (s : State) (o : MemOp) (pl : Place) (a : LaneAcc) : State × LaneAcc :=
  let l := pl.loc a.addr
  let s := if o.kind.isWrite then s.staleBy o.who l o.size else s
  let rd := fun n => BitVec.ofNat 128 (leNat (s.locRead l n))
  match o.kind with
  | .padd => (s, a)
  | .load _ | .hgath | .pread => (s, { a with got := rd o.size })
  | .store =>
    let bs := leBytes o.size a.data.toNat
    let s := s.locPut l bs
    (match pl with
     | .home => s.l1Update o.core a.addr bs
     | .stash _ => s, a)
  | .atomic k =>
    let old := rd (atomSize k)
    let new := atomApply k (old.setWidth 64) (a.data.setWidth 64) (a.data.extractLsb' 64 64)
    let bs := leBytes (atomSize k) new.toNat
    let s := s.locPut l bs
    (match pl with
     | .home => s.l1Update o.core a.addr bs
     | .stash _ => s, { a with got := old })
  | .ldt => (s, { a with gotTag := s.locTag l })
  | .stt =>
    let s := s.locPutTag l (a.data.setWidth 16)
    (s.l1UpdateTag o.core a.addr (a.data.setWidth 16), a)
  | .cpaIn => (s, { a with got := rd 16, gotTag := s.locTag l })
  | .cpaOut =>
    let src := unpackStash a.aux
    let (bs, g, s) := if (s.team (a.aux / 2 ^ 20)).isSome then (s.locRead src 16, s.locTag src, s)
      else
        let (v, s) := s.free
        let (w, s) := s.free
        (leBytes 16 v.toNat, w.setWidth 16, s)
    ((((s.locPut l bs).locPutTag l g).l1Update o.core a.addr bs).l1UpdateTag o.core a.addr g, a)

/-- The lanes of a part performed in ascending order as one access. -/
def State.lanesPerform (s : State) (o : MemOp) (pl : Place) : List LaneAcc → State × List LaneAcc
  | [] => (s, [])
  | a :: t =>
    let (s, a) := s.lanePerform o pl a
    let (s, t) := s.lanesPerform o pl t
    (s, a :: t)

/-- Free values for lanes whose access the spec leaves undefined (R5). -/
def State.freeLanes (s : State) : List LaneAcc → State × List LaneAcc
  | [] => (s, [])
  | a :: t =>
    let (v, s) := s.free
    let (s, t) := s.freeLanes t
    (s, { a with got := v, gotTag := v.setWidth 16 } :: t)

/-- Whether the reads of a part, loads or a `cpa.in`, fill the core's L1 (R143, R149, R255, R258, Table 03-22). -/
def MemOp.fills (o : MemOp) (p : Part) : Bool :=
  (match o.kind with | .load _ | .ldt | .cpaIn => true | _ => false) && p.place = .home && o.policy ≠ 3 &&
  p.lanes.all fun a => !isHost a.addr

/-- The part's sector is read by a load or a lane copy whose line serves a read of R267: an L1 fill, one under cache policy 3, or `hgath`. -/
def MemOp.reads (o : MemOp) (p : Part) : Bool :=
  o.fills p || (match o.kind with | .hgath => true | .load _ | .ldt | .cpaIn => o.policy = 3 | _ => false)

/-- Another sector of the same line has been fetched by the same instruction, which counts as one read (R267). -/
def MemOp.twin (o : MemOp) (p : Part) : Bool :=
  o.parts.any fun q => q.place = .home && q.line = p.line && q.st.isDone && !q.leased

/-- A home's fill of a core's L1 for a part: the line comes under a new lease (R258, R259, R267, log 46). -/
def State.fillFor (s : State) (o : MemOp) (p : Part) : State :=
  let who := match o.who with | .grp t k => (t, k) | .courier _ => (0, 0)
  let pa := p.sector * 64
  let old := (Tab.find (s.core o.core).l1 p.line).filter fun l => decide (s.dieNow (dieOf o.core) < l.expiry)
  let l := Line.grant (s.homeNow p.line) (s.line p.line)
  let n := match old with
    | some k => if o.parts.any fun q => q.line = p.line && q.leased then k.reads else 1
    | none => 1
  (s.modLine p.line fun _ => l).l1Fill o.core pa (s.homeNow p.line + l.lease - s.leaseCut p.line (dieOf o.core)) o.rc n o.policy who

/-- The lanes of a part with what an L1 line gives them. -/
def Part.fromL1 (p : Part) (o : MemOp) (l : L1Line) : List LaneAcc :=
  p.lanes.map fun a => { a with got := BitVec.ofNat 128 (leNat (l.bytes (a.addr % 128) o.size)), gotTag := if a.addr % 128 < 64 then l.t0 else l.t1 }

/-- The line that a fill for another sector of the same instruction has brought under a lease: it serves this sector too (R267, R357). -/
def State.twinLine (s : State) (o : MemOp) (p : Part) : Option L1Line := if o.fills p && o.twin p then s.l1Hit o.core (p.sector * 64) else none

/-- A part performed at its place at this moment, with the line rules, lease grant and L1 fill; the op's new part is
returned. An atomic that finds a poisoned sector uses its bytes as they stand and raises nothing (R269, log 65). -/
def State.performPart (s : State) (o : MemOp) (p : Part) : State × Part :=
  match s.twinLine o p with
  | some l => (s, { p with lanes := p.fromL1 o l, st := .done (s.dieNow (dieOf o.core)) })
  | none =>
  let pa := p.sector * 64
  let ln := p.line
  let home := decide (p.place = .home)
  let owner := if home then s.ownerOf ln else none
  let owned := owner.isSome
  let bad := !o.kind.isWrite && s.locPoisoned (p.place.loc pa)
  let wct := if home then s.wctFor ln (dieOf o.core) else s.dieNow (dieOf o.core)
  let (s, lanes) := s.lanesPerform o p.place p.lanes
  let (s, lanes) := if bad then (s.soften o.who o.pc pa (lanes.map LaneAcc.lane)).freeLanes lanes else (s, lanes)
  let s := if !home || owned then s
    else if o.kind.isWrite then s.modLine ln (Line.wrote_ (s.homeNow ln))
    else if o.reads p && !o.twin p then s.modLine ln Line.served
    else s
  let s := if o.fills p && !owned then s.fillFor o p else s
  (s, { p with lanes := lanes, st := .done wct })

/-- The operation with its part replaced. -/
def MemOp.setPart (o : MemOp) (n : Nat) (p : Part) : MemOp := { o with parts := o.parts.set n p }

def State.setOp (s : State) (id : Nat) (o : MemOp) : State := { s with ops := Tab.put s.ops id o }

/-- Part `n` of operation `id` performed now. -/
def State.perform (s : State) (id n : Nat) : State :=
  match Tab.find s.ops id with
  | none => s
  | some o => match o.parts[n]? with
    | none => s
    | some p =>
      let (s, p) := s.performPart o p
      s.setOp id (o.setPart n p)

/-- A stash part whose team is gone is discarded: no write, a free value for a load (R137). -/
def State.discardPart (s : State) (id n : Nat) : State :=
  match Tab.find s.ops id with
  | none => s
  | some o => match o.parts[n]? with
    | none => s
    | some p =>
      let (s, lanes) := s.freeLanes p.lanes
      s.setOp id (o.setPart n { p with lanes := lanes, st := .lost })

/-! ## Answers and completion -/

/-- A loaded value extended by its size and sign (R139). -/
def extendLoad (k : OpK) (size : Nat) (v : BitVec 128) : BitVec 128 :=
  match k with
  | .load true => if size = 1 then ((v.setWidth 8).signExtend 32).setWidth 128
    else if size = 2 then ((v.setWidth 16).signExtend 32).setWidth 128 else v
  | _ => v

/-- Word `i` of a value. -/
def wordAt (v : BitVec 128) (i : Nat) : Word := v.extractLsb' (32 * i) 32

/-- One lane's value written to `n` vector registers from `r`. -/
def writeVec (v : Tab Word) (r n l : Nat) (x : BitVec 128) : Tab Word :=
  (List.range n).foldl (fun v i => Tab.set 0 v (96 * (r + i) + l) (wordAt x i)) v

/-- The bits of the exited lanes in `k0` to `k2`, which stay 0 (R25). -/
def exitedWord (exited : LaneMask) (n : Nat) : Word := if 61 ≤ n then exited.extractLsb' (32 * (n - 61)) 32 else 0

/-- A scalar register written, subject to R25. -/
def Grp.setS (g : Grp) (n : Nat) (v : Word) : Grp :=
  { g with s := Tab.set 0 g.s n (v &&& ~~~ exitedWord g.exited n) }

/-- Consecutive scalars written. -/
def Grp.setSs (g : Grp) (n : Nat) : List Word → Grp
  | [] => g
  | v :: t => (g.setS n v).setSs (n + 1) t

/-- The answer of an operation, as the value its lane got. -/
def MemOp.value (o : MemOp) (a : LaneAcc) : BitVec 128 :=
  match o.kind with
  | .ldt => a.gotTag.setWidth 128
  | k => extendLoad k o.size a.got

/-- A group's registers with an operation's answer (R139). -/
def Grp.answer (g : Grp) (o : MemOp) : Grp :=
  let lanes := o.parts.flatMap fun p => p.lanes
  match o.dst with
  | .none => g
  | .vec r n => { g with v := lanes.foldl (fun v a => writeVec v r n a.lane (o.value a)) g.v }
  | .scal r n => match lanes with
    | [] => g
    | a :: _ => g.setSs r ((List.range n).map (wordAt (o.value a)))

/-- A courier's scalars with an answer. -/
def Courier.answer (c : Courier) (o : MemOp) : Courier :=
  match o.dst, o.parts.flatMap fun p => p.lanes with
  | .scal r n, a :: _ => { c with s := (List.range n).foldl (fun t i => Tab.set 0 t (r + i) (wordAt (o.value a) i)) c.s }
  | _, _ => c

/-- An in-flight counter moved by a function. -/
def Grp.modIfc (g : Grp) (i : Nat) (f : Nat → Nat) : Grp :=
  match i with
  | 0 => { g with ifc0 := f g.ifc0 }
  | 1 => { g with ifc1 := f g.ifc1 }
  | 2 => { g with ifc2 := f g.ifc2 }
  | _ => { g with ifc3 := f g.ifc3 }

def Grp.ifc (g : Grp) (i : Nat) : Nat :=
  match i with
  | 0 => g.ifc0
  | 1 => g.ifc1
  | 2 => g.ifc2
  | _ => g.ifc3

/-- A counter of the operation's group lowered by one. -/
def State.lower (s : State) (w : Who) (i : Nat) : State :=
  match w with
  | .grp t k => s.modGrp t k fun g => g.modIfc i (· - 1)
  | .courier _ => s

/-- A load's value reaches its destination and IFC0 falls (R161). -/
def State.reply (s : State) (id : Nat) : State :=
  match Tab.find s.ops id with
  | none => s
  | some o =>
    let s := match o.who with
      | .grp t k => s.modGrp t k fun g => g.answer o
      | .courier c => s.modCore c fun k => { k with courier := k.courier.map fun (y : Courier) => y.answer o }
    let s := if o.ifc = some 0 then s.lower o.who 0 else s
    let o := { o with replied := true }
    if o.over then { s with ops := Tab.del s.ops id } else s.setOp id o

/-- A write whose completion time has passed leaves, and IFC3 falls (R161). -/
def State.finishWrite (s : State) (id : Nat) : State :=
  match Tab.find s.ops id with
  | none => s
  | some o =>
    let s := if o.ifc = some 3 then s.lower o.who 3 else s
    { s with ops := Tab.del s.ops id }

/-- A lane share put into its place in ascending order of lanes. -/
def insertLane (a : LaneAcc) : List LaneAcc → List LaneAcc
  | [] => [a]
  | b :: t => if a.lane ≤ b.lane then a :: b :: t else b :: insertLane a t

/-- Lanes of an operation in ascending order. -/
def MemOp.lanesUp (o : MemOp) : List LaneAcc := (o.parts.flatMap fun p => p.lanes).foldr insertLane []

/-- Bytes and tags of a lane copy into the stash, lanes ascending: each sector keeps the tag of its highest lane (R146). -/
def State.landCopy (s : State) (w : Who) : List LaneAcc → State
  | [] => s
  | a :: t =>
    let l := unpackStash a.aux
    (((s.staleBy w l 16).locPut l (leBytes 16 a.got.toNat)).locPutTag l a.gotTag).landCopy w t

/-- A lane copy completes: bytes written, IFC1 lowered, and the named barrier credited (R146). -/
def State.finishCopy (s : State) (id : Nat) : State :=
  match Tab.find s.ops id with
  | none => s
  | some o =>
    let s := if o.kind = .cpaIn then s.landCopy o.who o.lanesUp else s
    let s := s.lower o.who 1
    let s := match o.bar with
      | some (t, off, gen) => { s with credits := s.credits ++ [Credit.mk t off gen (16 * o.lanesUp.length)] }
      | none => s
    { s with ops := Tab.del s.ops id }

/-- The agent is a group of a team. -/
def Who.ofTeam (t : Nat) : Who → Bool
  | .grp u _ => u = t
  | .courier _ => false

end Sys2Proof.Machine
end

