-- ==== Sys2Proof/Machine/Work.lean ====
section
/-! DEFINITION. Work on the device: kernel objects, the child area and its grids, multicast withdrawal, the pair-fault ring
and lanes that retire, window write-back, residency, and the end of a team by exit or kill. -/

namespace Sys2Proof.Machine

/-! ## Launches -/

def State.launch (s : State) (c lid : Nat) : Option Launch := s.launches.find? fun l => l.ctx = c && l.lid = lid

def State.modLaunch (s : State) (c lid : Nat) (f : Launch → Launch) : State :=
  { s with launches := s.launches.map fun l => if l.ctx = c && l.lid = lid then f l else l }

def State.pairLaunch (s : State) (c lid : Nat) : Option PairLaunch := s.pairLaunches.find? fun l => l.ctx = c && l.lid = lid

def State.modPairLaunch (s : State) (c lid : Nat) (f : PairLaunch → PairLaunch) : State :=
  { s with pairLaunches := s.pairLaunches.map fun l => if l.ctx = c && l.lid = lid then f l else l }

/-- Teams of a launch; a dimension of 0 stands for 2^32 (R23, R276). -/
def dim (n : Nat) : Nat := if n = 0 then 2 ^ 32 else n

def Launch.total (l : Launch) : Nat := dim l.gx * dim l.gy * dim l.gz

/-! ## Kernel objects (R271) -/

/-- A kernel object's fields from its 64 bytes, where each keeps Table 11-1. -/
def parseKObj (b : List Byte) : Option KObj :=
  let f := field b
  let k : KObj := { entry := BitVec.ofNat 64 (f 0 8), dict := BitVec.ofNat 64 (f 8 8), regs := f 16 1, teamg := f 17 1, cx := f 18 1,
                    cy := f 19 1, stash := f 20 4, mode := f 24 1, prio := f 25 1, hbind := f 26 1 % 2 = 1 }
  if f 0 8 % 4 = 0 && decide (f 0 8 < 2 ^ 60) && f 8 8 % 4096 = 0 && 8 ≤ k.regs && k.regs ≤ 96 && k.regs % 8 = 0 &&
      1 ≤ k.teamg && k.teamg ≤ 16 && 1 ≤ k.cx && k.cx ≤ 3 && 1 ≤ k.cy && k.cy ≤ 4 && k.stash ≤ 393216 && k.stash % 1024 = 0 &&
      k.mode ≤ 2 && k.prio ≤ 7 && f 26 1 ≤ 1 && (b.drop 27).all (· = 0)
  then some k else none

/-- The 64 bytes of a kernel object. -/
def KObj.bytes (k : KObj) : List Byte :=
  leBytes 8 k.entry.toNat ++ leBytes 8 k.dict.toNat ++ leBytes 1 k.regs ++ leBytes 1 k.teamg ++ leBytes 1 k.cx ++ leBytes 1 k.cy ++
  leBytes 4 k.stash ++ leBytes 1 k.mode ++ leBytes 1 k.prio ++ leBytes 1 k.hbind.toNat ++ zeros 37

/-- Checks 1 and 2 of R277: the object at an address, or the reason. -/
def State.readKObj (s : State) (c addr : Nat) : Except Nat KObj :=
  if addr % 64 ≠ 0 then .error 1
  else match s.readClean ioCore c addr 64 with
    | .error _ => .error 1
    | .ok b => match parseKObj b with
      | none => .error 2
      | some k => .ok k

/-! ## Engine writes (R255: host and peer memory do not serve) -/

/-- Every page of a range translates for the access to local memory; else the first fault and its address: page by page in ascending order,
each with all its checks (log 58). -/
def State.checkLocalFuel (s : State) (core c : Nat) (k : Acc) : Nat → Nat → Nat → Except (FCode × Nat) Unit
  | 0, _, _ => .ok ()
  | fuel + 1, va, n =>
    if n = 0 then .ok ()
    else if !vaOk va then .error (.address, va)
    else match s.trans core c k va with
      | .error f => .error (f, va)
      | .ok t =>
        if !isLocal t.pa then .error (.address, va)
        else let m := min n (4096 - va % 4096); s.checkLocalFuel core c k fuel (va + m) (n - m)

def State.checkLocal (s : State) (core c : Nat) (k : Acc) (va n : Nat) : Except (FCode × Nat) Unit :=
  s.checkLocalFuel core c k (n / 4096 + 2) va n

/-- A record written to local memory of a context. -/
def State.writeLocal (s : State) (core c va : Nat) (bs : List Byte) (src : Src := .loose) : Except (FCode × Nat) State :=
  match s.checkLocal core c .w va bs.length with
  | .error e => .error e
  | .ok _ => s.writeVA core c va bs src

/-- Bytes of a local range of a context. -/
def State.readLocal (s : State) (core c va n : Nat) : Except (FCode × Nat) (List Byte) :=
  match s.checkLocal core c .r va n with
  | .error e => .error e
  | .ok _ => s.readVA core c va n

/-! ## The child area (R287) -/

/-- Bytes of the child area in whole blocks. -/
def Ctx.childSize (x : Ctx) : Nat := x.childl.toNat / 64 * 64

/-- Place for `n` bytes in one piece: its position and the context with it taken; the tail of the ring that a piece would
pass is skipped. -/
def Ctx.childTake (x : Ctx) (n : Nat) : Option (Nat × Ctx) :=
  let size := x.childSize
  if size = 0 then none
  else
    let pad := if x.childHead % size + n ≤ size then 0 else size - x.childHead % size
    let pos := x.childHead + pad
    if pos + n ≤ x.childTail + size then
      some (pos, { x with childHead := pos + n, childFree := if pad = 0 then x.childFree else x.childFree ++ [(x.childHead, pad)] })
    else none

/-- The tail moved over the places given back. -/
def Ctx.childSettle (x : Ctx) : Nat → Ctx
  | 0 => x
  | fuel + 1 => match x.childFree.find? fun e => e.1 = x.childTail with
    | some e => ({ x with childTail := x.childTail + e.2, childFree := x.childFree.erase e } : Ctx).childSettle fuel
    | none => x

/-- A place given back. -/
def Ctx.childGive (x : Ctx) (pos n : Nat) : Ctx :=
  let x := { x with childFree := x.childFree ++ [(pos, n)] }
  x.childSettle x.childFree.length

/-- The virtual address of a place. -/
def Ctx.childAddr (x : Ctx) (pos : Nat) : Nat := x.child.toNat + pos % x.childSize

/-! ## Open grids (R286 to R288) -/

/-- The launch of a flushed grid with its table's place. -/
def OpenGrid.launch (g : OpenGrid) (serial tpos addr order : Nat) : Launch :=
  { ctx := g.ctx, lid := 2 ^ 31 + serial % 2 ^ 31, kobj := g.kobj, kaddr := g.kaddr, gx := g.children.length, gy := 1, gz := 1,
    order := order, table := BitVec.ofNat 64 addr, tpos := tpos, blocks := g.children.map (·.pos) }

/-- A team is resident or saved. -/
def State.teamLives (s : State) (t : Nat) : Bool := (s.team t).isSome || s.ctxs.any fun e => e.2.saved.any fun v => v.uid = t

/-- A grid must be flushed: it is full, 4,096 ticks have passed since its first child, or a team that contributed has ended (R286). -/
def State.gridDue (s : State) (g : OpenGrid) : Bool :=
  decide (96 ≤ g.children.length) || decide (g.first + 4096 ≤ s.gtime) || g.children.any fun c => !s.teamLives c.team

/-- The children that stay when a grid is flushed: those that arrived in this tick, unless it is full or every one is to go (R286). -/
def State.gridStays (s : State) (g : OpenGrid) (whole : Bool) : List Child :=
  if whole || decide (96 ≤ g.children.length) then [] else g.children.filter fun c => c.tick = s.gtime

/-- Grid `k` of a pod flushed: the table is written and the grid enters the in-flight table; the children that stay form a new grid, the
youngest. None while the child area has no room for the table, or its pages cannot be translated yet. -/
def State.flushGrid (s : State) (pod k : Nat) (whole : Bool := false) : Option State :=
  let gs := Tab.get [] s.grids pod
  match gs[k]? with
  | none => some s
  | some g =>
    let stay := s.gridStays g whole
    let out : OpenGrid := { g with children := g.children.filter fun c => !stay.contains c }
    if out.children.isEmpty then some s
    else
      let x := s.ctx g.ctx
      match x.childTake 768 with
      | none => none
      | some (tpos, y) =>
        let addr := x.childAddr tpos
        if !s.vaTables ioCore g.ctx .w addr 768 then none
        else
          let bs := (out.children.flatMap fun c => leBytes 8 (x.childAddr c.pos)) ++ zeros (768 - 8 * out.children.length)
          let s := match s.writeVA ioCore g.ctx addr bs (.child g.ctx) with
            | .ok s => s
            | .error _ => s
          let s := s.modCtx g.ctx fun z => { z with childHead := y.childHead, childFree := y.childFree, childSerial := z.childSerial + 1 }
          let rest := if stay.isEmpty then [] else [({ g with children := stay, first := s.gtime } : OpenGrid)]
          some { s with launches := s.launches ++ [out.launch x.childSerial tpos addr s.order], order := s.order + 1
                        grids := Tab.set [] s.grids pod (gs.eraseIdx k ++ rest) }

/-- Every grid that satisfies a test flushed, as far as there is room; one that must be flushed and finds none stays due. -/
def State.flushWhere (s : State) (p : OpenGrid → Bool) (whole : Bool := false) : State :=
  s.grids.foldl (fun s (pod, gs) =>
    ((List.range gs.length).reverse).foldl (fun s k => match gs[k]? with
      | some g => if p g then (s.flushGrid pod k whole).getD s else s
      | none => s) s) s

/-! ## Multicast membership (R177) -/

/-- A member leaves an entry: its pending requests are lowered and its deliveries dropped; an entry without members goes. -/
def State.mcWithdraw (s : State) (key rank : Nat) : State :=
  match Tab.find s.mcast key with
  | none => s
  | some e => match Tab.find e.members rank with
    | none => s
    | some m =>
      let s := m.reqs.foldl (fun s q => s.modGrp m.team q.2 fun g => { g with ifc2 := g.ifc2 - 1 }) s
      let members := Tab.del e.members rank
      let seqs := (e.seqs.map fun q => { q with due := q.due.filter (· ≠ rank), asked := q.asked.filter (· ≠ rank) }).filter
        fun q => !(q.delivering && q.due.isEmpty)
      { s with mcast := if members.isEmpty then Tab.del s.mcast key else Tab.put s.mcast key { e with members := members, seqs := seqs } }

/-- A team leaves every entry it belongs to. -/
def State.mcLeaveAll (s : State) (t : Nat) : State :=
  s.mcast.foldl (fun s (key, e) => match e.members.find? fun m => m.2.team = t with
    | some (r, _) => s.mcWithdraw key r
    | none => s) s

/-! ## Pair descriptors and the pair-fault ring (R296, R308, R309) -/

/-- Little-endian field of a pair descriptor. -/
def PairLaunch.f (p : PairLaunch) (off n : Nat) : Nat := field p.desc off n

/-- HALT of a pair launch; DEFER otherwise (Table 12-1). -/
def PairLaunch.halt (p : PairLaunch) : Bool := bitOf (p.f 49 1) 3

/-- Address of the position of record `i` of set A or B. -/
def PairLaunch.posAddr (p : PairLaunch) (setB : Bool) (i : Nat) : Nat :=
  let o := if setB then 24 else 0
  p.f o 8 + i * p.f (o + 12) 4 + p.f (o + 16) 4

/-- The core whose stash owns the line of a record's position (R308). -/
def State.recordOwner (s : State) (p : PairLaunch) (setB : Bool) (i : Nat) : Nat :=
  if i = 2 ^ 32 - 1 then 2 ^ 32 - 1
  else match s.trans ioCore p.ctx .r (p.posAddr setB i) with
    | .error _ => 2 ^ 32 - 1
    | .ok t => match s.ownerOf (lineOf t.pa) with
      | some o => match s.team o.team with
        | some T => T.core
        | none => 2 ^ 32 - 1
      | none => 2 ^ 32 - 1

/-- What a pair-fault entry reports (Table 12-3). `flags` is byte 5. -/
structure PairFault where
  code : Nat
  flags : Nat
  chan : Nat := 0
  cls : Nat := 0
  i : Nat := 0xFFFFFFFF
  j : Nat := 0xFFFFFFFF
  core : Nat := 0xFFFFFFFF
  pc : Nat := 0
  info : Nat := 0
  deriving DecidableEq, Repr

/-- The entry's 64 bytes. -/
def PairFault.bytes (e : PairFault) (lid owni ownj now serial : Nat) : List Byte :=
  leBytes 4 lid ++ leBytes 1 e.code ++ leBytes 1 e.flags ++ leBytes 1 e.chan ++ leBytes 1 e.cls ++ leBytes 4 e.i ++ leBytes 4 e.j ++
  leBytes 4 e.core ++ leBytes 4 owni ++ leBytes 4 ownj ++ zeros 4 ++ leBytes 8 e.pc ++ leBytes 8 e.info ++ leBytes 8 now ++ leBytes 8 serial

/-- A physical address lies in the part of a launch's fault ring that overlaps the ring of another launch in flight beside it. -/
def State.ringShared (s : State) (c lid pa : Nat) : Bool :=
  (s.pairLaunch c lid).any fun p => p.shared.any fun e => decide (e.1 ≤ pa) && decide (pa < e.1 + e.2)

/-- Bytes at a physical address, free values where rings overlap (R309, R5). -/
def State.ringBytes (s0 : State) (c lid : Nat) : Nat → List Byte → State → List Byte × State
  | _, [], s => ([], s)
  | a, b :: bs, s =>
    let (b, s) := if s0.ringShared c lid a then ((s.free).1.setWidth 8, (s.free).2) else (b, s)
    let (bs, s) := s0.ringBytes c lid (a + 1) bs s
    (b :: bs, s)

/-- One entry written to a launch's ring, or counted in LOST. -/
def State.pairFault (s : State) (c lid : Nat) (e : PairFault) : State :=
  match s.pairLaunch c lid with
  | none => s
  | some p =>
    let cap := p.f 168 4 / 64
    let lose := fun (s : State) => s.modPairLaunch c lid fun p => { p with lost := p.lost + 1, nextFault := p.nextFault + 1 }
    if cap < p.nextFault then lose s
    else
      let bs := e.bytes lid (s.recordOwner p false e.i) (s.recordOwner p true e.j) s.gtime p.nextFault
      let a := p.f 160 8 + 64 * ((p.nextFault - 1) % cap)
      let (bs, s) := match s.trans ioCore c .w a with
        | .ok t => s.ringBytes c lid t.pa bs s
        | .error _ => (bs, s)
      match s.writeLocal ioCore c a bs (.pairs c lid) with
      | .error _ => lose s
      | .ok s => s.modPairLaunch c lid fun p => { p with faults := p.faults + 1, nextFault := p.nextFault + 1 }

/-! ## Pair additions (R199, R200, R307) -/

/-- The part that stands for an addition is performed, with its write-completion time. -/
def State.addDone (s : State) (a : PairAdd) (wct : Nat) : State :=
  let s := s.modPairLaunch a.ctx a.lid fun p => { p with wct := max p.wct (wct + 2) }
  match Tab.find s.ops a.mop with
  | none => s
  | some o => match o.parts[a.part]? with
    | none => s
    | some p => s.setOp a.mop (o.setPart a.part { p with st := .done wct })

/-- A trouble of an addition, reported to its launch's ring. -/
def State.addFault (s : State) (a : PairAdd) (f : FCode) (flags : Nat) (info : Nat) : State :=
  s.pairFault a.ctx a.lid { code := f.code, flags := flags + 1, chan := a.chan, cls := a.cls.toNat, i := a.i.toNat, j := a.j.toNat, core := a.core,
                            pc := a.pc.toNat, info := info }

/-- Where the piece of what a launch reads that holds an offset lies. -/
def PairLaunch.placeOf (p : PairLaunch) (k : PKind) (off : Nat) : Option Nat :=
  p.pages.findSome? fun e => if e.kind = k && decide (e.off ≤ off) && decide (off < e.off + e.len) then some (e.pa + (off - e.off)) else none

/-- The entries that the exclusion header of A record `i` names: the first and their number (R301). -/
def State.rowOf (s : State) (p : PairLaunch) (i : Nat) : Nat × Nat :=
  match p.placeOf .excl (8 * i) with
  | some a => let h := leNat (s.cohRead a 8); (h % 2 ^ 32, h / 2 ^ 32)
  | none => (0, 0)

/-- What was written bears on the exclusion of A record `i`. -/
def Race.onRow (s : State) (p : PairLaunch) (i : Nat) : Race → Bool
  | .rows lo hi => decide (lo ≤ i) && decide (i ≤ hi)
  | .ents lo hi => let r := s.rowOf p i; decide (r.1 ≤ hi) && decide (lo < r.1 + r.2)
  | .scratch => true
  | _ => false

/-- What was written bears on the contributions of a pair (R304). -/
def Race.onPair (s : State) (p : PairLaunch) (i j : Nat) : Race → Bool
  | .recA lo hi => decide (lo ≤ i) && decide (i ≤ hi)
  | .recB lo hi => decide (lo ≤ j) && decide (j ≤ hi)
  | r => r.onRow s p i

/-- What of a launch was written while it was in flight. -/
def State.racesOf (s : State) (c lid : Nat) : List Race := (s.raced.filter fun e => e.1 = c && e.2.1 = lid).map fun e => e.2.2

/-- The contributions of a pair are undefined (R198, R304, R333). -/
def State.pairRaced (s : State) (p : PairLaunch) (i j : Nat) : Bool := (s.racesOf p.ctx p.lid).any (Race.onPair s p i j)

/-- The scratch area was written: what the launch accepts is undefined (R333). -/
def State.scratched (s : State) (p : PairLaunch) : Bool := (s.racesOf p.ctx p.lid).contains .scratch

/-- An accumulator with a contribution added (Table 07-4), and whether it saturates; none is a NaN or an infinity. -/
def accAdd (v : Nat) (q : Option Int) : Nat × Bool :=
  let val : Nat := v % 2 ^ 96
  let x : Int := if 2 ^ 95 ≤ val then (val : Int) - 2 ^ 96 else (val : Int)
  let count := v / 2 ^ 96 % 2 ^ 16
  let marks := v / 2 ^ 112 % 4
  match q with
  | none => (v % 2 ^ 112 + (if marks < 2 then marks + 2 else marks) * 2 ^ 112, false)
  | some q =>
    let t := x + q
    let sat := decide (2 ^ 95 ≤ t.natAbs)
    let t := if sat then (if t < 0 then -(2 ^ 95 - 1) else 2 ^ 95 - 1) else t
    let marks := if sat && marks % 2 = 0 then marks + 1 else marks
    ((Int.emod t (2 ^ 96)).toNat + min (count + 1) 0xFFFF * 2 ^ 96 + marks * 2 ^ 112, sat)

/-- An addition performed at its accumulator's home, or reported where the address fails a check (R200, R307). -/
def State.applyAdd (s : State) (a : PairAdd) : State :=
  match s.checkLocal a.core a.ctx .rw a.va.toNat 16 with
  | .error (f, va) => (s.addFault a f 0 va).addDone a (s.dieNow (dieOf a.core))
  | .ok _ => match s.trans a.core a.ctx .rw a.va.toNat with
    | .error f => (s.addFault a f 0 a.va.toNat).addDone a (s.dieNow (dieOf a.core))
    | .ok t =>
      if s.poisonedAt t.pa then (s.addFault a .uncorrectable 0 a.va.toNat).addDone a (s.dieNow (dieOf a.core)) else
      let (v, sat) := accAdd (leNat (s.cohRead t.pa 16)) a.q
      let s := match (Tab.find s.ops a.mop).map MemOp.who with
        | some (.grp u _) => s.staleHome u t.pa 16
        | _ => s
      let wct := s.wctFor (lineOf t.pa) (dieOf a.core)
      let s := (s.hbmRead t.pa (dieOf a.core)).modPairLaunch a.ctx a.lid fun p =>
        if a.loose then p else { p with sums := (a.va.toNat, a.i.toNat, a.j.toNat) :: p.sums.filter (· ≠ (a.va.toNat, a.i.toNat, a.j.toNat)) }
      let s := (s.cohWriteLine t.pa (leBytes 16 v)).addDone a wct
      if a.q.isNone then s.addFault a .fpTrap 2 0 else if sat then s.addFault a .pairOverflow 4 0 else s

/-! ## Lanes leave (R25, R39, R106, R306) -/

def lanesOf (m : LaneMask) : List Nat := (List.range 96).filter fun l => m.getLsbD l

def laneBit (l : Nat) : LaneMask := BitVec.ofNat 96 (2 ^ l)

/-- The four bits of a quad in a lane mask. -/
def quadBits (m : LaneMask) (q : Nat) : BitVec 4 := m.extractLsb' (4 * q) 4

/-- Paths without some lanes; a path left empty goes. -/
def dropPaths (m : BitVec 4) (ps : List Path) : List Path :=
  (ps.map fun p => { p with mask := p.mask &&& ~~~m }).filter fun p => p.mask ≠ 0

/-- Lanes of a quad that lie on its path or in deferral or park entries. -/
def Quad.placed (q : Quad) : BitVec 4 :=
  (q.defer ++ q.park).foldl (fun m p => m ||| p.mask) (match q.path with | some p => p.mask | none => 0)

/-- A quad whose path is empty takes the top of its deferral stack (R106). -/
def Quad.popDefer (q : Quad) : Quad :=
  match q.path with
  | some p => if p.mask = 0 then { q with path := q.defer.head?, defer := q.defer.tail } else q
  | none => q

/-- Orphaned waiting lanes: while every lane that has not exited waits in return entries, the top entry is popped (R104). -/
def Quad.unorphan (x : Quad) : Nat → Quad
  | 0 => x
  | fuel + 1 =>
    match x.path, x.ret with
    | none, r :: rest =>
      if x.placed ≠ 0 then x
      else if r.mask = 0 then ({ x with ret := rest } : Quad).unorphan fuel
      else { x with path := some r, ret := rest, age := 0 }
    | _, _ => x

/-- Orphans of a quad resume, if any lane waits. -/
def Quad.settle (x : Quad) : Quad := if x.ret.any fun r => r.mask ≠ 0 then x.unorphan 16 else x

/-- Lanes of one quad leave it for good, wherever they lie. -/
def Quad.leave (q : Quad) (m : BitVec 4) : Quad :=
  ({ q with path := q.path.map fun p => { p with mask := p.mask &&& ~~~m }
            defer := dropPaths m q.defer, park := dropPaths m q.park
            ret := q.ret.map fun p => { p with mask := p.mask &&& ~~~m } } : Quad).popDefer.settle

/-- Lanes exit: their enable bits read 0 for good, and they leave their quads. -/
def Grp.exitLanes (g : Grp) (m : LaneMask) : Grp :=
  let ex := g.exited ||| m
  let quads := (List.range 24).foldl (fun t q =>
    if quadBits m q = 0 then t else Tab.modify t q fun x => x.leave (quadBits m q)) g.quads
  let clear := fun (t : Tab Word) n => Tab.set 0 t n (Tab.get 0 t n &&& ~~~ exitedWord ex n)
  { g with exited := ex, quads := quads, s := clear (clear (clear g.s 61) 62) 63 }

/-- Every lane of the group has exited. -/
def Grp.gone (g : Grp) : Bool := g.exited = BitVec.allOnes 96

/-! ## Windows (R148, R149, R381) -/

/-- The line of a DIRTY window line that has no home yet: its address did not translate at the team's restore (R381, R388). -/
def noLine : Nat := 2 ^ 60

/-- One dirty line of a window written back to its home, if its page may be written. -/
def State.writeBack (s : State) (t w i : Nat) : Except (FCode × Nat) State :=
  match s.team t with
  | none => .ok s
  | some T => match Tab.find T.wins w with
    | none => .ok s
    | some W => match Tab.find W.lines i with
      | none => .ok s
      | some l =>
        if !l.dirty then .ok s
        else
          let va := W.base.toNat + 128 * i
          match s.trans T.core T.ctx .w va with
          | .error f => .error (f, va)
          | .ok tr =>
            let off := W.off * 1024 + 128 * i
            let ln := if l.pa = noLine then lineOf tr.pa else l.pa
            let pa := ln * 128
            let tag := fun k => Tab.get 0 T.stags (off / 64 + k)
            let bad := [0, 1].filter fun k => T.spoison.contains (off / 64 + k)
            let clean := s.poison.filter fun x => x ≠ sectorOf pa ∧ x ≠ sectorOf pa + 1
            let s := { s with
              mem := writeBytes s.mem pa (readBytes T.stash off 128)
              tags := Tab.set 0 (Tab.set 0 s.tags (sectorOf pa) (tag 0)) (sectorOf pa + 1) (tag 1)
              poison := clean ++ bad.map (sectorOf pa + ·) }
            let s := s.modLine ln (Line.wrote_ (s.homeNow ln))
            let s := bad.foldl (fun s k => s.hostFault { source := 8, fcode := FCode.uncorrectable.code, addr := pa + 64 * k }) s
            .ok (s.modTeam t fun T => { T with wins := Tab.modify T.wins w fun W =>
              { W with lines := Tab.modify W.lines i fun l => { l with dirty := false } } })

/-- The poisoned sectors of a dirty line that L2 writes back to HBM, which no team owns, go to the host fault ring (R269, R314). -/
def State.reportPoison (s : State) (ln : Nat) : State :=
  if (s.line ln).dirty then
    (s.poison.filter fun x => x / 2 = ln).foldl (fun s x => s.hostFault { source := 8, fcode := FCode.uncorrectable.code, addr := x * 64 }) s
  else s

/-- Lines of a window written back in ascending order; with the first fault, the state so far. -/
def State.writeBackLines (s : State) (t w : Nat) : List Nat → Except (FCode × Nat × State) State
  | [] => .ok s
  | i :: is => match s.writeBack t w i with
    | .error (f, a) => .error (f, a, s)
    | .ok s => s.writeBackLines t w is

/-- The indexes of a window's lines that are not ABSENT. -/
def State.winLines (s : State) (t w : Nat) : List Nat :=
  match (s.team t).bind fun T => Tab.find T.wins w with
  | some W => W.lines.map Prod.fst
  | none => []

/-- A window's dirty lines written back. -/
def State.flushWin (s : State) (t w : Nat) : Except (FCode × Nat × State) State := s.writeBackLines t w (s.winLines t w)

/-- A window is gone: its lines are unowned again and any dirty data is discarded. -/
def State.dropWin (s : State) (t w : Nat) : State :=
  match (s.team t).bind fun T => Tab.find T.wins w with
  | none => s
  | some W =>
    let s := W.lines.foldl (fun s e => s.modLine e.2.pa fun l => { l with owner := none }) s
    s.modTeam t fun T => { T with wins := Tab.del T.wins w }

/-- A dirty line of a window cannot be written now: its line is held at the home (R265, R34). -/
def State.winHeld (s : State) (t w : Nat) : Bool :=
  match (s.team t).bind fun T => Tab.find T.wins w with
  | none => false
  | some W => W.lines.any fun e => e.2.dirty && s.lineHeld e.2.pa

/-- The dirty lines of every window of a team written back; with the first fault, its window. -/
def State.flushWins (s : State) (t : Nat) : List Nat → Except (FCode × Nat × Nat × State) State
  | [] => .ok s
  | w :: ws => match s.flushWin t w with
    | .error (f, a, s) => .error (f, a, w, s)
    | .ok s => s.flushWins t ws

def State.winsOf (s : State) (t : Nat) : List Nat :=
  match s.team t with
  | some T => T.wins.map Prod.fst
  | none => []

/-! ## Residency (R241, R335, R341) -/

/-- Groups of a core that have not exited, as HSTAT counts them (Table 09-9). -/
def State.liveOn (s : State) (c : Nat) : Nat :=
  s.teams.foldl (fun n (_, T) => if T.core = c then n + (T.groups.filter fun e => e.2.run ≠ .ended).length else n) 0

/-- Group places of a core that are taken: a team keeps those of its groups while it is resident. -/
def State.groupsOn (s : State) (c : Nat) : Nat :=
  s.teams.foldl (fun n (_, T) => if T.core = c then n + T.groups.length else n) 0

/-- The sum of the scores of a core's groups (R294). -/
def State.scoreSum (s : State) (core : Nat) : Nat :=
  s.teams.foldl (fun n (_, T) => if T.core = core then T.groups.foldl (fun n e => n + e.2.score) n else n) 0

/-- An engaged throttle disengages where the sum of the scores has fallen below half its threshold (R294). -/
def State.throttleEase (s : State) (core : Nat) : State :=
  if (s.core core).thr && decide (2 * s.scoreSum core < (s.core core).threshold) then
    s.modCore core fun k => { k with thr := false, nmem := 16, admitted := [] }
  else s

/-- Dictionary places of a core that a resident team still uses. -/
def State.pruneDicts (s : State) (c : Nat) : State :=
  s.modCore c fun k => { k with dicts := k.dicts.filter fun d => s.teams.any fun (_, T) => T.core = c && T.ctx = d.ctx && T.kobj.dict = d.addr }

/-- The context has a team or a courier on some core. -/
def State.onSomeCore (s : State) (x : Nat) : Bool := s.cores.any fun (_, k) => k.ctx = some x

/-- A context becomes resident on a core (R341, Table 09-11). The copy of GTIME of the core's die then shows the source's time, so that no group
reads an earlier time or CTIME than before on another die (R340, log 60). -/
def State.enterCore (s : State) (core x : Nat) : State :=
  let s := { s with lags := Tab.set 0 s.lags (dieOf core) 0 }
  let s := if (s.core core).ctx = some x then s else s.modCore core fun k => { k with ctx := some x, since := s.gtime }
  if (s.ctx x).resident then s
  else s.modCtx x fun y => { y with resident := true, gap := y.gap + (s.gtime - y.left) }

/-- A core that no team and no courier occupies gives up its context; a context on no core ends its residency. -/
def State.leaveCore (s : State) (core : Nat) : State :=
  match (s.core core).ctx with
  | none => s
  | some x =>
    if (s.core core).slots.isEmpty && (s.core core).courier.isNone then
      let s := s.modCore core fun k => { k with ctx := none, pre := false }
      if s.onSomeCore x then s else s.modCtx x fun y => { y with resident := false, left := s.gtime }
    else s

/-- A STASHID in use on a die. -/
def State.idHeld (s : State) (die : Nat) (v : BitVec 16) : Bool :=
  s.teams.any fun (_, T) => dieOf T.core = die && T.stashid = v

/-- A copy has a stash operand that names an identifier. -/
def Copy.names (p : Copy) (v : BitVec 16) : Bool :=
  (bitOf (field p.desc 60 2) 0 && field p.desc 6 2 = v.toNat) || (bitOf (field p.desc 60 2) 1 && field p.desc 14 2 = v.toNat)

/-- Every courier, resident or saved. -/
def State.allCouriers (s : State) : List Courier :=
  (s.cores.filterMap fun e => e.2.courier) ++ s.ctxs.flatMap fun e => e.2.savedCouriers

/-- A matrix operation reads a stash that it has not read yet. -/
def MatOp.readsStash (o : MatOp) (t : Nat) : Bool :=
  o.st = .issued && ((o.asrc && o.alocs.any fun l => l / 2 ^ 20 = t) || (o.bsrc && o.blocs.any fun l => l / 2 ^ 20 = t))

/-- An access, or a lane copy by the stash place beside it, touches the stash of a team. -/
def MemOp.inStash (o : MemOp) (t : Nat) : Bool :=
  o.parts.any fun p => !p.st.isDone && (p.place = .stash t || ((o.kind = .cpaIn || o.kind = .cpaOut) && p.lanes.any fun a => a.aux / 2 ^ 20 = t))

/-- The couriers on the cores of a die. -/
def State.couriersOn (s : State) (die : Nat) : List Courier := s.cores.filterMap fun e => if dieOf e.1 = die then e.2.courier else none

/-- The identifier of a team that ends or is saved, with the work bound to it (R234). -/
def State.quarantined (s : State) (t : Nat) (die : Nat) (v : BitVec 16) : Quarantine :=
  { id := v
    ops := (s.ops.filter fun e => e.2.inStash t).map Prod.fst
    copies := (s.couriersOn die).flatMap fun y => (y.copies.filter fun p => !p.finished && p.names v).map fun p => (y.ctx, y.num, p.serial)
    mops := s.teams.flatMap fun (u, T) => T.groups.flatMap fun (k, g) => (g.mops.filter fun o => o.readsStash t).map fun o => (u, k, o.batch, o.idx) }

/-- The identifier of a team goes into quarantine on its die. -/
def State.quarantineId (s : State) (t : Nat) (T : Team) : State :=
  if T.stashid = 0 then s
  else { s with quarantine := Tab.set [] s.quarantine (dieOf T.core) (s.quarantined t (dieOf T.core) T.stashid :: Tab.get [] s.quarantine (dieOf T.core)) }

/-- Work that was bound to a freed STASHID is still under way. -/
def State.bound (s : State) (q : Quarantine) : Bool :=
  (s.ops.any fun e => q.ops.contains e.1 && e.2.parts.any fun p => !p.st.isDone) ||
  (s.allCouriers.any fun y => y.copies.any fun p => !p.finished && q.copies.contains (y.ctx, y.num, p.serial)) ||
  s.teams.any fun (u, T) => T.groups.any fun (k, g) => g.mops.any fun o => o.st = .issued && q.mops.contains (u, k, o.batch, o.idx)

/-- A STASHID is quarantined on a die (R234). -/
def State.idBound (s : State) (die : Nat) (v : BitVec 16) : Bool := (Tab.get [] s.quarantine die).any fun q => q.id = v && s.bound q

/-- The next free STASHID of a die (R234). -/
def State.nextId (s : State) (die : Nat) (v : BitVec 16) : Nat → BitVec 16
  | 0 => v
  | fuel + 1 =>
    let v := v + 1
    if v = 0 || s.idHeld die v || s.idBound die v then s.nextId die v fuel else v

/-- A STASHID for a team on a core, or 0 without a stash. -/
def State.takeId (s : State) (core stash : Nat) : BitVec 16 × State :=
  if stash = 0 then (0, s)
  else
    let die := dieOf core
    let v := s.nextId die (Tab.get 0 s.stashSerial die) 65536
    (v, { s with stashSerial := Tab.set 0 s.stashSerial die v
                 quarantine := Tab.set [] s.quarantine die ((Tab.get [] s.quarantine die).filter fun q => q.id ≠ v) })

/-! ## The end of a team (R380, Table 16-6) -/

/-- Pins of operations released (R197). -/
def State.unpin (s : State) (lines : List Nat) : State :=
  lines.foldl (fun s ln => s.modLine ln Line.unpinned) s

/-- The batches and operations of a group discarded, their pins released. -/
def State.dropBatches (s : State) (t k : Nat) : State :=
  match s.grp t k with
  | none => s
  | some g => (s.unpin (g.mops.flatMap (·.pins))).modGrp t k fun g => { g with mops := [], closed := [], defer := none, bops := 0 }

/-- Dirty lines written back at a kill: a fault goes to the host fault ring and the rest is discarded (R381). -/
def State.killWins (s : State) (t : Nat) : State :=
  match s.team t with
  | none => s
  | some T =>
    let s := if T.exiting then s else match s.flushWins t (s.winsOf t) with
      | .ok s => s
      | .error (f, a, w, s) => s.hostFault { source := 1, fcode := f.code, ctx := T.ctx, core := T.core, who := (match T.groups with | (_, g) :: _ => g.id.teamn.toNat | [] => 0), lid := T.lid, aux := 2 ^ 31 + w, addr := a }
    (s.winsOf t).foldl (fun s w => s.dropWin t w) s

/-- What the end of a team does to its launch (R280) or pair launch (R310). -/
def State.account (s : State) (T : Team) (killed : Bool) : State :=
  match T.kind with
  | .team =>
    let n := match T.groups with | (_, g) :: _ => g.id.teamn.toNat | [] => 0
    let x := s.ctx T.ctx
    let s := match s.launch T.ctx T.lid with
      | some l => match l.blocks[n]? with
        | some p => s.modCtx T.ctx fun _ => x.childGive p 64
        | none => s
      | none => s
    s.modLaunch T.ctx T.lid fun l => { l with ended := l.ended + 1, mred := l.mred || (s.core T.core).cfg.getLsbD 1, succs := if T.succ then l.succs - 1 else l.succs, killed := l.killed || killed }
  | .task => s.modLaunch T.ctx T.lid fun l => { l with tasks := l.tasks - 1, killed := l.killed || killed }
  | .pair => s.modPairLaunch T.ctx T.lid fun p => { p with live := p.live - 1, killed := if killed then p.killed + 1 else p.killed }

/-- The handler frames of a team freed. -/
def State.freeFrames (s : State) (T : Team) : State :=
  T.groups.foldl (fun s (_, g) => match g.frame with
    | some a => s.modCtx T.ctx fun x => { x with frames := x.frames.filter (· ≠ a.toNat) }
    | none => s) s

/-- A group that issues no more. -/
def Grp.stopped (g : Grp) : Grp :=
  { g with run := .ended, muster := none, waits := [], halting := none, hints := {}, rep := none, hintPc := none, fences := [], inSlot := false }

/-- A kill begins (R380, Table 16-6 step 1): every group stops. -/
def State.killTeam (s : State) (t : Nat) : State :=
  s.modTeam t fun T => { T with ending := some .kill, groups := T.groups.map fun e => (e.1, e.2.stopped) }

/-- An operation has left nothing to drain: it is answered, and complete where a counter counts it (Table 16-6 step 1). -/
def MemOp.drained (o : MemOp) : Bool := o.ifc.isNone && (!o.returns || o.replied) && o.performed

/-- Nothing that the team's end waits for is in flight, its dirty window lines can be written back (Table 16-6 steps 1 and 3), and no
multicast delivery has reached it in this tick, before which its withdrawal would come (Table 13-9). -/
def State.mayEnd (s : State) (t : Nat) : Bool :=
  (s.ops.all fun (_, o) => !o.who.ofTeam t || o.drained) && !(s.winsOf t).any (s.winHeld t) &&
  s.mcast.all fun (_, e) => e.members.all fun (_, m) => m.team ≠ t || m.lastAt ≠ some s.gtime

/-- The latest write-completion time of the homes of a team's dirty window lines. -/
def State.winsWct (s : State) (t : Nat) : Nat :=
  match s.team t with
  | none => 0
  | some T => T.wins.foldl (fun n e => e.2.lines.foldl (fun n l => if l.2.dirty then max n (s.wctFor l.2.pa (dieOf ioCore)) else n) n) 0

/-- The completion time of an ended team's last writes kept in its launch, whose completion waits for it (R280, R310). -/
def State.keepWct (s : State) (T : Team) (w : Nat) : State :=
  match T.kind with
  | .pair => s.modPairLaunch T.ctx T.lid fun p => { p with wct := max p.wct w }
  | _ => s.modLaunch T.ctx T.lid fun l => { l with wct := max l.wct w }

/-- Steps 2, 3 and 5 to 8 of Table 16-6. Windows have been written back already where the team exits. -/
def State.finishEnd (s : State) (t : Nat) (killed : Bool) : State :=
  match s.team t with
  | none => s
  | some T =>
    let s := (T.groups.map Prod.fst).foldl (fun s k => s.dropBatches t k) s
    let s := s.keepWct T (s.winsWct t)
    let s := s.killWins t
    let s := s.mcLeaveAll t
    let s := s.freeFrames T
    let s := s.account T killed
    let s := { s with
      ops := s.ops.filter fun e => !e.2.who.ofTeam t
      watches := s.watches.filter fun w => !w.who.ofTeam t }
    let s := { s.quarantineId t T with teams := Tab.del s.teams t }
    let s := s.modCore T.core fun k => { k with slots := Tab.del k.slots T.slot }
    let s := s.flushWhere fun g => g.children.any fun c => c.team = t
    ((s.pruneDicts T.core).throttleEase T.core).leaveCore T.core

end Sys2Proof.Machine
end

