-- ==== Sys2Proof/Machine/Ops.lean ====
section
/-! DEFINITION. Issuing a word: which fragment issues (R101), the word checks (R59), the scoreboard and the fences; taking a
fault, halting siblings, entering the handler and returning from it (R372 to R379); stalls, waits and retirement. -/

namespace Sys2Proof.Machine

/-! ## Fragments (R101, R107) -/

/-- The runnable paths of a group: PC and age. -/
def Grp.runnable (g : Grp) : List (DWord × Nat) :=
  g.quads.filterMap fun (_, q) => q.path.map fun p => (p.pc, q.age)

/-- The lowest PC of a list. -/
def lowest : List DWord → Option DWord
  | [] => none
  | a :: t => match lowest t with
    | none => some a
    | some b => some (if a.toNat ≤ b.toNat then a else b)

/-- The choice of R101 among paths: those of age 64 or more first, then the lowest PC. -/
def pickPath (l : List (DWord × Nat)) : Option DWord :=
  let old := l.filter fun e => decide (64 ≤ e.2)
  lowest ((if old.isEmpty then l else old).map Prod.fst)

def Grp.waitsAt (g : Grp) (pc : DWord) : Bool := g.waits.any fun w => w.pc = pc

/-- The PC of the fragment that issues next: pinned by pending hints or a retried wait, else chosen by R101 among the
fragments that do not wait, the fragment that gave way by `yield` last. -/
def Grp.choose (g : Grp) : Option DWord :=
  match g.hintPc with
  | some p => some p
  | none =>
    let live := g.runnable.filter fun e => !g.waitsAt e.1
    match pickPath (live.filter fun e => g.yielded ≠ some e.1) with
    | some p => some p
    | none => match pickPath live with
      | some p => some p
      | none => pickPath g.runnable

/-- The quads whose path stands at a PC. -/
def Grp.quadsAt (g : Grp) (pc : DWord) : List Nat :=
  g.quads.filterMap fun (n, q) => match q.path with
    | some p => if p.pc = pc then some n else none
    | none => none

/-- A quad's four lanes as a lane mask. -/
def quadMask (q : Nat) (m : BitVec 4) : LaneMask := BitVec.ofNat 96 (m.toNat * 2 ^ (4 * q))

/-- The lanes on the paths of the quads listed. -/
def Grp.pathLanes (g : Grp) (fq : List Nat) : LaneMask :=
  fq.foldl (fun m q => match (Tab.find g.quads q).bind Quad.path with
    | some p => m ||| quadMask q p.mask
    | none => m) 0

/-- The enable bits `k0` to `k2` (R24). -/
def Grp.enabled (g : Grp) : LaneMask :=
  ((Tab.get 0 g.s 63) ++ (Tab.get 0 g.s 62) ++ (Tab.get 0 g.s 61) : BitVec 96) &&& ~~~g.exited

/-- A predicate as a lane mask; `p7` is true (R220). -/
def Grp.pred (g : Grp) (n : Nat) : LaneMask := if n = 7 then BitVec.allOnes 96 else Tab.get 0 g.p n

/-! ## The issuing word -/

/-- What a word knows of its issue: who, where, the team and group as they stand, its PC and the next word's, the quads of
its fragment, the lanes on their paths, the enabled and the active ones (R8, R38), its repetition (R42) and stepped fields. -/
structure Iss where
  who : Agent
  t : Nat := 0
  k : Nat := 0
  core : Nat
  ctx : Nat
  T : Team := {}
  g : Grp
  pc : DWord
  next : DWord
  fq : List Nat := []
  paths : LaneMask := 0
  en : LaneMask := 0
  act : LaneMask := 0
  rep : Nat := 0
  last : Bool := true
  d : Nat := 0
  a : Nat := 0
  b : Nat := 0
  form : Form

/-- Steps of a REP payload: d, a, b, each 0 to 3 (Table 03-21). -/
def repStep (p : BitVec 23) (i : Nat) : Nat := p.toNat / 4 ^ (2 - i) % 4

/-- Repetitions of a pending REP hint, 1 without one. -/
def Hints.count (h : Hints) : Nat :=
  match h.rep with
  | some p => p.toNat / 2 ^ 6 % 64 + 1
  | none => 1

/-- The field of an operand stepped for repetition `i`. -/
def Hints.stepped (h : Hints) (field i no : Nat) : Nat :=
  match h.rep with
  | some p => no + i * repStep p field
  | none => no

/-- Hints pending, as bits by kind (HINTST). -/
def Hints.pend (h : Hints) : Nat :=
  h.imm.isSome.toNat + 2 * h.mod.isSome.toNat + 4 * h.rep.isSome.toNat + 8 * h.pref.isSome.toNat + 16 * h.bar.isSome.toNat

def optNo (o : Option Opd) : Nat :=
  match o with
  | some o => o.no
  | none => 127

/-- A value of a vector or scalar operand code in a lane (R40, R52). -/
def Grp.code (g : Grp) (c l : Nat) : Word := if c < 96 then Tab.get 0 g.v (96 * c + l) else Tab.get 0 g.s (c - 96)

/-- The 64-bit value of a register pair in a lane, the even register low. -/
def Grp.pair (g : Grp) (c l : Nat) : DWord := g.code (c + 1) l ++ g.code c l

def Grp.sreg (g : Grp) (n : Nat) : Word := Tab.get 0 g.s n

def Grp.spair (g : Grp) (n : Nat) : DWord := g.sreg (n + 1) ++ g.sreg n

/-- The accessor of the issuing agent's work as `Who`. -/
def Iss.owner (x : Iss) : Who :=
  match x.who with
  | .grp t k => .grp t k
  | .courier c => .courier c

/-- The issuing agent is a courier. -/
def Iss.onCourier (x : Iss) : Bool :=
  match x.who with
  | .courier _ => true
  | .grp _ _ => false

/-- A scalar register of the issuing agent written. -/
def Iss.setS (x : Iss) (s : State) (n : Nat) (v : Word) : State :=
  match x.who with
  | .grp t k => s.modGrp t k fun g => g.setS n v
  | .courier c => s.modCore c fun k => { k with courier := k.courier.map fun (y : Courier) => { y with s := Tab.set 0 y.s n v } }

/-- A 64-bit value written to a pair of scalars. -/
def Iss.setPair (x : Iss) (s : State) (n : Nat) (v : DWord) : State :=
  x.setS (x.setS s n (v.extractLsb' 0 32)) (n + 1) (v.extractLsb' 32 32)

/-- A vector register written in the lanes of a mask. -/
def Grp.setV (g : Grp) (r : Nat) (m : LaneMask) (f : Nat → Word) : Grp :=
  { g with v := (lanesOf m).foldl (fun t l => Tab.set 0 t (96 * r + l) (f l)) g.v }

def Iss.setV (x : Iss) (s : State) (r : Nat) (m : LaneMask) (f : Nat → Word) : State := s.modGrp x.t x.k fun g => g.setV r m f

/-- A predicate written in the lanes of a mask. -/
def Grp.setP (g : Grp) (n : Nat) (m : LaneMask) (v : LaneMask) : Grp :=
  { g with p := Tab.set 0 g.p n ((Tab.get 0 g.p n &&& ~~~m) ||| (v &&& m)) }

/-! ## Faults (R372 to R374, R239, R306) -/

/-- The bits of the quads listed. -/
def fragBits (fq : List Nat) : BitVec 24 := fq.foldl (fun m q => m ||| BitVec.ofNat 24 (2 ^ q)) 0

/-- TEAMN of a team, as its groups hold it. -/
def Team.teamn (T : Team) : Nat := match T.groups with | (_, g) :: _ => g.id.teamn.toNat | [] => 0

/-- A halt is broadcast to the siblings of a group (R372). -/
def Team.halt (T : Team) (k : Nat) : Team :=
  { T with halted := true
           groups := T.groups.map fun (j, g) => (j, if j ≠ k ∧ g.run = .running ∧ g.halting.isNone then { g with halting := some 0 } else g) }

/-- The fault's record in its group: the group stops there, primary where it is the first of its team (R373). -/
def Grp.stop (g : Grp) (code : FCode) (pc : DWord) (faux : Word) (faddr : DWord) (frag : BitVec 24) (first : Bool) : Grp :=
  { g with fcode := BitVec.ofNat 8 code.code, fpc := pc, faux := faux, faddr := faddr, fhalt := false, skid := 0, run := .faulted,
           frag := frag, primary := first, pending := !first, muster := none, waits := [], halting := none, inSlot := false }

/-- A fault of a group, taken: recorded and its team halted where the handler may take it; else reported to the host fault
ring with SOURCE 1, and the kill of the team begins (R374). -/
def State.faultMark (s : State) (t k : Nat) (code : FCode) (pc : DWord) (faux : Word) (faddr : DWord) (frag : BitVec 24) : State :=
  match s.team t with
  | none => s
  | some T => match Tab.find T.groups k with
    | none => s
    | some g =>
      if T.ending.isSome then s else
      let first := !(T.groups.any fun (_, h) => h.primary)
      if T.kobj.hbind && (s.ctx T.ctx).handler ≠ 0 && g.frame.isNone then
        s.modTeam t fun T => ({ T with groups := Tab.put T.groups k (g.stop code pc faux faddr frag first) } : Team).halt k
      else
        let s := s.modGrp t k fun g => g.stop code pc faux faddr frag first
        let s := s.hostFault { source := 1, fcode := code.code, ctx := T.ctx, core := T.core, who := T.teamn, lid := T.lid, aux := faux.toNat, pc := pc.toNat, addr := faddr.toNat }
        s.killTeam t

/-- Lanes of a pair group retire under DEFER, lowest first, each with its entry in the pair-fault ring (R306). -/
def State.retireEach (s : State) (T : Team) (g : Grp) (code : Nat) (pc : DWord) (info : Nat → Nat) : List Nat → State
  | [] => s
  | l :: ls =>
    let p := (g.pairs[l]?).getD (PairLane.mk 0 0 0)
    let e : PairFault := { code := code, flags := 8 + (g.emitted.getLsbD l).toNat, cls := p.cls.toNat, i := p.i.toNat, j := p.j.toNat,
                           core := T.core, pc := pc.toNat, info := info l }
    (s.pairFault T.ctx T.lid e).retireEach T g code pc info ls

def State.retireLanes (s : State) (t k : Nat) (m : LaneMask) (code : Nat) (pc : DWord) (info : Nat → Nat) : State :=
  match s.team t with
  | none => s
  | some T => match Tab.find T.groups k with
    | none => s
    | some g => (s.retireEach T g code pc info (lanesOf m)).modGrp t k fun g => g.exitLanes m

/-- The team is a pair group under DEFER, whose lanes take faults alone (R306). -/
def State.defers (s : State) (T : Team) : Bool :=
  T.kind = .pair && match s.pairLaunch T.ctx T.lid with
    | some p => !p.halt
    | none => false

/-- A wait of a group fails (R171, R191): its lanes retire under DEFER, or the group faults at the waiting word. A group that an
earlier wait of its own has stopped is left as it is (R373). -/
def State.failWait (s : State) (t k : Nat) (pc : DWord) (code : FCode) (faux : Word) (faddr : DWord) : State :=
  match s.team t with
  | none => s
  | some T => match Tab.find T.groups k with
    | none => s
    | some g =>
      if g.run ≠ .running then s
      else if s.defers T then s.retireLanes t k (~~~g.exited) code.code pc fun _ => faddr.toNat
      else s.faultMark t k code pc faux faddr (fragBits (g.quadsAt pc))

/-- Members of a party that wait at the latch for a listed group that ended: their `mma` raises PARTY (R191). -/
def State.abandonParty (s : State) (t k : Nat) : State :=
  match s.team t with
  | none => s
  | some T => T.groups.foldl (fun s (j, g) => match g.muster with
    | some m => if m.op.members.getLsbD k && j ≠ k && g.run = .running then s.failWait t j m.pc .party 2 0 else s
    | none => s) s

/-- A group whose last lane has left: batches discarded, party members released, hamper records handed off (R197, R191,
R211); the exit of the team begins with its last group (R380). -/
def State.endGroup (s : State) (t k : Nat) (pc : DWord) : State :=
  let s := (s.dropBatches t k).modGrp t k Grp.stopped
  let s := s.abandonParty t k
  let s := { s with hamper := s.hamper.map fun (r : HRec) => if r.team = t ∧ r.gint = k ∧ r.loc ≠ HLoc.spill then { r with loc := .home } else r }
  match s.team t with
  | none => s
  | some T => if T.ending.isNone && T.groups.all fun e => e.2.run = Run.ended then s.modTeam t fun T => { T with ending := some (.exit k pc) } else s

/-- Groups that wait at objects of a team's stash: team, GINT and wait. -/
def State.barWaiters (s : State) (u : Nat) (at_ : Nat → Bool) : List (Nat × Nat × Wait) :=
  s.teams.flatMap fun (t, T) => T.groups.flatMap fun (k, g) => (g.waits.filter fun w => w.bar.any fun b => b.1 = u && at_ b.2).map fun w => (t, k, w)

/-- Every group that waits at an object which is destroyed fails its wait (R171, R339). -/
def State.abandonBars (s : State) (u : Nat) (at_ : Nat → Bool) : State :=
  (s.barWaiters u at_).foldl (fun s (t, k, w) => s.failWait t k w.pc .barrierAbandoned 0 (BitVec.ofNat 64 w.latched)) s

/-- A team with nothing in flight goes (Table 16-6): an exit writes its windows back, and a write-back that fails is a fault of the
last group at its last PC (R381). -/
def State.endNow (s : State) (t : Nat) : State :=
  match (s.team t).bind Team.ending with
  | none => s
  | some .kill => (s.finishEnd t true).abandonBars t fun _ => true
  | some (.exit k pc) => match s.flushWins t (s.winsOf t) with
    | .ok s => (s.finishEnd t false).abandonBars t fun _ => true
    | .error (f, a, w, s) =>
      (s.modTeam t fun T => { T with exiting := true, ending := none }).faultMark t k f pc (BitVec.ofNat 32 (2 ^ 31 + w)) (BitVec.ofNat 64 a) 0

/-- Teams that are ending and have drained go, one after another: the end of one may fail waits of others. -/
def State.settleN (s : State) : Nat → State
  | 0 => s
  | n + 1 => match s.teams.find? fun e => e.2.ending.isSome && s.mayEnd e.1 with
    | none => s
    | some (t, _) => (s.endNow t).settleN n

def State.settleEnds (s : State) : State := s.settleN (2 * s.teams.length)

/-- A fault of a group, with what it ends. -/
def State.faultGrp (s : State) (t k : Nat) (code : FCode) (pc : DWord) (faux : Word) (faddr : DWord) (frag : BitVec 24) : State :=
  let s := s.faultMark t k code pc faux faddr frag
  if (s.team t).any fun T => T.ending.isSome then s.settleEnds else s

/-- The group ends if every lane has left, and its team with its last group. -/
def State.endIfGone (s : State) (t k : Nat) (pc : DWord) : State :=
  match s.grp t k with
  | some g => if g.gone && g.run ≠ .ended then (s.endGroup t k pc).settleEnds else s
  | none => s

/-- A team is killed (R380). -/
def State.endTeam (s : State) (t : Nat) : State := (s.killTeam t).settleEnds

/-! ## Retirement and stalls -/

/-- Quads of a fragment move to a PC; the others grow older (R101). -/
def Grp.age (g : Grp) (fq : List Nat) : Grp :=
  { g with quads := g.quads.map fun (n, q) => (n, if fq.contains n then { q with age := 0 } else if q.path.isSome then { q with age := q.age + 1 } else q) }

def Quad.goto (q : Quad) (pc next : DWord) : Quad :=
  match q.path with
  | some p => if p.pc = pc then { q with path := some { p with pc := next } } else q
  | none => q

def Grp.advance (g : Grp) (fq : List Nat) (pc next : DWord) : Grp :=
  { g with quads := g.quads.map fun (n, q) => (n, if fq.contains n then q.goto pc next else q) }

/-- A register that the word has written holds no error any more (R379). -/
def Grp.rewritten (g : Grp) (x : Iss) : Grp :=
  if g.regErrs.isEmpty then g
  else
    let opd : Nat → Option Opd → List Opd := fun no o => (o.map fun (p : Opd) => { p with no := no }).toList.filter Opd.wr
    let opds := opd x.d x.form.d ++ opd x.a x.form.a ++ opd x.b x.form.b ++ x.form.acc.toList.filter Opd.wr
    { g with regErrs := g.regErrs.filter fun e =>
        if e.1 = 0 then !(opds.any fun o => o.vregs.contains e.2)
        else if e.1 = 1 then !(opds.any fun o => o.sregs.contains e.2) else x.form.pd ≠ some e.2 }

/-- A word of a group has completed: ages, skid and waits, and either the next repetition or the hints consumed and the
paths moved on (R61, R101, R230, R372). A word that waited aged the group's quads as its wait began. A REP'd `jmpi` whose first
repetition moved its lanes issues its other repetitions at its own PC all the same, with the quads that then stand there, possibly
none (log 47). `now` is CYC of the core. -/
def Grp.retire (g : Grp) (x : Iss) (adv : Bool) (now : Nat) : Grp :=
  let g := g.rewritten x
  let g := if g.waitsAt x.pc then g else g.age x.fq
  let g := { g with waits := g.waits.filter (·.pc ≠ x.pc), yielded := none, last := now, issues := g.issues + 1, gave := [], denied := none,
                    halting := g.halting.map (· + 1), inSlot := false }
  if x.last then
    let g := { g with hints := {}, rep := none, hintPc := none }
    if adv then g.advance x.fq x.pc x.next else g
  else { g with rep := some (BitVec.ofNat 6 (x.rep + 1)), hintPc := some x.pc }

/-- A word has completed. -/
def State.retire (s : State) (x : Iss) (adv : Bool) : State :=
  match x.who with
  | .grp t k => s.modGrp t k fun g => g.retire x adv (s.core x.core).cyc
  | .courier c => s.modCore c fun k => { k with courier := k.courier.map fun (y : Courier) =>
      { y with cpc := if adv then x.next else y.cpc, wait := none, last := s.gtime } }

/-- A fault raised by the issuing word: a courier stops; lanes of a pair group under DEFER retire, the active ones or else
all of the fragment, and the rest pass the word; any other group faults, and REPST names the repetition of a REP target, 0 for a
fault of its word checks (R239, R306, R374, R65, log 45). `info` is INFO of an entry, FAUX where it is not given. -/
def Iss.raise (x : Iss) (s : State) (code : FCode) (faux : Word := 0) (faddr : DWord := 0) (info : Nat := faux.toNat) : State :=
  match x.who with
  | .courier c => s.faultCourier c code x.pc faux faddr
  | .grp t k =>
    if s.defers x.T then
      let m := if x.act = 0 then x.paths else x.act
      ((s.retireLanes t k m code.code x.pc fun _ => info).retire { x with last := true } true).endIfGone t k x.pc
    else
      let s := s.modGrp t k fun g => { g with rep := if g.hints.rep.isSome && (x.form.accepts 2 || x.rep ≠ 0) then some (BitVec.ofNat 6 x.rep) else none }
      s.faultGrp t k code x.pc faux faddr (fragBits x.fq)

/-- A fault of Table 06-2 met by an access that is made once per issue: FAUX 0, and the address in FADDR or, under DEFER, in INFO
of the active lanes' entries (R138, R306). -/
def Iss.raiseAt (x : Iss) (s : State) (code : FCode) (va : Nat) : State := x.raise s code 0 (BitVec.ofNat 64 va) va

/-- A fault common to the instruction, with the lowest lane that causes it in FAUX; under DEFER it takes every active lane (R306,
Table 12-2). -/
def Iss.common (x : Iss) (s : State) (code : FCode) (bad : List Nat) : Except State Unit :=
  match bad with
  | [] => .ok ()
  | l :: _ => .error (x.raise s code (BitVec.ofNat 32 l))

/-- A fault that under DEFER takes every live lane of the group (Table 12-2): FP_TRAP of R122, TIMER, WATCHDOG. -/
def State.raiseAll (s : State) (t k : Nat) (pc : DWord) (fq : List Nat) (code : FCode) (faux : Word) : State :=
  match s.team t with
  | none => s
  | some T =>
    if s.defers T then
      match Tab.find T.groups k with
      | none => s
      | some g => (s.retireLanes t k (~~~g.exited) code.code pc fun _ => faux.toNat).endIfGone t k pc
    else s.faultGrp t k code pc faux 0 (fragBits fq)

/-- Lanes that fail a check of their own (Table 06-2): the lowest one's fault, or under DEFER each of them retires and the
others go on (R138, R306). The lanes come in ascending order. -/
def Iss.laneFaults (x : Iss) (s : State) (code : FCode) (bad : List (Nat × Nat)) : Except State (Iss × State) :=
  match bad with
  | [] => .ok (x, s)
  | (l, a) :: _ =>
    if s.defers x.T then
      let m := bad.foldl (fun m e => m ||| laneBit e.1) (0 : LaneMask)
      let addr := fun n => match bad.find? fun e => e.1 = n with | some e => e.2 | none => 0
      let s := s.retireLanes x.t x.k m code.code x.pc addr
      match s.grp x.t x.k with
      | none => .error s
      | some g =>
        if g.gone then .error ((s.retire x true).endIfGone x.t x.k x.pc)
        else .ok ({ x with act := x.act &&& ~~~m, en := x.en &&& ~~~m, paths := x.paths &&& ~~~m, g := g }, s)
    else .error (x.raise s code (BitVec.ofNat 32 l) (BitVec.ofNat 64 a))

/-- The flags that trap lane by lane in a group: DZ and NV as a pair launch's descriptor asks (R123), none elsewhere. -/
def Iss.precise (x : Iss) (s : State) : BitVec 5 :=
  match x.T.kind with
  | .pair => match s.pairLaunch x.T.ctx x.T.lid with
    | some p => BitVec.ofNat 5 ((bitOf (p.f 49 1) 5).toNat + 2 * (bitOf (p.f 49 1) 4).toNat)
    | none => 0
  | _ => 0

/-- Flags of lanes merged into GFLAGS, after the lane-precise DZ and NV of a pair group (R120, R121, R123): the lanes that
keep their results. -/
def Iss.flagLanes (x : Iss) (s : State) (f : Nat → BitVec 5) : Except State (Iss × State) :=
  let prec := x.precise s
  let bad := (lanesOf x.act).filter fun l => f l &&& prec ≠ 0
  let merge := fun (x : Iss) (s : State) =>
    let all := (lanesOf x.act).foldl (fun m l => m ||| f l) 0
    s.modGrp x.t x.k fun g => { g with gflags := g.gflags ||| all }
  match bad with
  | [] => .ok (x, merge x s)
  | l :: _ =>
    if s.defers x.T then
      let m := bad.foldl (fun m e => m ||| laneBit e) (0 : LaneMask)
      let s := s.retireLanes x.t x.k m FCode.fpTrap.code x.pc fun n => (f n).toNat
      let x := { x with act := x.act &&& ~~~m, en := x.en &&& ~~~m }
      let s := merge x s
      match s.grp x.t x.k with
      | none => .error s
      | some g => if g.gone then .error ((s.retire x true).endIfGone x.t x.k x.pc) else .ok (x, s)
    else
      let bits := bad.foldl (fun m l => m ||| f l) 0
      .error (x.raise s .fpTrap (BitVec.ofNat 32 (2 ^ 31 + 2 ^ 8 * l + bits.toNat)))

/-- A word that cannot complete yet stays: no pin but that of pending hints (R61). -/
def Grp.hold (g : Grp) : Grp :=
  { g with hintPc := if g.hints = ({} : Hints) ∧ g.rep = none then none else g.hintPc, inSlot := false }

/-- A stall on the scoreboard or a gate. -/
def Iss.hold (x : Iss) (s : State) : State :=
  match x.who with
  | .grp t k => s.modGrp t k Grp.hold
  | .courier _ => s

/-- A ready memory word that an engaged throttle holds back, with the core cycle at which that began (R294). -/
def Iss.denied (x : Iss) (s : State) : State :=
  (x.hold s).modGrp x.t x.k fun g => { g with denied := some (g.denied.getD (s.core x.core).cyc) }

/-- The wait record of the word, where it waits already. -/
def Iss.wait? (x : Iss) (s : State) : Option Wait :=
  match x.who with
  | .grp _ _ => x.g.waits.find? fun w => w.pc = x.pc
  | .courier c => (s.core c).courier.bind Courier.wait

/-- The wait record that the word has or would start now (R343). -/
def Iss.waitNow (x : Iss) (s : State) : Wait := (x.wait? s).getD { pc := x.pc, start := s.ctime x.ctx x.core, next := x.next }

/-- The word waits: its record stands, with CTIME at its start (R343). The issue that begins a wait ages the quads (R101). -/
def Iss.stall (x : Iss) (s : State) (f : Wait → Wait := id) : State :=
  let w := f (x.waitNow s)
  match x.who with
  | .grp t k => s.modGrp t k fun g =>
      let h := if g.waitsAt x.pc then g else g.age x.fq
      ({ h with waits := w :: h.waits.filter (·.pc ≠ x.pc), yielded := none } : Grp).hold
  | .courier c => s.modCore c fun k => { k with courier := k.courier.map fun (y : Courier) => { y with wait := some w } }

/-! ## The handler (R377, R378) -/

/-- Twelve bytes of a lane mask and four zero bytes. -/
def maskBytes (m : LaneMask) : List Byte := leBytes 12 m.toNat ++ zeros 4

/-- The 16 bytes of a stack entry of a quad record. -/
def Path.bytes (p : Path) : List Byte := leBytes 8 p.pc.toNat ++ leBytes 1 p.mask.toNat ++ zeros 7

def pathsBytes (n : Nat) (ps : List Path) : List Byte := (ps.flatMap Path.bytes) ++ zeros (16 * (n - ps.length))

/-- The quad record of Table 16-4. -/
def Quad.bytes (q : Quad) : List Byte :=
  let p := q.path.getD (Path.mk 0 0)
  leBytes 8 p.pc.toNat ++ leBytes 1 p.mask.toNat ++ leBytes 1 q.defer.length ++ leBytes 1 q.park.length ++ leBytes 1 q.ret.length ++
  leBytes 4 q.age ++ pathsBytes 4 q.defer.reverse ++ pathsBytes 4 q.park ++ pathsBytes 16 q.ret.reverse ++ zeros 112

/-- Hint payloads of kinds 0 to 4, 4 bytes each. -/
def Hints.bytes (h : Hints) : List Byte :=
  [h.imm, h.mod, h.rep, h.pref, h.bar].flatMap fun p => leBytes 4 (match p with | some v => v.toNat | none => 0)

/-- REPST (Table 08-14). -/
def Grp.repst (g : Grp) : Nat :=
  match g.rep with
  | some i => 64 + i.toNat
  | none => 0

def Grp.scalarBytes (g : Grp) : List Byte := (List.range 64).flatMap fun n => leBytes 4 (Tab.get 0 g.s n).toNat

def Grp.predBytes (g : Grp) : List Byte := (List.range 7).flatMap fun n => maskBytes (Tab.get 0 g.p n)

def Grp.vecBytes (g : Grp) (n : Nat) : List Byte :=
  (List.range n).flatMap fun r => (List.range 96).flatMap fun l => leBytes 4 (Tab.get 0 g.v (96 * r + l)).toNat

def Grp.quadBytes (g : Grp) : List Byte := (List.range 24).flatMap fun q => (Tab.get {} g.quads q).bytes

/-- The handler frame of Table 16-3. -/
def Grp.frameBytes (g : Grp) : List Byte :=
  g.scalarBytes ++ g.predBytes ++ zeros 16 ++ leBytes 4 g.nmode.toNat ++ leBytes 4 g.gflags.toNat ++ leBytes 4 g.garm.toNat ++
  leBytes 4 g.hints.pend ++ g.hints.bytes ++ leBytes 4 g.repst ++ leBytes 4 g.frag.toNat ++ zeros 84 ++ g.vecBytes 8 ++ zeros 512 ++
  g.quadBytes

/-- The group as the handler starts (R377 step 3): paths at ENTRY of the lanes not exited, or the empty path of quad 0 in
an at-exit handler (R381). -/
def Grp.inHandler (g : Grp) (entry frame : DWord) : Grp :=
  let live := ~~~g.exited
  let quads : Tab Quad := (List.range 24).map fun q =>
    (q, if quadBits live q ≠ 0 ∨ (live = 0 ∧ q = 0) then { path := some { pc := entry, mask := quadBits live q } } else {})
  let sr := Tab.set 0 (Tab.set 0 g.s 0 (frame.extractLsb' 0 32)) 1 (frame.extractLsb' 32 32)
  let sr := Tab.set 0 (Tab.set 0 (Tab.set 0 sr 61 (live.extractLsb' 0 32)) 62 (live.extractLsb' 32 32)) 63 (live.extractLsb' 64 32)
  { g with quads := quads, s := sr, nmode := 0x00124924, gflags := 0, garm := 0, hints := {}, rep := none, hintPc := none, frame := some frame, run := .running, yielded := none }

/-- A hardware fault of the handler machinery: reported, and the team is killed (R376). -/
def State.handlerLost (s : State) (t : Nat) (T : Team) (f : FCode) (addr : Nat) : State :=
  (s.hostFault { source := 1, fcode := f.code, ctx := T.ctx, core := T.core, who := T.teamn, lid := T.lid, addr := addr }).endTeam t

/-- Handler entry of a team's primary group (R377); nothing while no frame is free, or while its lines cannot be written. -/
def State.enterHandler (s : State) (t : Nat) : State :=
  match s.team t with
  | none => s
  | some T => match T.groups.find? fun (_, g) => g.primary && g.run = .faulted with
    | none => s
    | some (k, g) =>
      let x := s.ctx T.ctx
      if !s.vaReady T.core T.ctx .r x.handler.toNat 64 then s
      else match s.readVA T.core T.ctx x.handler.toNat 64 with
      | .error (f, a) => s.handlerLost t T f a
      | .ok b =>
        match (List.range (x.frames.length + 1)).find? fun i => !x.frames.contains (field b 40 8 + 16384 * i) with
        | none => s
        | some i =>
          if field b 20 4 ≤ i then s
          else
            let fr := field b 40 8 + 16384 * i
            match s.writeVA T.core T.ctx fr g.frameBytes with
            | .error (f, a) => s.handlerLost t T f a
            | .ok s' =>
              if s.posted.length < s'.posted.length then s else
              let s := s'.modCtx T.ctx fun x => { x with frames := fr :: x.frames }
              s.modGrp t k fun g => g.inHandler (BitVec.ofNat 64 (field b 0 8)) (BitVec.ofNat 64 fr)

/-- Entries of a quad record read back: `n` of them at an offset, each 16 bytes, with the reserved bytes zero. -/
def readPaths (b : List Byte) (off n : Nat) : List Path :=
  (List.range n).map fun i => Path.mk (BitVec.ofNat 64 (field b (off + 16 * i) 8)) (BitVec.ofNat 4 (field b (off + 16 * i + 8) 1))

/-- The mask bytes and the zero bytes of `n` entries are as Table 16-4 has them. -/
def pathsClean (b : List Byte) (off n : Nat) : Bool := (List.range n).all fun i => decide (field b (off + 16 * i + 8) 8 < 16)

/-- A quad record read back, where it keeps R99 with these lanes not exited and its reserved fields are zero; what lies beyond an
entry count is no part of it. -/
def readQuad (b : List Byte) (live : BitVec 4) : Option Quad :=
  let nd := field b 9 1
  let np := field b 10 1
  let nr := field b 11 1
  let m := BitVec.ofNat 4 (field b 8 1)
  let d := (readPaths b 16 nd).reverse
  let p := readPaths b 80 np
  let r := (readPaths b 144 nr).reverse
  let q : Quad := { path := if m = 0 then none else some (Path.mk (BitVec.ofNat 64 (field b 0 8)) m), defer := d, park := p, ret := r, age := field b 12 4 }
  let masks := m :: (d ++ p ++ r).map Path.mask
  let sum := masks.foldl (fun n x => n + x.toNat) 0
  let all := masks.foldl (fun n x => n ||| x) 0
  if nd ≤ 4 ∧ np ≤ 4 ∧ nr ≤ 16 ∧ field b 8 1 < 16 ∧ pathsClean b 16 nd ∧ pathsClean b 80 np ∧ pathsClean b 144 nr ∧ field b 400 112 = 0 ∧ all = live ∧ sum = live.toNat ∧ (d ++ p).all (fun e => e.mask ≠ 0) ∧ (p.map Path.pc).Nodup then some q else none

/-- The quads of a frame, if every record is good. -/
def readQuads (b : List Byte) (live : LaneMask) : List Nat → Option (Tab Quad)
  | [] => some []
  | q :: qs => match readQuad ((b.drop (512 * q)).take 512) (quadBits live q), readQuads b live qs with
    | some x, some t => some ((q, x) :: t)
    | _, _ => none

/-- A hint payload of a frame, where its bit of HINTST is set. -/
def framePayload (b : List Byte) (k : Nat) : Option (BitVec 23) :=
  if bitOf (field b 0x18C 4) k then some (BitVec.ofNat 23 (field b (0x190 + 4 * k) 4)) else none

/-- The reserved fields of a frame before its quad records are zero (R378 check 2, Table 16-3 and the tables of its registers). -/
def frameClean (b : List Byte) : Bool :=
  ((List.range 7).all fun n => field b (0x10C + 16 * n) 4 = 0) && field b 0x170 16 = 0 && field b 0x180 4 < 2 ^ 21 && field b 0x184 4 < 32 &&
  field b 0x188 4 < 32 && field b 0x18C 4 < 32 && ((List.range 5).all fun k => decide (field b (0x190 + 4 * k) 4 < 2 ^ 23)) && field b 0x1A4 4 < 128 &&
  field b 0x1A8 4 < 2 ^ 24 && field b 0x1AC 84 = 0 && field b 0xE00 512 = 0

/-- The group restored from a frame (R378): every item of Table 16-3 and FPC on the quads that FRAG names; none where the
frame contradicts R99 or R109. The orphan rule of R104 applies to an edited quad. -/
def Grp.fromFrame (g : Grp) (b : List Byte) : Option Grp :=
  match readQuads (b.drop 0x1000) (~~~g.exited) (List.range 24) with
  | none => none
  | some quads =>
    let frag := BitVec.ofNat 24 (field b 0x1A8 4)
    let rep := field b 0x1A4 4
    let sc : Tab Word := (List.range 64).foldl (fun t n => Tab.set 0 t n (BitVec.ofNat 32 (field b (4 * n) 4) &&& ~~~ exitedWord g.exited n)) []
    let pr : Tab LaneMask := (List.range 7).foldl (fun t n => Tab.set 0 t n (BitVec.ofNat 96 (field b (0x100 + 16 * n) 12))) []
    let vec : Tab Word := (List.range 8).foldl (fun t r => (List.range 96).foldl (fun t l =>
      Tab.set 0 t (96 * r + l) (BitVec.ofNat 32 (field b (0x200 + 384 * r + 4 * l) 4))) t) g.v
    let hints : Hints := { imm := framePayload b 0, mod := framePayload b 1, rep := framePayload b 2, pref := framePayload b 3, bar := framePayload b 4 }
    let g' := { g with
      s := sc, p := pr, v := vec, nmode := BitVec.ofNat 32 (field b 0x180 4), gflags := BitVec.ofNat 5 (field b 0x184 4)
      garm := BitVec.ofNat 5 (field b 0x188 4), hints := hints, rep := if bitOf rep 6 then some (BitVec.ofNat 6 rep) else none
      frag := frag, quads := quads }
    if frameClean b then
      let quads := quads.map fun (n, q) => (n, (if frag.getLsbD n then { q with path := q.path.map fun p => { p with pc := g.fpc } } else q).settle)
      some { g' with quads := quads, hintPc := if hints = ({} : Hints) then none else some g.fpc, frame := none, primary := false, run := .running }
    else none

/-- After a handler: the pending group of lowest GINT becomes primary, or every group resumes (R378 step 4). -/
def Team.resume (T : Team) (k : Nat) : Team :=
  match T.groups.find? fun (_, g) => g.pending with
  | some (j, _) => { T with groups := T.groups.map fun (n, g) =>
      (n, if n = j then { g with primary := true, pending := false } else if n = k ∧ g.run = .running then { g with run := .halted } else g) }
  | none => { T with halted := false
                     groups := T.groups.map fun (n, g) => (n, if g.run = .ended then g else { g with run := .running, halting := none }) }

/-- The end of a handler on a group, its frame being good. -/
def State.leaveHandler (s : State) (t k : Nat) (g : Grp) (fr : DWord) : State :=
  match s.team t with
  | none => s
  | some T =>
    let s := s.modCtx T.ctx fun x => { x with frames := x.frames.filter (· ≠ fr.toNat) }
    let s := s.modTeam t fun T => ({ T with groups := Tab.put T.groups k g } : Team).resume k
    if g.gone then
      let s := s.modGrp t k fun g => { g with run := .ended }
      if T.exiting then (s.modTeam t fun T => { T with ending := some (.exit k g.fpc) }).settleEnds else s
    else s

/-! ## Halted siblings (R372) -/

/-- A group stops at an instruction boundary for a sibling's fault: its record names the abandoned wait, or the fragment
that would issue next (Table 08-18). -/
def Grp.halt (g : Grp) : Grp :=
  let pc := match lowest (g.waits.map Wait.pc) with
    | some p => p
    | none => g.choose.getD 0
  { g with run := .halted, fcode := 0, fpc := pc, faddr := 0, faux := 0, fhalt := true, skid := BitVec.ofNat 4 (g.halting.getD 0),
           halting := none, waits := [], muster := none, inSlot := false }

/-! ## Tasks and armed flags (R205, R122, R165) -/

/-- A bound is strictly worse than a key (R205). -/
def worse (max : Bool) (bound key : DWord) : Bool := if max then decide (bound.toNat < key.toNat) else decide (key.toNat < bound.toNat)

/-- The shadow of a slot in a pod. -/
def State.shadow (s : State) (pod slot : Nat) : Shadow := Tab.get {} s.shadows (8 * pod + slot)

/-- A task group whose bound is strictly worse than its pod's shadow (R205). -/
def State.taskDead (s : State) (T : Team) (g : Grp) : Bool :=
  let h := s.shadow (podOf T.core) g.tslot.toNat
  T.kind = .task && worse h.sense g.tbound h.key

/-- A task group killed by its bound: the counter is raised and the group ends (R205). -/
def State.killTask (s : State) (t : Nat) (T : Team) : State := (s.countEvent T.ctx 0x020).endTeam t

/-- The checks that a barrier or wait instruction makes when it issues, before any wait begins (R165, R343). -/
def Iss.waitChecks (x : Iss) (s : State) : Except State State :=
  match x.who with
  | .courier _ => .ok s
  | .grp t k =>
    if x.g.waitsAt x.pc then .ok s
    else if s.taskDead x.T x.g then .error (s.killTask t x.T)
    else if x.g.gflags &&& x.g.garm ≠ 0 then
      .error (s.raiseAll t k x.pc x.fq .fpTrap ((x.g.gflags &&& x.g.garm).setWidth 32))
    else .ok s

/-! ## Order among accesses (R157 to R159) -/

/-- What a word is to fences: nothing, a load, a write, or a start of an engine. -/
inductive Kls where
  | none | load | store | engine
  deriving DecidableEq, Repr

def kls : Instr → Kls
  | .ld .. | .lds .. | .sld .. | .ldt .. | .ldx .. | .hgath .. | .pread .. | .incrd .. | .wvalue .. | .jmpi .. => .load
  | .st .. | .sts .. | .sst .. | .stt .. | .stx .. | .atomAdd .. | .atomMin .. | .atomMax .. | .atomAnd .. | .atomOr .. | .atomXor ..
  | .atomExch .. | .cas .. | .satom .. | .pemitSym .. | .pemitOne .. | .pemitTwo .. => .store
  | .cpaIn .. | .cpaOut .. | .mcload .. | .mcrel .. | .bcopy .. | .bfill .. | .mma .. | .plaunch .. | .pfin .. | .tspawn .. | .imprv ..
  | .launch .. | .claunch .. | .sevent .. | .stmap .. | .stunmap .. | .stflush .. | .cflush .. | .cinv .. | .bini .. | .barr ..
  | .bexp .. => .engine
  | _ => .none

/-- A pending fence holds a word back. -/
def Fence.holds (f : Fence) (k : Kls) : Bool :=
  match f.kind with
  | .ns => true
  | .rel => k = .store || (f.scope = 0 && k ≠ .none)
  | .acq | .ar => k ≠ .none

/-- The memory instructions that the throttle counts (R294). -/
def throttled : Instr → Bool
  | .ld .. | .st .. | .ldx .. | .stx .. | .hgath .. | .ldt .. | .stt .. | .pf .. | .cpaIn .. | .cpaOut .. | .sld .. | .sst .. | .atomAdd ..
  | .atomMin .. | .atomMax .. | .atomAnd .. | .atomOr .. | .atomXor .. | .atomExch .. | .cas .. => true
  | _ => false

/-- The group is among those that an engaged throttle lets issue memory instructions (R294). -/
def State.admits (s : State) (core t k : Nat) : Bool :=
  let c := s.core core
  let score := fun t k => match s.grp t k with | some g => g.score | none => 0
  let slot := fun t => match s.team t with | some T => T.slot | none => 0
  let in_ := c.admitted.filter fun e => (s.grp e.1 e.2).isSome
  !c.thr || in_.contains (t, k) ||
  decide (((s.teams.flatMap fun (u, T) => if T.core = core then T.groups.map fun e => (u, e.1) else []).filter fun (u, j) =>
    !in_.contains (u, j) && (score t k < score u j || (score t k = score u j && (slot u < slot t || (u = t && j < k))))).length + in_.length < c.nmem)

/-- The waits of an agent. -/
def State.waitsOf (s : State) (w : Who) : List Wait :=
  match w with
  | .grp t k => ((s.grp t k).map Grp.waits).getD []
  | .courier c => ((s.core c).courier.bind Courier.wait).toList

/-- No `wvalue` of an agent that issued before the bound still waits: it is a load (R163). -/
def State.seenBefore (s : State) (w : Who) (bound : Nat) : Bool := (s.waitsOf w).all fun v => v.load.all fun n => decide (bound ≤ n)

/-- Every earlier access of an agent that a fence orders is complete at a scope (R157, R158). -/
def State.doneBefore (s : State) (w : Who) (bound scope : Nat) : Bool :=
  s.seenBefore w bound && s.ops.all fun (id, o) => o.who ≠ w || decide (bound ≤ id) || !o.fenced || o.completeAt (s.dieNow (dieOf o.core)) scope

/-- Every earlier load of an agent is complete, `incrd` (R207) and a `wvalue` that waits among them. -/
def State.loadsBefore (s : State) (w : Who) (bound : Nat) : Bool :=
  s.seenBefore w bound &&
  (s.ops.all fun (id, o) => o.who ≠ w || decide (bound ≤ id) || !o.fenced || !o.returns || o.replied) &&
  s.increqs.all fun r => !r.read || (match r.who, w with
    | .grp t k, .grp u j => t ≠ u || k ≠ j
    | _, _ => true)

/-! ## The scoreboard -/

/-- Vector registers that an operation in flight will write. -/
def MemOp.vregs (o : MemOp) : List Nat :=
  if o.replied then [] else match o.dst with
    | .vec r n => (List.range n).map (r + ·)
    | _ => []

def MemOp.sregs (o : MemOp) : List Nat :=
  if o.replied then [] else match o.dst with
    | .scal r n => (List.range n).map (r + ·)
    | _ => []

/-- The agent's operations in flight will write a register that the word names, or an enable bit of the group. -/
def Iss.interlocked (x : Iss) (s : State) (f : Form) : Bool :=
  let step : Nat → Option Opd → List Opd := fun i o => (o.map fun (p : Opd) => { p with no := x.g.hints.stepped i x.rep p.no }).toList
  let opds : List Opd := step 0 f.d ++ step 1 f.a ++ step 2 f.b
  let vr : List Nat := opds.flatMap Opd.vregs
  let acc : List Nat := match f.acc with | some o => o.vregs | none => []
  let sr : List Nat := opds.flatMap Opd.sregs
  (s.ops.any fun (_, o) => o.who = x.owner &&
    ((o.vregs.any fun r => vr.contains r || acc.contains r) || (o.sregs.any fun r => sr.contains r || decide (61 ≤ r)))) ||
  (x.g.owed.any fun (r, n) => decide (61 < r + n) || sr.any fun q => decide (r ≤ q) && decide (q < r + n)) ||
  (x.g.mops.any fun m => (m.st = .issued || m.st = .fetched) && (vr ++ acc).any fun r => decide (m.acc ≤ r) && decide (r < m.acc + 32))

/-! ## Word checks (R59, R64, R373) -/

/-- HINT_SEQ (R63, R64): a pending hint that the word does not accept, or a second hint of a kind. -/
def hintBad (h : Hints) (f : Form) : Bool :=
  if f.fmt = .H then bitOf h.pend f.hk
  else (h.imm.isSome && !f.accepts 0) || (h.mod.isSome && !f.accepts 1) || (h.rep.isSome && !f.accepts 2) ||
  (h.pref.isSome && !f.accepts 3) || (h.bar.isSome && !f.accepts 4) ||
  (match h.mod with | some p => !f.acceptsMod p | none => false)

/-- A step of REP breaks a field (R64), with the registers per lane. -/
def repBad (regs : Nat) (p : BitVec 23) (f : Form) : Bool :=
  let n := p.toNat / 2 ^ 6 % 64 + 1
  let bad := fun (i : Nat) (o : Option Opd) =>
    let k := repStep p i
    match o with
    | none => k ≠ 0 && !(i = 0 && f.fmt = .T && n = 1)
    | some o => (List.range n).any fun j => !(o.sameClass (j * k) && (o.move (j * k)).ok regs)
  bad 0 f.d || bad 1 f.a || bad 2 f.b

/-- OPERAND of R59, with the checks that REP makes of its target before repetition 0; a further hint is no target (R61). -/
def operandBad (regs : Nat) (h : Hints) (rep : Nat) (f : Form) : Bool :=
  f.bad || f.opds.any (fun o => !o.ok regs) || (match h.rep with | some p => f.fmt ≠ .H && rep = 0 && repBad regs p f | none => false)

/-- The word checks of Table 03-19 from the second on, in order: the fault that the word raises. -/
def wordFault (f : Form) (courier priv : Bool) (regs : Nat) (h : Hints) (rep : Nat) : Option FCode :=
  if !f.legal || (!courier && f.engine) || (courier && (!f.courier || (match f.sr with | some n => !Operand.srCourier n | none => false))) then some .illegal
  else if hintBad h f then some .hintSeq
  else if f.fmt = .SI && (match h.imm with | some p => p.extractLsb' 18 5 ≠ 0 | none => false) then some .reservedBits
  else if (match f.sr with | some n => Operand.srPrivileged n && !priv && !(courier && Operand.srCourier n) | none => false) then some .privilege
  else if operandBad regs h rep f then some .operand
  else none

/-- A PC as CPC holds it: bits [1:0] and [63:60] are reserved and read 0 (R6, R240). -/
def cpcBits (a : DWord) : DWord := a &&& 0x0FFFFFFFFFFFFFFC

/-- The issue context of a courier. -/
def courierIss (c : Nat) (y : Courier) (f : Form) : Iss :=
  { who := .courier c, core := c, ctx := y.ctx, g := { s := y.s, fences := y.fences, latch := y.latch }, pc := y.cpc, next := y.cpc + 4,
    paths := BitVec.allOnes 96, en := BitVec.allOnes 96, act := BitVec.allOnes 96, d := optNo f.d, a := optNo f.a, b := optNo f.b, form := f }

/-- The address of the word after a PC: slot B where it is not empty, else the next word (R50, R66). -/
def nextPc (pc : DWord) (inSlot : Bool) : DWord :=
  if pc.getLsbD 1 || inSlot then pc + 2 else pc + 4

/-- The issue context of a group for its fragment at a PC. Every quad that stands at the PC belongs to the fragment, also one that came there by
another way after the hint that is pending: it executes the word under that hint (log 49). -/
def grpIss (t k : Nat) (T : Team) (g : Grp) (pc : DWord) (f : Form) : Iss :=
  let fq := g.quadsAt pc
  let paths := g.pathLanes fq
  let en := paths &&& g.enabled
  let rep := match g.rep with | some i => i.toNat | none => 0
  let st := fun (i : Nat) (o : Option Opd) => match o with | some o => g.hints.stepped i rep o.no | none => 127
  { who := .grp t k, t := t, k := k, core := T.core, ctx := T.ctx, T := T, g := g, pc := pc, next := nextPc pc g.inSlot, fq := fq,
    paths := paths, en := en, act := en &&& g.pred f.g.toNat, rep := rep, last := rep + 1 = g.hints.count || g.hints.count ≤ rep,
    d := st 0 f.d, a := st 1 f.a, b := st 2 f.b, form := f }

/-- Whether the agent issues at all: it exists, runs, and nothing freezes it (R295, R373, R382). -/
def Grp.canIssue (g : Grp) : Bool := g.run = .running && !g.frozen

/-- The checks of R373 before the word's own: a halt with its skid spent, an imprecise error, a due timer. -/
def State.preChecks (s : State) (x : Iss) : Except State Unit :=
  if x.g.halting.any (8 ≤ ·) then .error (s.modGrp x.t x.k Grp.halt)
  else match x.g.soft with
    | some (addr, pc) =>
      let s := s.modGrp x.t x.k fun g => { g with soft := none, softLanes := [] }
      if s.defers x.T then
        .error ((s.retireLanes x.t x.k (x.g.softLanes.foldl (fun m e => m ||| laneBit e.1) 0 &&& ~~~x.g.exited) FCode.uncorrectable.code x.pc fun l =>
          Tab.get 0 x.g.softLanes l).endIfGone x.t x.k x.pc)
      else .error (s.faultGrp x.t x.k .uncorrectable x.pc pc addr (fragBits x.fq))
    | none =>
      if x.g.gtcmp ≠ 0 ∧ x.g.gtcmp.toNat ≤ s.ctime x.ctx x.core then
        let s := s.modGrp x.t x.k fun g => { g with gtcmp := 0 }
        .error (s.raiseAll x.t x.k x.pc x.fq .timer (BitVec.ofNat 32 (s.ctime x.ctx x.core)))
      else .ok ()

/-- The operand code of a register that the word reads and that holds an uncorrectable error (Table 10-5): operands d, a, b and the
accumulator in this order, then the guard and the predicates that the word selects (R379). -/
def Iss.regError (x : Iss) : Option Nat :=
  if x.g.regErrs.isEmpty then none
  else
    let step : Nat → Option Opd → List Opd := fun i o => (o.map fun (p : Opd) => { p with no := x.g.hints.stepped i x.rep p.no }).toList
    let opds : List Opd := step 0 x.form.d ++ step 1 x.form.a ++ step 2 x.form.b ++ x.form.acc.toList
    match opds.find? fun o => o.rd && ((o.vregs.any fun r => x.g.regErrs.contains (0, r)) || o.sregs.any fun r => x.g.regErrs.contains (1, r)) with
    | some o => some o.no
    | none => (x.form.g.toNat :: x.form.ps).find? fun n => n ≠ 7 && x.g.regErrs.contains (2, n)

/-- The fences that a word stands behind: those pending, and the implied `fence.ar` of each barrier at which another fragment has not
arrived yet (R166); not those later than a `wvalue` that waits. -/
def Iss.behind (x : Iss) (s : State) : List Fence :=
  let implied := (x.g.waits.filter fun w => decide (1 ≤ w.span) && decide (w.span ≤ 3) && !w.arrived && w.pc ≠ x.pc).map fun w =>
    ({ kind := .ar, scope := w.span, bound := w.latched } : Fence)
  match (x.wait? s).bind Wait.load with
  | some n => (x.g.fences ++ implied).filter fun f => decide (f.bound ≤ n)
  | none => x.g.fences ++ implied

/-- The loads that may execute ahead of an acquiring fence, where their lines can be held under a lease (R159). -/
def runsEarly : Instr → Bool
  | .ld .. | .ldx .. | .ldt .. | .sld .. => true
  | _ => false

/-- A word waits behind its group's fences; a load is noted there, since it may have executed early when they complete (R159, log 18). -/
def Iss.holdBehind (x : Iss) (s : State) (i : Instr) : State :=
  match x.who with
  | .grp t k => if runsEarly i then (x.hold s).modGrp t k fun g => { g with fences := g.fences.map fun f => { f with tried := f.tried || f.holds (kls i) } } else x.hold s
  | .courier _ => x.hold s

/-- A word that its agent can issue now: the word checks pass and neither the scoreboard nor a fence holds it; otherwise the
state in which the step ends, after a fault or unchanged. -/
def State.permit (s : State) (i : Instr) (x : Iss) : Except State Iss :=
  match wordFault x.form x.onCourier (s.ctx x.ctx).priv x.T.kobj.regs x.g.hints x.rep with
  | some c => .error (x.raise s c)
  | none => match x.regError with
    | some o => .error (x.raise s .uncorrectable (BitVec.ofNat 32 o))
    | none =>
    if x.interlocked s x.form then .error (x.hold s)
    else if (x.behind s).any fun f => f.holds (kls i) then .error (x.holdBehind s i)
    else if throttled i && !x.onCourier && !s.admits x.core x.t x.k then .error (x.denied s)
    else .ok x

/-- The agent whose turn it is stands before its next word, with the checks of R373 made, and its core is not being pre-empted
(R382 steps 2 and 7): its issue context under the form of that word, or the state in which the step ends. -/
def State.stand (s : State) (f : Form) : Except State Iss :=
  match s.cur with
  | .courier c => match (s.core c).courier with
    | none => .error s
    | some y => if y.stopped || (s.core c).pre then .error s else .ok (courierIss c y f)
  | .grp t k => match s.team t with
    | none => .error s
    | some T => match Tab.find T.groups k with
      | none => .error s
      | some g => match g.choose with
        | none => .error s
        | some pc =>
          if !g.canIssue then .error s
          else
            let x := grpIss t k T g pc f
            match s.preChecks x with
            | .error s => .error s
            | .ok _ => if (s.core T.core).pre then .error s else .ok x

/-- The agent whose turn it is issues a word: its context, or the state in which the step ends. -/
def State.issue (s : State) (i : Instr) : Except State Iss :=
  match s.stand (form i) with
  | .error s => .error s
  | .ok x => s.permit i x

/-- The agent whose turn it is exists. -/
def State.hasAgent (s : State) : Bool :=
  match s.cur with
  | .courier c => (s.core c).courier.isSome
  | .grp t k => (s.grp t k).isSome

/-- The step of a word: its effect on the state, and then its retirement, moving the paths on where `adv` says so. An effect
that ends otherwise (a fault, a wait, a handler's return) gives its own state. -/
def runWord (i : Instr) (s : State) (adv : Bool) (eff : Iss → State → Except State State) : Host.Outcome State Fault Refusal :=
  if !s.hasAgent then .fault .noAgent
  else match s.issue i with
    | .error s => .next s
    | .ok x => match eff x s with
      | .error s => .next s
      | .ok s => .next (s.retire x adv)

/-- A word that only has an effect. -/
def word (i : Instr) (s : State) (eff : Iss → State → Except State State) : Host.Outcome State Fault Refusal := runWord i s true eff

/-- A word that moves the paths itself. -/
def wordMove (i : Instr) (s : State) (eff : Iss → State → Except State State) : Host.Outcome State Fault Refusal := runWord i s false eff

/-- An event: it always has a next state. -/
def event (s : State) : Host.Outcome State Fault Refusal := .next s

/-! ## Immediates and modifiers -/

/-- An immediate under a pending IMM hint: hi · 2^w + f, else the field sign-extended (R62, R83). -/
def immValue (h : Option (BitVec 23)) (w : Nat) (f : BitVec w) : Word :=
  match h with
  | some hi => BitVec.ofNat 32 (hi.toNat * 2 ^ w + f.toNat)
  | none => f.signExtend 32

/-- Rounding field of a pending MOD hint. -/
def Hints.modR (h : Hints) : BitVec 3 := match h.mod with | some p => p.extractLsb' 15 3 | none => 0

def Hints.modS (h : Hints) : BitVec 2 := match h.mod with | some p => p.extractLsb' 13 2 | none => 0

def Hints.policy (h : Hints) : BitVec 2 := match h.mod with | some p => p.extractLsb' 11 2 | none => 0

def Hints.readCount (h : Hints) : Nat := match h.mod with | some p => (p.extractLsb' 5 6).toNat | none => 0

def Hints.now (h : Hints) : Bool := match h.mod with | some p => p.getLsbD 4 | none => false

def Hints.format (h : Hints) : Nat := match h.mod with | some p => (p.extractLsb' 0 4).toNat | none => 0

end Sys2Proof.Machine
end

