-- ==== Sys2Proof/Machine/Integer.lean ====
section
/-! DEFINITION. Integer arithmetic and immediates, format A and I (R81 to R83). -/

namespace Sys2Proof.Machine

/-- d := f(a) in every active lane. -/
def Iss.map1 (x : Iss) (s : State) (f : Word → Word) : Except State State :=
  .ok (x.setV s x.d x.act fun l => f (x.g.code x.a l))

/-- d := f(a, b) in every active lane. -/
def Iss.map2 (x : Iss) (s : State) (f : Word → Word → Word) : Except State State :=
  .ok (x.setV s x.d x.act fun l => f (x.g.code x.a l) (x.g.code x.b l))

/-- d := f(a, b, d) in every active lane. -/
def Iss.map3 (x : Iss) (s : State) (f : Word → Word → Word → Word) : Except State State :=
  .ok (x.setV s x.d x.act fun l => f (x.g.code x.a l) (x.g.code x.b l) (x.g.code x.d l))

/-- The pair at d := f in every active lane. -/
def Iss.mapPair (x : Iss) (s : State) (f : Nat → DWord) : Except State State :=
  .ok (x.setV (x.setV s x.d x.act fun l => (f l).extractLsb' 0 32) (x.d + 1) x.act fun l => (f l).extractLsb' 32 32)

/-- Quotient and remainder of signed division (R82). -/
def divS (a b : Word) : Word × Word :=
  if b = 0 then (0xFFFFFFFF, a)
  else if a = 0x80000000 ∧ b = 0xFFFFFFFF then (0x80000000, 0)
  else (BitVec.ofInt 32 (a.toInt.tdiv b.toInt), BitVec.ofInt 32 (a.toInt.tmod b.toInt))

/-- Quotient and remainder of unsigned division (R82). -/
def divN (a b : Word) : Word × Word := if b = 0 then (0xFFFFFFFF, a) else (a / b, a % b)

/-- The high word of the signed product. -/
def mulHighS (a b : Word) : Word := (BitVec.ofInt 64 (a.toInt * b.toInt)).extractLsb' 32 32

/-- The high word of the unsigned product. -/
def mulHighN (a b : Word) : Word := (BitVec.ofNat 64 (a.toNat * b.toNat)).extractLsb' 32 32

def minS (a b : Word) : Word := if a.toInt ≤ b.toInt then a else b
def maxS (a b : Word) : Word := if b.toInt ≤ a.toInt then a else b
def minN (a b : Word) : Word := if a.toNat ≤ b.toNat then a else b
def maxN (a b : Word) : Word := if b.toNat ≤ a.toNat then a else b

/-- Shifts by a 32-bit unsigned count (R84). -/
def shiftL (a n : Word) : Word := if 32 ≤ n.toNat then 0 else a <<< n.toNat
def shiftR (a n : Word) : Word := if 32 ≤ n.toNat then 0 else a >>> n.toNat
def shiftA (a n : Word) : Word := a.sshiftRight (min n.toNat 31)

/-- Absolute value modulo 2^32. -/
def absW (a : Word) : Word := if a.toInt < 0 then -a else a

/-- `iadd`: a + b (Table 04-1). -/
def execIadd (g : BitVec 3) (d a b : BitVec 7) (s : State) : Host.Outcome State Fault Refusal :=
  word (.iadd g d a b) s fun x s => x.map2 s (· + ·)

/-- `isub`: a − b. -/
def execIsub (g : BitVec 3) (d a b : BitVec 7) (s : State) : Host.Outcome State Fault Refusal :=
  word (.isub g d a b) s fun x s => x.map2 s (· - ·)

/-- `imul`: low word of a · b. -/
def execImul (g : BitVec 3) (d a b : BitVec 7) (s : State) : Host.Outcome State Fault Refusal :=
  word (.imul g d a b) s fun x s => x.map2 s (· * ·)

/-- `imad`: low word of a · b + d. -/
def execImad (g : BitVec 3) (d a b : BitVec 7) (s : State) : Host.Outcome State Fault Refusal :=
  word (.imad g d a b) s fun x s => x.map3 s fun a b d => a * b + d

/-- `imulh.i32`. -/
def execImulhI32 (g : BitVec 3) (d a b : BitVec 7) (s : State) : Host.Outcome State Fault Refusal :=
  word (.imulhI32 g d a b) s fun x s => x.map2 s mulHighS

/-- `imulh.n32`. -/
def execImulhN32 (g : BitVec 3) (d a b : BitVec 7) (s : State) : Host.Outcome State Fault Refusal :=
  word (.imulhN32 g d a b) s fun x s => x.map2 s mulHighN

/-- `madw`: the unsigned product added to the pair d. -/
def execMadw (g : BitVec 3) (d a b : BitVec 7) (s : State) : Host.Outcome State Fault Refusal :=
  word (.madw g d a b) s fun x s => x.mapPair s fun l => BitVec.ofNat 64 ((x.g.code x.a l).toNat * (x.g.code x.b l).toNat) + x.g.pair x.d l

/-- `add64`: sum of two pairs. -/
def execAdd64 (g : BitVec 3) (d a b : BitVec 7) (s : State) : Host.Outcome State Fault Refusal :=
  word (.add64 g d a b) s fun x s => x.mapPair s fun l => x.g.pair x.a l + x.g.pair x.b l

/-- `idiv.i32` (R82). -/
def execIdivI32 (g : BitVec 3) (d a b : BitVec 7) (s : State) : Host.Outcome State Fault Refusal :=
  word (.idivI32 g d a b) s fun x s => x.map2 s fun a b => (divS a b).1

/-- `idiv.n32`. -/
def execIdivN32 (g : BitVec 3) (d a b : BitVec 7) (s : State) : Host.Outcome State Fault Refusal :=
  word (.idivN32 g d a b) s fun x s => x.map2 s fun a b => (divN a b).1

/-- `irem.i32`. -/
def execIremI32 (g : BitVec 3) (d a b : BitVec 7) (s : State) : Host.Outcome State Fault Refusal :=
  word (.iremI32 g d a b) s fun x s => x.map2 s fun a b => (divS a b).2

/-- `irem.n32`. -/
def execIremN32 (g : BitVec 3) (d a b : BitVec 7) (s : State) : Host.Outcome State Fault Refusal :=
  word (.iremN32 g d a b) s fun x s => x.map2 s fun a b => (divN a b).2

/-- `imin.i32`. -/
def execIminI32 (g : BitVec 3) (d a b : BitVec 7) (s : State) : Host.Outcome State Fault Refusal :=
  word (.iminI32 g d a b) s fun x s => x.map2 s minS

/-- `imin.n32`. -/
def execIminN32 (g : BitVec 3) (d a b : BitVec 7) (s : State) : Host.Outcome State Fault Refusal :=
  word (.iminN32 g d a b) s fun x s => x.map2 s minN

/-- `imax.i32`. -/
def execImaxI32 (g : BitVec 3) (d a b : BitVec 7) (s : State) : Host.Outcome State Fault Refusal :=
  word (.imaxI32 g d a b) s fun x s => x.map2 s maxS

/-- `imax.n32`. -/
def execImaxN32 (g : BitVec 3) (d a b : BitVec 7) (s : State) : Host.Outcome State Fault Refusal :=
  word (.imaxN32 g d a b) s fun x s => x.map2 s maxN

/-- `iabs`. -/
def execIabs (g : BitVec 3) (d a : BitVec 7) (s : State) : Host.Outcome State Fault Refusal :=
  word (.iabs g d a) s fun x s => x.map1 s absW

/-- `ineg`. -/
def execIneg (g : BitVec 3) (d a : BitVec 7) (s : State) : Host.Outcome State Fault Refusal :=
  word (.ineg g d a) s fun x s => x.map1 s (- ·)

/-- `mov`. -/
def execMov (g : BitVec 3) (d a : BitVec 7) (s : State) : Host.Outcome State Fault Refusal :=
  word (.mov g d a) s fun x s => x.map1 s id

/-- `lane`: the lane index. -/
def execLane (g : BitVec 3) (d : BitVec 7) (s : State) : Host.Outcome State Fault Refusal :=
  word (.lane g d) s fun x s => .ok (x.setV s x.d x.act fun l => BitVec.ofNat 32 l)

/-- `iaddi` (R83, Table 04-2). -/
def execIaddi (g : BitVec 3) (d a : BitVec 7) (i : BitVec 9) (s : State) : Host.Outcome State Fault Refusal :=
  word (.iaddi g d a i) s fun x s => x.map1 s (· + (immValue x.g.hints.imm 9 i))

/-- `andi`. -/
def execAndi (g : BitVec 3) (d a : BitVec 7) (i : BitVec 9) (s : State) : Host.Outcome State Fault Refusal :=
  word (.andi g d a i) s fun x s => x.map1 s (· &&& (immValue x.g.hints.imm 9 i))

/-- `ori`. -/
def execOri (g : BitVec 3) (d a : BitVec 7) (i : BitVec 9) (s : State) : Host.Outcome State Fault Refusal :=
  word (.ori g d a i) s fun x s => x.map1 s (· ||| (immValue x.g.hints.imm 9 i))

/-- `xori`. -/
def execXori (g : BitVec 3) (d a : BitVec 7) (i : BitVec 9) (s : State) : Host.Outcome State Fault Refusal :=
  word (.xori g d a i) s fun x s => x.map1 s (· ^^^ (immValue x.g.hints.imm 9 i))

/-- `shli`. -/
def execShli (g : BitVec 3) (d a : BitVec 7) (i : BitVec 9) (s : State) : Host.Outcome State Fault Refusal :=
  word (.shli g d a i) s fun x s => x.map1 s (shiftL · (immValue x.g.hints.imm 9 i))

/-- `shri`. -/
def execShri (g : BitVec 3) (d a : BitVec 7) (i : BitVec 9) (s : State) : Host.Outcome State Fault Refusal :=
  word (.shri g d a i) s fun x s => x.map1 s (shiftR · (immValue x.g.hints.imm 9 i))

/-- `sari`. -/
def execSari (g : BitVec 3) (d a : BitVec 7) (i : BitVec 9) (s : State) : Host.Outcome State Fault Refusal :=
  word (.sari g d a i) s fun x s => x.map1 s (shiftA · (immValue x.g.hints.imm 9 i))

/-- `movi`. -/
def execMovi (g : BitVec 3) (d : BitVec 7) (i : BitVec 9) (s : State) : Host.Outcome State Fault Refusal :=
  word (.movi g d i) s fun x s => .ok (x.setV s x.d x.act fun _ => (immValue x.g.hints.imm 9 i))

/-- `imuli`. -/
def execImuli (g : BitVec 3) (d a : BitVec 7) (i : BitVec 9) (s : State) : Host.Outcome State Fault Refusal :=
  word (.imuli g d a i) s fun x s => x.map1 s (· * (immValue x.g.hints.imm 9 i))

end Sys2Proof.Machine
end

