-- ==== Sys2Proof/Machine/Scalar.lean ====
section
/-! DEFINITION. The scalar ALU of SYS and `smovi` (R86, R87): performed once per execution, whatever lanes are enabled. -/

namespace Sys2Proof.Machine

/-- sd := f(sa, sb). -/
def Iss.smap2 (x : Iss) (s : State) (f : Word → Word → Word) : Except State State :=
  .ok (x.setS s x.d (f (x.g.sreg x.a) (x.g.sreg x.b)))

/-- 1 or 0. -/
def bit (b : Bool) : Word := if b then 1 else 0

/-- `sadd` (Table 04-5). -/
def execSadd (d a b : BitVec 6) (s : State) : Host.Outcome State Fault Refusal :=
  word (.sadd d a b) s fun x s => x.smap2 s (· + ·)

/-- `ssub` (Table 04-5). -/
def execSsub (d a b : BitVec 6) (s : State) : Host.Outcome State Fault Refusal :=
  word (.ssub d a b) s fun x s => x.smap2 s (· - ·)

/-- `smul` (Table 04-5). -/
def execSmul (d a b : BitVec 6) (s : State) : Host.Outcome State Fault Refusal :=
  word (.smul d a b) s fun x s => x.smap2 s (· * ·)

/-- `sand` (Table 04-5). -/
def execSand (d a b : BitVec 6) (s : State) : Host.Outcome State Fault Refusal :=
  word (.sand d a b) s fun x s => x.smap2 s (· &&& ·)

/-- `sor` (Table 04-5). -/
def execSor (d a b : BitVec 6) (s : State) : Host.Outcome State Fault Refusal :=
  word (.sor d a b) s fun x s => x.smap2 s (· ||| ·)

/-- `sxor` (Table 04-5). -/
def execSxor (d a b : BitVec 6) (s : State) : Host.Outcome State Fault Refusal :=
  word (.sxor d a b) s fun x s => x.smap2 s (· ^^^ ·)

/-- `sshl` (Table 04-5). -/
def execSshl (d a b : BitVec 6) (s : State) : Host.Outcome State Fault Refusal :=
  word (.sshl d a b) s fun x s => x.smap2 s shiftL

/-- `sshr` (Table 04-5). -/
def execSshr (d a b : BitVec 6) (s : State) : Host.Outcome State Fault Refusal :=
  word (.sshr d a b) s fun x s => x.smap2 s shiftR

/-- `ssar` (Table 04-5). -/
def execSsar (d a b : BitVec 6) (s : State) : Host.Outcome State Fault Refusal :=
  word (.ssar d a b) s fun x s => x.smap2 s shiftA

/-- `smin.i32` (Table 04-5). -/
def execSminI32 (d a b : BitVec 6) (s : State) : Host.Outcome State Fault Refusal :=
  word (.sminI32 d a b) s fun x s => x.smap2 s minS

/-- `smin.n32` (Table 04-5). -/
def execSminN32 (d a b : BitVec 6) (s : State) : Host.Outcome State Fault Refusal :=
  word (.sminN32 d a b) s fun x s => x.smap2 s minN

/-- `smax.i32` (Table 04-5). -/
def execSmaxI32 (d a b : BitVec 6) (s : State) : Host.Outcome State Fault Refusal :=
  word (.smaxI32 d a b) s fun x s => x.smap2 s maxS

/-- `smax.n32` (Table 04-5). -/
def execSmaxN32 (d a b : BitVec 6) (s : State) : Host.Outcome State Fault Refusal :=
  word (.smaxN32 d a b) s fun x s => x.smap2 s maxN

/-- `scmp.eq` (Table 04-5). -/
def execScmpEq (d a b : BitVec 6) (s : State) : Host.Outcome State Fault Refusal :=
  word (.scmpEq d a b) s fun x s => x.smap2 s (fun a b => bit (a = b))

/-- `scmp.ne` (Table 04-5). -/
def execScmpNe (d a b : BitVec 6) (s : State) : Host.Outcome State Fault Refusal :=
  word (.scmpNe d a b) s fun x s => x.smap2 s (fun a b => bit (a ≠ b))

/-- `scmp.lt` (Table 04-5). -/
def execScmpLt (d a b : BitVec 6) (s : State) : Host.Outcome State Fault Refusal :=
  word (.scmpLt d a b) s fun x s => x.smap2 s (fun a b => bit (a.toInt < b.toInt))

/-- `scmp.le` (Table 04-5). -/
def execScmpLe (d a b : BitVec 6) (s : State) : Host.Outcome State Fault Refusal :=
  word (.scmpLe d a b) s fun x s => x.smap2 s (fun a b => bit (a.toInt ≤ b.toInt))

/-- `scmp.gt` (Table 04-5). -/
def execScmpGt (d a b : BitVec 6) (s : State) : Host.Outcome State Fault Refusal :=
  word (.scmpGt d a b) s fun x s => x.smap2 s (fun a b => bit (b.toInt < a.toInt))

/-- `scmp.ge` (Table 04-5). -/
def execScmpGe (d a b : BitVec 6) (s : State) : Host.Outcome State Fault Refusal :=
  word (.scmpGe d a b) s fun x s => x.smap2 s (fun a b => bit (b.toInt ≤ a.toInt))

/-- `scmp.ltn` (Table 04-5). -/
def execScmpLtn (d a b : BitVec 6) (s : State) : Host.Outcome State Fault Refusal :=
  word (.scmpLtn d a b) s fun x s => x.smap2 s (fun a b => bit (a.toNat < b.toNat))

/-- `scmp.len` (Table 04-5). -/
def execScmpLen (d a b : BitVec 6) (s : State) : Host.Outcome State Fault Refusal :=
  word (.scmpLen d a b) s fun x s => x.smap2 s (fun a b => bit (a.toNat ≤ b.toNat))

/-- `scmp.gtn` (Table 04-5). -/
def execScmpGtn (d a b : BitVec 6) (s : State) : Host.Outcome State Fault Refusal :=
  word (.scmpGtn d a b) s fun x s => x.smap2 s (fun a b => bit (b.toNat < a.toNat))

/-- `scmp.gen` (Table 04-5). -/
def execScmpGen (d a b : BitVec 6) (s : State) : Host.Outcome State Fault Refusal :=
  word (.scmpGen d a b) s fun x s => x.smap2 s (fun a b => bit (b.toNat ≤ a.toNat))

/-- `smov`. -/
def execSmov (d a : BitVec 6) (s : State) : Host.Outcome State Fault Refusal :=
  word (.smov d a) s fun x s => .ok (x.setS s x.d (x.g.sreg x.a))

/-- `ssel`: sa if sd is not 0, else sb. -/
def execSsel (d a b : BitVec 6) (s : State) : Host.Outcome State Fault Refusal :=
  word (.ssel d a b) s fun x s => .ok (x.setS s x.d (if x.g.sreg x.d ≠ 0 then x.g.sreg x.a else x.g.sreg x.b))

/-- `smovi` (R87). -/
def execSmovi (d : BitVec 6) (i : BitVec 14) (s : State) : Host.Outcome State Fault Refusal :=
  word (.smovi d i) s fun x s => .ok (x.setS s x.d (immValue x.g.hints.imm 14 i))

end Sys2Proof.Machine
end

