-- ==== Sys2Proof/Machine/Control.lean ====
section
/-! DEFINITION. Control flow of a group by quads, and of the courier (R41, R99 to R108, R212, R213), and the hint words
(R61 to R65). -/

namespace Sys2Proof.Machine

/-! ## Paths -/

/-- The target of a direct branch: the address of the branch word, or of its D word, plus four times the displacement (R58). -/
def branchTo {w : Nat} (pc : DWord) (n : BitVec w) : DWord := pc - (pc &&& 3) + n.signExtend 64 * 4

/-- Lane `i` of a quad added to the path at a PC, the paths in ascending order of PC. -/
def addPath (pc : DWord) (i : Nat) : List Path → List Path
  | [] => [Path.mk pc (BitVec.ofNat 4 (2 ^ i))]
  | p :: t =>
    if pc = p.pc then { p with mask := p.mask ||| BitVec.ofNat 4 (2 ^ i) } :: t
    else if pc.toNat < p.pc.toNat then Path.mk pc (BitVec.ofNat 4 (2 ^ i)) :: p :: t
    else p :: addPath pc i t

/-- The lanes of a quad's path by number within the quad. -/
def maskLanes (m : BitVec 4) : List Nat := (List.range 4).filter fun i => m.getLsbD i

/-- A quad after a branch: each active lane goes to its target, a lane whose guard is false falls through, a disabled lane
follows the lowest next PC of the active ones; the lowest PC is the new path, the others are deferred so that they pop in
ascending order (R100). `en` and `act` are the quad's enabled and active lanes. -/
def Quad.diverge (q : Quad) (en act : BitVec 4) (dest : Nat → DWord) (fall : DWord) : Quad :=
  match q.path with
  | none => q
  | some p =>
    let ls := maskLanes p.mask
    let lead := (lowest ((ls.filter fun i => act.getLsbD i).map dest)).getD fall
    let goal := fun i => if act.getLsbD i then dest i else if en.getLsbD i then fall else lead
    match ls.foldl (fun ps i => addPath (goal i) i ps) [] with
    | [] => { q with path := some { p with pc := fall } }
    | h :: t => { q with path := some h, defer := t ++ q.defer }

/-- The quads of a fragment changed. -/
def Grp.modQuads (g : Grp) (fq : List Nat) (f : Nat → Quad → Quad) : Grp :=
  { g with quads := g.quads.map fun (n, q) => (n, if fq.contains n then f n q else q) }

/-- A branch of the issuing fragment with a target for each lane. -/
def Iss.branch (x : Iss) (s : State) (dest : Nat → DWord) : State :=
  s.modGrp x.t x.k fun g => g.modQuads x.fq fun n q =>
    q.diverge (quadBits x.en n) (quadBits x.act n) (fun i => dest (4 * n + i)) x.next

/-- The whole fragment, or the courier, continues at a PC. -/
def Iss.jump (x : Iss) (s : State) (pc : DWord) : State :=
  match x.who with
  | .grp t k => s.modGrp t k fun g => g.advance x.fq x.pc pc
  | .courier c => s.modCore c fun k => { k with courier := k.courier.map fun (y : Courier) => { y with cpc := pc } }

/-! ## Branches -/

/-- `bra` (R103). -/
def execBra (g : BitVec 3) (n : BitVec 23) (s : State) : Host.Outcome State Fault Refusal :=
  wordMove (.bra g n) s fun x s =>
    match x.who with
    | .grp _ _ => .ok (x.branch s fun _ => branchTo x.pc n)
    | .courier _ => .ok (x.jump s (branchTo x.pc n))

/-- `sbra` (R103): the whole path, by a scalar. -/
def execSbra (a : BitVec 6) (n : BitVec 20) (s : State) : Host.Outcome State Fault Refusal :=
  wordMove (.sbra a n) s fun x s => .ok (x.jump s (if x.g.sreg x.a ≠ 0 then branchTo x.pc n else x.next))

/-- `loop` (R41): the scalar counts down, and the branch looks at its new value. -/
def execLoop (a : BitVec 6) (n : BitVec 20) (s : State) : Host.Outcome State Fault Refusal :=
  wordMove (.loop a n) s fun x s =>
    let v := x.g.sreg x.d - 1
    let v := match x.who with
      | .grp _ _ => v &&& ~~~exitedWord x.g.exited x.d
      | .courier _ => v
    .ok (x.jump (x.setS s x.d v) (if v ≠ 0 then branchTo x.pc n else x.next))

/-- A quad after `call` (R104). -/
def Quad.call (q : Quad) (en act : BitVec 4) (dest next : DWord) : Quad :=
  match q.path with
  | none => q
  | some p =>
    let calls := p.mask &&& act
    let waits := p.mask &&& en &&& ~~~act
    if calls = 0 then { q with path := some { p with pc := next } }
    else { q with path := some (Path.mk dest (p.mask &&& ~~~waits)), ret := Path.mk next waits :: q.ret }

/-- The return stack of a quad is full and the quad would push. -/
def Quad.callFull (q : Quad) (act : BitVec 4) : Bool :=
  match q.path with
  | none => false
  | some p => p.mask &&& act ≠ 0 && 16 ≤ q.ret.length

/-- `call` (R104, R239). -/
def execCall (g : BitVec 3) (n : BitVec 23) (s : State) : Host.Outcome State Fault Refusal :=
  wordMove (.call g n) s fun x s =>
    match x.who with
    | .courier c =>
      match (s.core c).courier with
      | none => .ok s
      | some y =>
        if 16 ≤ y.ret.length then .error (x.raise s .callDepth)
        else .ok ((x.jump s (branchTo x.pc n)).modCore c fun k =>
          { k with courier := k.courier.map fun (y : Courier) => { y with ret := x.next :: y.ret } })
    | .grp t k =>
      if x.fq.any fun n => (Tab.get {} x.g.quads n).callFull (quadBits x.act n) then .error (x.raise s .callDepth)
      else .ok (s.modGrp t k fun g => g.modQuads x.fq fun i q => q.call (quadBits x.en i) (quadBits x.act i) (branchTo x.pc n) x.next)

/-- A quad after `ret` (R104). -/
def Quad.return_ (q : Quad) : Quad :=
  match q.path, q.ret with
  | some p, r :: rest => { q with path := some (Path.mk r.pc (p.mask ||| r.mask)), ret := rest }
  | _, _ => q

/-- `ret` (R104, R239). -/
def execRet (s : State) : Host.Outcome State Fault Refusal :=
  wordMove .ret s fun x s =>
    match x.who with
    | .courier c =>
      match (s.core c).courier.map Courier.ret with
      | some (pc :: rest) => .ok ((x.jump s pc).modCore c fun k =>
          { k with courier := k.courier.map fun (y : Courier) => { y with ret := rest } })
      | _ => .error (x.raise s .callDepth)
    | .grp t k =>
      if x.fq.any fun n => (Tab.get {} x.g.quads n).ret.isEmpty then .error (x.raise s .callDepth)
      else .ok (s.modGrp t k fun g => g.modQuads x.fq fun _ q => q.return_)

/-! ## `jmpi` (R105) -/

/-- An earlier access of the agent that is not yet performed names a byte of a global range (R351). -/
def Iss.earlierPend (x : Iss) (s : State) (va n : Nat) : Bool :=
  s.ops.any fun (_, o) => o.who = x.owner && o.kind ≠ .cpaIn && o.parts.any fun p => !p.st.isDone && p.place = .home &&
    p.lanes.any fun a => decide (a.name < va + n) && decide (va < a.name + o.size)

/-- A word of memory read at this moment: from the core's L1 where it hits, else at its home; a free value where the sector
is poisoned (R269). -/
def Iss.readNow (x : Iss) (s : State) (pa lane : Nat) : Word × State :=
  match s.l1Hit x.core pa with
  | some l => (BitVec.ofNat 32 (leNat (l.bytes (pa % 128) 4)), s)
  | none =>
    if s.poisonedAt pa then
      let (v, s) := s.free
      (v.setWidth 32, s.soften x.owner x.pc pa [lane])
    else (BitVec.ofNat 32 (leNat (s.cohRead pa 4)), s)

/-- The table entries of the lanes listed, each read once per lane in ascending order; lanes whose read fails are listed by
fault and address. -/
def Iss.readTable (x : Iss) (base : Nat) : State → List Nat → State × Tab Word × List (FCode × Nat × Nat)
  | s, [] => (s, [], [])
  | s, l :: ls =>
    let va := base + 4 * (x.g.code x.a l).toNat
    if !vaOk va then
      let (s, t, e) := x.readTable base s ls
      (s, t, (.address, l, va) :: e)
    else match s.trans x.core x.ctx .r va with
    | .error f =>
      let (s, t, e) := x.readTable base s ls
      (s, t, (f, l, va) :: e)
    | .ok tr =>
      let (v, s) := x.readNow s tr.pa l
      let (s, t, e) := x.readTable base s ls
      (s, (l, v) :: t, e)

/-- The L1 lines that serve the table entries of the active lanes (R267). -/
def Iss.tableLines (x : Iss) (s : State) (base : Nat) : List Nat :=
  ((lanesOf x.act).filterMap fun l => match s.trans x.core x.ctx .r (base + 4 * (x.g.code x.a l).toNat) with
    | .ok tr => if (s.l1Hit x.core tr.pa).isSome then some (lineOf tr.pa) else none
    | .error _ => none).eraseDups

/-- Lanes with a fault of one code. -/
def lanesWith (c : FCode) (e : List (FCode × Nat × Nat)) : List (Nat × Nat) := (e.filter fun f => f.1 = c).map fun f => f.2

/-- `jmpi` (R105): BRANCH_RANGE, then ALIGN, then the table's translation in the order of Table 06-2; then every lane goes its
way. -/
def execJmpi (g : BitVec 3) (d a b : BitVec 7) (s : State) : Host.Outcome State Fault Refusal :=
  wordMove (.jmpi g d a b) s fun x s => do
    let n := d.toNat
    let base := (x.g.pair x.b 0).toNat
    x.common s .branchRange ((lanesOf x.act).filter fun l => decide (n ≤ (x.g.code x.a l).toNat))
    if base % 4 ≠ 0 then throw (x.raise s .align)
    if (lanesOf x.act).any fun l => x.earlierPend s (base + 4 * (x.g.code x.a l).toNat) 4 || !s.vaReady x.core x.ctx .r (base + 4 * (x.g.code x.a l).toNat) 4 then
      throw (x.hold s)
    let (s', t, e) := x.readTable base s (lanesOf x.act)
    let s' := (x.tableLines s base).foldl (fun s ln => s.l1Served x.core ln) s'
    let (x, s) ← x.laneFaults (if e.isEmpty then s' else s) .address (lanesWith .address e)
    let (x, s) ← x.laneFaults s .translation (lanesWith .translation e)
    let (x, s) ← x.laneFaults s .permission (lanesWith .permission e)
    let (x, s) ← x.laneFaults s .stage2 (lanesWith .stage2 e)
    .ok (x.branch s fun l => branchTo x.pc (Tab.get 0 t l))

/-! ## Exit, regang, yield -/

/-- `exit` (R39, R106, R378): the enabled lanes of the fragment leave for good; the disabled ones go on. -/
def execExit (s : State) : Host.Outcome State Fault Refusal :=
  wordMove .exit s fun x s =>
    if x.g.frame.isSome then .error (x.raise s .illegal)
    else
      let s := s.modGrp x.t x.k fun g => (g.advance x.fq x.pc x.next).exitLanes x.en
      .error ((s.retire x false).endIfGone x.t x.k x.pc)

/-- Lanes added to the park entry of an address (R102 step 1). -/
def addPark (pc : DWord) (m : BitVec 4) : List Path → List Path
  | [] => [Path.mk pc m]
  | p :: t => if p.pc = pc then { p with mask := p.mask ||| m } :: t else p :: addPark pc m t

/-- A quad after `regang` at an address: its path parks and its deferral stack pops (R102). -/
def Quad.regang (q : Quad) (pc : DWord) : Quad :=
  match q.path with
  | none => q
  | some p => { q with park := addPark pc p.mask q.park, path := q.defer.head?, defer := q.defer.tail }

/-- `regang` (R102). -/
def execRegang (s : State) : Host.Outcome State Fault Refusal :=
  wordMove .regang s fun x s => .ok (s.modGrp x.t x.k fun g => g.modQuads x.fq fun _ q => q.regang x.pc)

/-- The other groups of a core that could issue, with their numbers of issues so far. -/
def State.others (s : State) (core t k : Nat) : List (Nat × Nat × Nat) :=
  s.teams.flatMap fun (u, T) => if T.core = core then T.groups.filterMap fun (j, g) =>
    if g.canIssue && !(u = t && j = k) then some (u, j, g.issues) else none else []

/-- `yield` (R107): no architectural state changes; the fragment gives way at the next opportunity, and the group to every other
ready group of the core. -/
def execYield (s : State) : Host.Outcome State Fault Refusal :=
  wordMove .yield s fun x s => .error ((s.retire x true).modGrp x.t x.k fun g => { g with yielded := some x.next, gave := s.others x.core x.t x.k })

/-! ## Traps and the handler's return -/

/-- `brk` (R108). -/
def execBrk (s : State) : Host.Outcome State Fault Refusal :=
  wordMove .brk s fun x s => .error (x.raise s .trap 0x80000000)

/-- `trap` (R212). -/
def execTrap (c : BitVec 12) (s : State) : Host.Outcome State Fault Refusal :=
  wordMove (.trap c) s fun x s => .error (x.raise s .trap (c.setWidth 32))

/-- `rfe` (R213, R378). -/
def execRfe (s : State) : Host.Outcome State Fault Refusal :=
  wordMove .rfe s fun x s =>
    match x.g.frame with
    | none => .error (x.raise s .illegal)
    | some fr =>
      if !s.vaReady x.core x.ctx .r fr.toNat 16384 then .error (x.hold s)
      else match s.readVA x.core x.ctx fr.toNat 16384 with
      | .error (f, a) => .error (s.handlerLost x.t x.T f a)
      | .ok b =>
        match x.g.fromFrame b with
        | none => .error (x.raise s .illegal)
        | some g => .error (s.leaveHandler x.t x.k g fr)

/-! ## Hints (R61 to R65) -/

/-- A hint is pending from now on, and its fragment issues the next word. -/
def Iss.hint (x : Iss) (s : State) (f : Hints → Hints) : State :=
  (s.retire { x with last := true } true).modGrp x.t x.k fun g => { g with hints := f x.g.hints, hintPc := some x.next }

/-- `hint` of kind IMM. -/
def execHintImm (h : BitVec 23) (s : State) : Host.Outcome State Fault Refusal :=
  wordMove (.hintImm h) s fun x s => .error (x.hint s fun y => { y with imm := some h })

/-- `hint` of kind MOD. -/
def execHintMod (h : BitVec 18) (s : State) : Host.Outcome State Fault Refusal :=
  wordMove (.hintMod h) s fun x s => .error (x.hint s fun y => { y with mod := some (h.setWidth 23) })

/-- `hint` of kind REP. -/
def execHintRep (c : BitVec 6) (d a b : BitVec 2) (s : State) : Host.Outcome State Fault Refusal :=
  wordMove (.hintRep c d a b) s fun x s =>
    .error (x.hint s fun y => { y with rep := some ((c ++ d ++ a ++ b : BitVec 12).setWidth 23) })

/-- A block of code fetched into a pod's instruction cache (R62, R295): 8,192 blocks of 128 bytes, newest first. -/
def State.icacheAdd (s : State) (pod blk : Nat) : State :=
  let l := Tab.get [] s.icache pod
  { s with icache := Tab.set [] s.icache pod ((blk :: l.filter (· ≠ blk)).take 8192) }

/-- `hint` of kind PREF: its block is fetched unless PFOFF is 1 (R242), and an address that does not translate is ignored. -/
def execHintPref (h : BitVec 23) (s : State) : Host.Outcome State Fault Refusal :=
  wordMove (.hintPref h) s fun x s =>
    let va := (x.pc + h.signExtend 64 * 4).toNat
    let s := if !vaOk va || (s.core x.core).cfg.getLsbD 2 then s else match s.trans x.core x.ctx .x va with
      | .ok t => if s.vaReady x.core x.ctx .x va 4 then (s.hbmRead t.pa (dieOf x.core)).icacheAdd (podOf x.core) (lineOf t.pa) else s
      | .error _ => s
    .error (x.hint s fun y => { y with pref := some h })

/-- `hint` of kind BAR. -/
def execHintBar (h : BitVec 15) (s : State) : Host.Outcome State Fault Refusal :=
  wordMove (.hintBar h) s fun x s => .error (x.hint s fun y => { y with bar := some (h.setWidth 23) })

end Sys2Proof.Machine
end

