-- ==== Sys2Proof/Machine/MemIssue.lean ====
section
/-! DEFINITION. Issuing memory accesses: addresses (R136, R137), the checks of Table 06-2 (R138), hits in the L1 (R258), and
the operations that issue leaves in flight (R140, R161). -/

namespace Sys2Proof.Machine

/-! ## Addresses -/

/-- Bytes of an access by its size code (Table 03-16). -/
def sizeBytes (z : BitVec 3) : Nat :=
  match z.toNat with
  | 0 | 5 => 1
  | 1 | 6 => 2
  | 2 => 4
  | 3 => 8
  | _ => 16

/-- The load sign-extends. -/
def sizeSigned (z : BitVec 3) : Bool := z = 5 || z = 6

/-- The scaled offset of format M: six bits signed, or 29 bits under an IMM hint (R62). -/
def memOff (h : Option (BitVec 23)) (m : BitVec 6) (scale : Nat) : DWord :=
  (match h with
   | some hi => ((hi ++ m : BitVec 29).signExtend 64 : DWord)
   | none => m.signExtend 64) * BitVec.ofNat 64 scale

/-- A lane's global address in format M: its pair plus the scaled offset (R136). -/
def Iss.addrM (x : Iss) (m : BitVec 6) (scale : Nat) (l : Nat) : Nat := (x.g.pair x.a l + memOff x.g.hints.imm m scale).toNat

/-- A lane's global address in format X. -/
def Iss.addrX (x : Iss) (c : BitVec 2) (l : Nat) : Nat :=
  (x.g.pair x.a l + ((x.g.code x.b l).setWidth 64 <<< (2 * c.toNat))).toNat

/-- A lane's global address in format T. -/
def Iss.addrT (x : Iss) (l : Nat) : Nat := (x.g.pair x.a l).toNat

/-- A lane's stash address in format M (R137). -/
def Iss.stashM (x : Iss) (m : BitVec 6) (scale : Nat) (l : Nat) : Nat :=
  (x.g.code x.a l + (memOff x.g.hints.imm m scale).setWidth 32).toNat

/-- The global address of `sld` and `sst`. -/
def Iss.addrS (x : Iss) (m : BitVec 6) (scale : Nat) : Nat := (x.g.spair x.a + memOff x.g.hints.imm m scale).toNat

/-! ## Stash references (R137) -/

/-- The team of a cluster that a member field names: the issuing team for 0, else the one of rank `m − 1`. -/
def State.member (s : State) (t : Nat) (T : Team) (m : Nat) : Option Nat :=
  if m = 0 then some t
  else if T.kind ≠ .team then (if m = 1 then some t else none)
  else (s.teams.find? fun (_, U) => U.kind = .team && U.ctx = T.ctx && U.lid = T.lid && U.cluster = T.cluster && U.rank = m - 1).map Prod.fst

/-- The team and offset that a stash address names for an access of `n` bytes; none where it raises STASH_RANGE. -/
def State.stashRef (s : State) (t : Nat) (T : Team) (a n : Nat) : Option (Nat × Nat) :=
  if 2 ^ 24 ≤ a ∨ bitOf a 19 then none
  else match s.member t T (a / 2 ^ 20 % 16) with
    | none => none
    | some u => match s.team u with
      | none => none
      | some U => if a % 2 ^ 19 + n ≤ U.kobj.stash then some (u, a % 2 ^ 19) else none

/-- A range of a team's stash touches a live barrier object. -/
def Team.overBar (T : Team) (off n : Nat) : Bool := T.bars.any fun e => decide (e.1 < off + n) && decide (off < e.1 + 16)

/-! ## Checks of Table 06-2 -/

/-- Active lanes that fail a test, with their addresses. -/
def Iss.failing (x : Iss) (addr : Nat → Nat) (bad : Nat → Bool) : List (Nat × Nat) :=
  (lanesOf x.act).filterMap fun l => if bad l then some (l, addr l) else none

/-- Check 1 for every active lane. -/
def Iss.aligned (x : Iss) (s : State) (al : Nat) (addr : Nat → Nat) : Except State (Iss × State) :=
  x.laneFaults s .align (x.failing addr fun l => addr l % al ≠ 0)

/-- The lanes whose translation fails with a code. -/
def failed (r : List (Nat × Except FCode Tr)) (addr : Nat → Nat) (f : FCode) : List (Nat × Nat) :=
  r.filterMap fun (l, e) => match e with
    | .error c => if c = f then some (l, addr l) else none
    | .ok _ => none

/-- The translations that hold, by lane. -/
def passed (r : List (Nat × Except FCode Tr)) : Tab Tr :=
  r.filterMap fun (l, e) => match e with
    | .error _ => none
    | .ok t => some (l, t)

/-- The tables of every active lane's address can be read now. -/
def Iss.lanesReady (x : Iss) (s : State) (addr : Nat → Nat) : Bool := (lanesOf x.act).all fun l => s.tablesReady x.core x.ctx (addr l)

/-- Checks 2 to 5 for every active lane, each over all lanes before the next; the translations of the lanes that go on. The word waits while
a table that translates a lane's address cannot be read (R402). -/
def Iss.globals (x : Iss) (s : State) (k : Acc) (addr : Nat → Nat) : Except State (Iss × State × Tab Tr) := do
  let (x, s) ← x.laneFaults s .address (x.failing addr fun l => !vaOk (addr l))
  if !x.lanesReady s addr then throw (x.hold s)
  let r := (lanesOf x.act).map fun l => (l, s.trans x.core x.ctx k (addr l))
  let (x, s) ← x.laneFaults s .translation (failed r addr .translation)
  let (x, s) ← x.laneFaults s .permission (failed r addr .permission)
  let (x, s) ← x.laneFaults s .stage2 (failed r addr .stage2)
  return (x, s, passed r)

/-- Check 2 for stash addresses of `n` bytes; the teams and offsets that they name. -/
def Iss.stashes (x : Iss) (s : State) (n : Nat) (addr : Nat → Nat) : Except State (Iss × State × Tab (Nat × Nat)) := do
  let r := (lanesOf x.act).map fun l => (l, s.stashRef x.t x.T (addr l) n)
  let (x, s) ← x.laneFaults s .stashRange (x.failing addr fun l => r.any fun e => e.1 = l && e.2.isNone)
  return (x, s, r.filterMap fun (l, e) => e.map fun v => (l, v))

/-- Check 6 for stash writes of `n` bytes. -/
def Iss.clobbers (x : Iss) (s : State) (n : Nat) (addr : Nat → Nat) (r : Tab (Nat × Nat)) : Except State (Iss × State) :=
  x.laneFaults s .barrierClobber (x.failing addr fun l => match Tab.find r l with
    | some (u, off) => match s.team u with
      | some U => U.overBar off n
      | none => false
    | none => false)

/-- Checks 1 to 5 of an access made once per issue: FAUX 0 and the address in FADDR. -/
def Iss.one (x : Iss) (s : State) (al : Nat) (k : Acc) (va : Nat) : Except State Tr :=
  if va % al ≠ 0 then .error (x.raiseAt s .align va)
  else if !vaOk va then .error (x.raiseAt s .address va)
  else if !s.tablesReady x.core x.ctx va then .error (x.hold s)
  else match s.trans x.core x.ctx k va with
    | .error f => .error (x.raiseAt s f va)
    | .ok t => .ok t

/-- Checks 2 to 5 for reading a record of `n` bytes, a multiple of 16, once per issue, with the bytes. A record with a poisoned sector has free
bytes, and its load raises UNCORRECTABLE imprecisely (R269), which stops a courier at the word (R239). The read waits for earlier accesses of the agent to its bytes (R351), and while
it cannot be made (R402). -/
def Iss.record (x : Iss) (s : State) (va n : Nat) : Except State (List Byte × State) :=
  if !s.vaReady x.core x.ctx .r va n then .error (x.hold s)
  else match s.readVA x.core x.ctx va n with
  | .error (f, a) => .error (x.raiseAt s f a)
  | .ok _ =>
    if x.earlierPend s va n then .error (x.hold s)
    else match s.readClean x.core x.ctx va n with
    | .ok b => .ok (b, s.countVA x.core x.ctx .r va n)
    | .error (_, a) =>
      let (b, t) := s.freeRun (n / 16)
      let t := t.soften x.owner x.pc a (lanesOf x.en)
      if x.onCourier then .error t else .ok (b, t)

/-! ## Parts (R140) -/

/-- A lane's share joined to the part of its sector. -/
def addLane (mk : Part) (a : LaneAcc) : List Part → List Part
  | [] => [{ mk with lanes := [a] }]
  | p :: t => if p.place = mk.place ∧ p.sector = mk.sector then { p with lanes := p.lanes ++ [a] } :: t else p :: addLane mk a t

/-- The part of a global share. -/
def State.homePart (s : State) (tr : Tr) : Part :=
  { place := .home, sector := sectorOf tr.pa, lanes := [], sent := s.home tr.pa, leaf := tr.leaf, dset := tr.d, ipa := tr.ipa, lsz := tr.lsz }

/-- The parts of a global access; `acc` gives each lane's share from its lane and physical address. -/
def State.homeParts (s : State) (r : Tab Tr) (acc : Nat → Nat → LaneAcc) : List Part :=
  r.foldl (fun ps (l, tr) => addLane (s.homePart tr) (acc l tr.pa) ps) []

/-- The parts of a stash access. -/
def stashParts (r : Tab (Nat × Nat)) (acc : Nat → Nat → LaneAcc) : List Part :=
  r.foldl (fun ps (l, (u, off)) => addLane { place := .stash u, sector := off / 64, lanes := [] } (acc l off) ps) []

/-! ## Replacement in L2 (R143, R260, R264, R391) -/

/-- A line leaves L2: dirty data is written back, and its horizon is kept (R260). -/
def State.evict (s : State) (ln : Nat) : State := (s.reportPoison ln).modLine ln Line.left

/-- The order in which L2 replaces lines: stream lines first, keep lines last (R143). -/
def Line.l2Rank (l : Line) : Nat := if l.policy = 1 then 0 else if l.policy = 2 then 2 else 1

/-- Lines that a home keeps in its horizon buffer: absent ones with a horizon to come (R260). -/
def State.buffered (s : State) (home : Nat × Nat) : Nat :=
  (s.lines.filter fun (n, l) => !l.present && decide (s.homeNow n < l.horizon) && s.home (n * 128) = home).length

/-- A line that a fill of another may replace: in the same set, not pinned, with its horizon over or room to keep it (R260, R265). -/
def State.replaceable (s : State) (line v : Nat) (l : Line) : Bool :=
  v ≠ line && l.pins = 0 && (decide (l.horizon ≤ s.homeNow line) || decide (s.buffered (s.home (line * 128)) < 4096))

/-- The lines of host memory that the device caches, of 4,096 (R391), stand at their limit for a fill of another. -/
def State.hostFull (s : State) (ln : Nat) : Bool :=
  isHost (ln * 128) && decide (4096 ≤ (s.lines.filter fun (n, l) => l.present && isHost (n * 128)).length)

/-- The victim named is one that the slice may choose: none of the set that could go ranks before it. -/
def State.mayEvict (s : State) (line v : Nat) : Bool :=
  (s.setLines line).any fun e => e.1 = v && s.replaceable line v e.2 &&
    (s.setLines line).all fun f => !s.replaceable line f.1 f.2 || decide (e.2.l2Rank ≤ f.2.l2Rank)

/-- A fill of a line finds room, or makes it in the place of the victim named: of the line's full set, or a line of host memory where those
are at their limit (R260, R391). -/
def State.l2Fits (s : State) (ln : Nat) : Option Nat → Bool
  | none => !s.setFull ln && !s.hostFull ln
  | some v =>
    if s.setFull ln then s.mayEvict ln v && (!s.hostFull ln || isHost (v * 128))
    else s.hostFull ln && isHost (v * 128) && (s.line v).present && s.replaceable ln v (s.line v)

/-- Room for a fill: none needed, or the first line that may make it; no answer where the fill waits. -/
def State.roomFor (s : State) (ln : Nat) : Option (Option Nat) :=
  if s.l2Fits ln none then some none
  else ((s.lines.map Prod.fst).find? fun v => s.l2Fits ln (some v)).map some

/-- A line brought into L2 in the place of a victim. -/
def State.fillOver (s : State) (ln : Nat) (victim : Option Nat) (rc : Nat) (policy : BitVec 2) (die : Nat) : State :=
  (match victim with
   | some v => s.evict v
   | none => s).fillLine ln rc policy die

/-! ## Issue -/

/-- A group's miss in the L1 on a line that its own fill had brought and lost: its score rises, and the throttle may engage
(R294). The threshold and NMEM adapt in a way the spec leaves open: free values. -/
def State.scoreMiss (s : State) (core ln : Nat) (w : Who) : State :=
  match w with
  | .courier _ => s
  | .grp t k =>
    let c := s.core core
    if c.cfg.getLsbD 0 && c.victims.contains (ln, t, k) then
      let s := s.modGrp t k fun g => { g with score := g.score + 1 }
      let s := s.modCore core fun c => { c with victims := c.victims.erase (ln, t, k) }
      let sum := s.scoreSum core
      let (v, s) := s.free
      let th := (v.extractLsb' 0 32).toNat
      let floor := (c.cfg.extractLsb' 4 4).toNat + 1
      (s.modCore core fun c =>
        if th < sum then { c with threshold := th, thr := true, nmem := min 16 (floor + (v.extractLsb' 32 4).toNat) } else { c with threshold := th }).throttleEase core
    else s

/-- A part of a load read in the core's L1 where its sector is valid under a lease and no earlier access of the agent to the same
bytes is outstanding (R258, R351). -/
def State.tryHit (s : State) (id : Nat) (o : MemOp) (p : Part) : State × Part :=
  if !o.fills p || s.blocked id o p then (s, p)
  else match s.l1Hit o.core (p.sector * 64) with
    | none => (s.scoreMiss o.core p.line o.who, p)
    | some l =>
      (s, { p with lanes := p.fromL1 o l, st := .done (s.dieNow (dieOf o.core)), leased := true })

def State.tryHits (s : State) (id : Nat) (o : MemOp) : List Part → State × List Part
  | [] => (s, [])
  | p :: t =>
    let (s, p) := s.tryHit id o p
    let (s, t) := s.tryHits id o t
    (s, p :: t)

/-- Every L1 line that served some of the parts has served one read (R267). -/
def State.countHits (s : State) (core : Nat) (ps : List Part) : State :=
  (((ps.filter Part.leased).map Part.line).eraseDups).foldl (fun s ln => s.l1Served core ln) s

/-- A request that holds a miss-status entry of its core: one that no L1 line has served (R15, R19). -/
def Part.misses (p : Part) : Bool := p.place = .home && !p.leased

/-- The miss-status entries that an operation holds. A pair addition goes to its home without one: no line comes back to the core
(R19, R200). -/
def MemOp.misses (o : MemOp) : Nat := if o.kind = .padd then 0 else (o.parts.filter Part.misses).length

/-- The miss-status entries of a core in use, of 1,024. -/
def State.missesOf (s : State) (core : Nat) : Nat := s.ops.foldl (fun n e => if e.2.core = core then n + e.2.misses else n) 0

/-- The core has the miss-status entries that an operation takes. -/
def State.missRoom (s : State) (o : MemOp) : Bool := decide (s.missesOf o.core + o.misses ≤ 1024)

/-- The operation leaves in flight, counted in its counter; the word waits while the counter stands at 1,024 (R161), or while its
core lacks the miss-status entries that its requests take (R19). -/
def Iss.issueOp (x : Iss) (s : State) (o : MemOp) : Except State State :=
  if (match o.ifc with | some i => decide (1024 ≤ x.g.ifc i) | none => false) || !s.missRoom o then .error (x.hold s)
  else
    let id := s.nextOp
    let (s, parts) := s.tryHits id o o.parts
    let s := s.countHits o.core parts
    let s := { s with nextOp := id + 1, ops := Tab.put s.ops id { o with parts := parts } }
    .ok (match o.ifc, x.who with
      | some i, .grp t k => s.modGrp t k fun g => g.modIfc i (· + 1)
      | _, _ => s)

/-- An operation of the issuing word. -/
def Iss.op (x : Iss) (kind : OpK) (size : Nat) (parts : List Part) : MemOp :=
  { who := x.owner, core := x.core, ctx := x.ctx, kind := kind, size := size, pc := x.pc, policy := x.g.hints.policy,
    rc := x.g.hints.readCount, parts := parts }

/-- The counter of an access by a group; the courier has none. -/
def Iss.count (x : Iss) (i : Nat) : Option Nat :=
  match x.who with
  | .grp _ _ => some i
  | .courier _ => none

/-- A lane's data of up to four registers. -/
def Iss.data (x : Iss) (c n l : Nat) : BitVec 128 :=
  (List.range n).foldl (fun v i => v ||| ((x.g.code (c + i) l).setWidth 128 <<< (32 * i))) 0

/-- Words of an access of some bytes. -/
def wordsOf (size : Nat) : Nat := if size ≤ 4 then 1 else size / 4

end Sys2Proof.Machine
end

