-- ==== Sys2Proof/Machine/Memory.lean ====
section
/-! DEFINITION. Loads, stores, gathers, tags, prefetch and lane copies (R139 to R147). -/

namespace Sys2Proof.Machine

/-- A load of one value per active lane from global memory. -/
def Iss.load (x : Iss) (s : State) (kind : OpK) (size : Nat) (addr : Nat → Nat) : Except State State := do
  let (x, s) ← x.aligned s size addr
  let (x, s, r) ← x.globals s .r addr
  let parts := s.homeParts r fun l pa => { lane := l, name := addr l, addr := pa }
  x.issueOp s { x.op kind size parts with dst := .vec x.d (wordsOf size), ifc := some 0 }

/-- A store of one value per active lane to global memory. -/
def Iss.store (x : Iss) (s : State) (size : Nat) (addr : Nat → Nat) : Except State State := do
  let (x, s) ← x.aligned s size addr
  let (x, s, r) ← x.globals s .w addr
  let parts := s.homeParts r fun l pa => { lane := l, name := addr l, addr := pa, data := x.data x.d (wordsOf size) l }
  x.issueOp s { x.op .store size parts with ifc := some 3 }

/-- `ld` (R139). -/
def execLd (g : BitVec 3) (d a : BitVec 7) (z : BitVec 3) (m : BitVec 6) (s : State) : Host.Outcome State Fault Refusal :=
  word (.ld g d a z m) s fun x s => x.load s (.load (sizeSigned z)) (sizeBytes z) (x.addrM m (sizeBytes z))

/-- `st` (R139). -/
def execSt (g : BitVec 3) (d a : BitVec 7) (z : BitVec 3) (m : BitVec 6) (s : State) : Host.Outcome State Fault Refusal :=
  word (.st g d a z m) s fun x s => x.store s (sizeBytes z) (x.addrM m (sizeBytes z))

/-- `lds` (R139): performed at the stash that R137 names. -/
def execLds (g : BitVec 3) (d a : BitVec 7) (z : BitVec 3) (m : BitVec 6) (s : State) : Host.Outcome State Fault Refusal :=
  word (.lds g d a z m) s fun x s => do
    let size := sizeBytes z
    let addr := x.stashM m size
    let (x, s) ← x.aligned s size addr
    let (x, s, r) ← x.stashes s size addr
    let parts := stashParts r fun l off => { lane := l, name := addr l, addr := off }
    x.issueOp s { x.op (.load (sizeSigned z)) size parts with dst := .vec x.d (wordsOf size) }

/-- `sts` (R139, R156). -/
def execSts (g : BitVec 3) (d a : BitVec 7) (z : BitVec 3) (m : BitVec 6) (s : State) : Host.Outcome State Fault Refusal :=
  word (.sts g d a z m) s fun x s => do
    let size := sizeBytes z
    let addr := x.stashM m size
    let (x, s) ← x.aligned s size addr
    let (x, s, r) ← x.stashes s size addr
    let (x, s) ← x.clobbers s size addr r
    let parts := stashParts (r.filter fun e => x.act.getLsbD e.1) fun l off => { lane := l, name := addr l, addr := off, data := x.data x.d (wordsOf size) l }
    x.issueOp s (x.op .store size parts)

/-- `sld` (R139): once per issue, where a lane is active. -/
def execSld (g : BitVec 3) (d a : BitVec 6) (z : BitVec 3) (m : BitVec 6) (s : State) : Host.Outcome State Fault Refusal :=
  word (.sld g d a z m) s fun x s =>
    if x.act = 0 then .ok s
    else do
      let size := sizeBytes z
      let va := x.addrS m size
      let tr ← x.one s size .r va
      let part := { s.homePart tr with lanes := [{ lane := 0, name := va, addr := tr.pa }] }
      x.issueOp s { x.op (.load (sizeSigned z)) size [part] with dst := .scal x.d (wordsOf size), ifc := x.count 0 }

/-- `sst` (R139): once per issue, where a lane is active. -/
def execSst (g : BitVec 3) (d a : BitVec 6) (z : BitVec 3) (m : BitVec 6) (s : State) : Host.Outcome State Fault Refusal :=
  word (.sst g d a z m) s fun x s =>
    if x.act = 0 then .ok s
    else do
      let size := sizeBytes z
      let va := x.addrS m size
      let tr ← x.one s size .w va
      let data : BitVec 128 := if size = 8 then (x.g.spair x.d).setWidth 128 else (x.g.sreg x.d).setWidth 128
      let part := { s.homePart tr with lanes := [{ lane := 0, name := va, addr := tr.pa, data := data }] }
      x.issueOp s { x.op .store size [part] with ifc := x.count 3 }

/-- `ldx` (R141). -/
def execLdx (g : BitVec 3) (d a b : BitVec 7) (c : BitVec 2) (s : State) : Host.Outcome State Fault Refusal :=
  word (.ldx g d a b c) s fun x s => x.load s (.load false) 4 (x.addrX c)

/-- `stx` (R141). -/
def execStx (g : BitVec 3) (d a b : BitVec 7) (c : BitVec 2) (s : State) : Host.Outcome State Fault Refusal :=
  word (.stx g d a b c) s fun x s => x.store s 4 (x.addrX c)

/-- The lanes of a gather that break R142: those outside the 4 KiB range of the lowest lane, else the one that names a
seventeenth distinct word. -/
def Iss.gatherBad (x : Iss) (addr : Nat → Nat) : List Nat :=
  match lanesOf x.act with
  | [] => []
  | l0 :: ls =>
    let out := (l0 :: ls).filter fun l => addr l / 4096 ≠ addr l0 / 4096
    if !out.isEmpty then out
    else
      let seen := (l0 :: ls).foldl (fun (acc : List Nat × List Nat) l =>
        if acc.1.contains (addr l) then acc
        else if 16 ≤ acc.1.length then (acc.1, acc.2 ++ [l]) else (addr l :: acc.1, acc.2)) ([], [])
      seen.2

/-- A lane's share joined to the part of its word. -/
def addWord (mk : Part) (a : LaneAcc) : List Part → List Part
  | [] => [{ mk with lanes := [a] }]
  | p :: t => if p.lanes.any fun b => b.addr = a.addr then { p with lanes := p.lanes ++ [a] } :: t else p :: addWord mk a t

/-- `hgath` (R142): each distinct word read at its home as a load of its own, and no line filled. -/
def execHgath (g : BitVec 3) (d a b : BitVec 7) (c : BitVec 2) (s : State) : Host.Outcome State Fault Refusal :=
  word (.hgath g d a b c) s fun x s => do
    let addr := x.addrX c
    let (x, s) ← x.aligned s 4 addr
    x.common s .operand (x.gatherBad addr)
    let (x, s, r) ← x.globals s .r addr
    let parts := r.foldl (fun ps (l, tr) => addWord (s.homePart tr) { lane := l, name := addr l, addr := tr.pa } ps) []
    x.issueOp s { x.op .hgath 4 parts with dst := .vec x.d 1, ifc := some 0 }

/-- The address of a sector. -/
def sectorBase (a : Nat) : Nat := a - a % 64

/-- `ldt` (R144): the tag of the sector that holds each address. -/
def execLdt (g : BitVec 3) (d a : BitVec 7) (m : BitVec 6) (s : State) : Host.Outcome State Fault Refusal :=
  word (.ldt g d a m) s fun x s => do
    let addr := x.addrM m 64
    let (x, s, r) ← x.globals s .r addr
    let parts := s.homeParts r fun l pa => { lane := l, name := sectorBase (addr l), addr := sectorBase pa }
    x.issueOp s { x.op .ldt 64 parts with dst := .vec x.d 1, ifc := some 0 }

/-- `stt` (R144). -/
def execStt (g : BitVec 3) (d a : BitVec 7) (m : BitVec 6) (s : State) : Host.Outcome State Fault Refusal :=
  word (.stt g d a m) s fun x s => do
    let addr := x.addrM m 64
    let (x, s, r) ← x.globals s .w addr
    let parts := s.homeParts r fun l pa => { lane := l, name := sectorBase (addr l), addr := sectorBase pa, data := (x.g.code x.d l).setWidth 128 }
    x.issueOp s { x.op .stt 64 parts with ifc := some 3 }

/-- A line fetched into the core's L1 under a lease, or into L2 alone under cache policy 3 or from host memory, which no L1 holds (R145,
R255); none where L2 has no room for it yet, or its home takes no request. -/
def State.prefetch (s : State) (x : Iss) (pa : Nat) : Option State :=
  let ln := lineOf pa
  let low := x.g.hints.policy = 3 || isHost pa
  if !s.takes pa then none
  else if (s.ownerOf ln).isSome || ((s.l1Hit x.core pa).isSome && !low) then some s
  else
    let s := if low then s else s.scoreMiss x.core ln x.owner
    let filled := if (s.line ln).present || isPeer pa then some s
      else (s.roomFor ln).map fun v => s.fillOver ln v x.g.hints.readCount x.g.hints.policy (dieOf x.core)
    if low then filled
    else filled.map fun s =>
      let l := Line.grant (s.homeNow ln) (s.line ln).served
      let s := s.modLine ln fun _ => l
      s.l1Fill x.core pa (s.homeNow ln + l.lease - s.leaseCut ln (dieOf x.core)) x.g.hints.readCount 0 x.g.hints.policy (x.t, x.k)

/-- The lines of some addresses fetched; one that fails a check is dropped (R145). -/
def State.prefetches (s : State) (x : Iss) : List Nat → Option State
  | [] => some s
  | va :: vas =>
    if !vaOk va then s.prefetches x vas
    else if !s.tablesReady x.core x.ctx va then none
    else match s.trans x.core x.ctx .r va with
      | .ok t => (s.prefetch x t.pa).bind fun s => s.prefetches x vas
      | .error _ => s.prefetches x vas

/-- `pf` (R145): it waits at issue while L2 has no room for a line that it fetches. -/
def execPf (g : BitVec 3) (a : BitVec 7) (m : BitVec 6) (s : State) : Host.Outcome State Fault Refusal :=
  word (.pf g a m) s fun x s => match s.prefetches x ((lanesOf x.act).map (x.addrM m 128)) with
    | some s => .ok s
    | none => .error (x.hold s)

/-- The barrier object that a BAR hint names in the issuing team's stash, at its generation (R62, R338). -/
def Iss.creditBar (x : Iss) : Option (Nat × Nat × BitVec 16) :=
  match x.g.hints.bar with
  | none => none
  | some p => (Tab.find x.T.bars (16 * (p.extractLsb' 0 15).toNat)).map fun gen => (x.t, 16 * (p.extractLsb' 0 15).toNat, gen)

/-- A lane copy's checks, global before stash, and its operation (R146). -/
def Iss.laneCopy (x : Iss) (s : State) (m : BitVec 6) (toStash : Bool) : Except State State := do
  let ga := x.addrM m 16
  let sa := fun l => (x.g.code x.d l).toNat
  let (x, s) ← x.aligned s 16 ga
  let (x, s, r) ← x.globals s (if toStash then .r else .w) ga
  let (x, s) ← x.aligned s 16 sa
  let (x, s, q) ← x.stashes s 16 sa
  let (x, s) ← if toStash then x.clobbers s 16 sa q else .ok (x, s)
  let at_ := fun l => match Tab.find q l with | some (u, off) => packStash u off | none => 0
  let parts := s.homeParts (r.filter fun e => x.act.getLsbD e.1) fun l pa => { lane := l, name := ga l, addr := pa, aux := at_ l, sname := sa l }
  x.issueOp s { x.op (if toStash then .cpaIn else .cpaOut) 16 parts with ifc := some 1, bar := x.creditBar }

/-- `cpa.in` (R146). -/
def execCpaIn (g : BitVec 3) (d a : BitVec 7) (m : BitVec 6) (s : State) : Host.Outcome State Fault Refusal :=
  word (.cpaIn g d a m) s fun x s => x.laneCopy s m true

/-- `cpa.out` (R146). -/
def execCpaOut (g : BitVec 3) (d a : BitVec 7) (m : BitVec 6) (s : State) : Host.Outcome State Fault Refusal :=
  word (.cpaOut g d a m) s fun x s => x.laneCopy s m false

end Sys2Proof.Machine
end

