-- ==== Sys2Proof/Machine/Atomics.lean ====
section
/-! DEFINITION. Atomics at the home or at a stash (R151 to R153, R156), and the hamper of a DETERMINISTIC launch (R154). -/

namespace Sys2Proof.Machine

/-- The launch is DETERMINISTIC (Table 11-1). -/
def Team.deterministic (T : Team) : Bool := T.kobj.mode = 2

/-- Words of an atomic's value. -/
def atomWords (k : AtomK) : Nat := atomSize k / 4

/-- A lane's data: the operand in the low 64 bits; for `cas` the compare value there and the new value above (R56). -/
def Iss.atomData (x : Iss) (k : AtomK) (l : Nat) : BitVec 128 :=
  match k with
  | .cas32 => (x.g.code (x.b + 1) l).setWidth 128 <<< 64 ||| (x.g.code x.b l).setWidth 128
  | .cas64 => (x.g.pair (x.b + 2) l).setWidth 128 <<< 64 ||| (x.g.pair x.b l).setWidth 128
  | _ => x.data x.b (atomWords k) l

/-! ## The hamper (R154, R211) -/

/-- Records that a core's hamper holds, of 2,048. -/
def State.hamperUsed (s : State) (core : Nat) : Nat :=
  s.hamper.foldl (fun n r => if r.loc = HLoc.core core then n + 1 else n) 0

/-- Free records of a context's spill log. -/
def State.spillRoom (s : State) (c : Nat) : Nat :=
  let x := s.ctx c
  x.hlogl.toNat / 32 - (x.hlogProd - x.hlogCons)

/-- The float atomics of the hamper by number. -/
def hamperCode : AtomK → Nat
  | .addF32 => 0
  | .addF16x2 => 1
  | .minF32 => 2
  | _ => 3

def hamperKind (n : Nat) : AtomK := if n = 0 then .addF32 else if n = 1 then .addF16x2 else if n = 2 then .minF32 else .maxF32

/-- The 32 bytes of a spilled record, in a layout of the model's own: virtual address (8), value (4), type, lane, GINT and whether the LID is a
pair launch's (1 each), TEAMN, LID, program order and epoch (4 each) (DESIGN CHOICE, log 27). -/
def HRec.bytes (r : HRec) : List Byte :=
  leBytes 8 r.va ++ leBytes 4 r.value.toNat ++ leBytes 1 (hamperCode r.k) ++ leBytes 1 r.lane ++ leBytes 1 r.gint ++ leBytes 1 (decide (2 ^ 33 ≤ r.lid)).toNat ++
  leBytes 4 r.teamn ++ leBytes 4 r.lid ++ leBytes 4 r.prog ++ leBytes 4 r.epoch

/-- A record of the spill log read back, at the place where its address lies now. -/
def readHRec (c : Nat) (b : List Byte) (t : Tr) : HRec :=
  let f := field b
  { ctx := c, lid := f 20 4 + (if f 15 1 = 1 then 2 ^ 33 else 0), pa := t.pa, va := f 0 8, k := hamperKind (f 12 1), value := BitVec.ofNat 64 (f 8 4), teamn := f 16 4, gint := f 14 1
    lane := f 13 1, prog := f 24 4, epoch := f 28 4, team := 0, loc := .spill, leaf := t.leaf, ipa := t.ipa, lsz := t.lsz, dset := t.d }

/-- Place `k` of a context's spill log. -/
def Ctx.hlogAddr (x : Ctx) (k : Nat) : Nat := x.hlog.toNat + 32 * (k % (x.hlogl.toNat / 32))

/-- A record written to the context's spill log at the ring's producer; HSPILL counts it. -/
def State.spillOne (s : State) (r : HRec) : State :=
  let x := s.ctx r.ctx
  let s := match s.writeVA ioCore r.ctx (x.hlogAddr x.hlogProd) r.bytes with
    | .ok s => s
    | .error _ => s
  (s.modCtx r.ctx fun y => { y with hlogProd := y.hlogProd + 1 }).countEvent r.ctx 0x038

/-- One lane's record, in the hamper where it has room, else in the spill log. -/
def State.hamperPut (s : State) (r : HRec) (core : Nat) : State :=
  if s.hamperUsed core < 2048 then { s with hamper := s.hamper ++ [{ r with loc := .core core }] }
  else
    let s := { s with hamper := s.hamper ++ [{ r with loc := .spill }] }
    s.spillOne r

/-- A hamper-routed atomic: a record for every active lane, or a wait while hamper and log are full, or while IFC3, which counts it, is
full (R227). -/
def Iss.toHamper (x : Iss) (s : State) (k : AtomK) (r : Tab Tr) : Except State State :=
  let need := (lanesOf x.act).length
  let free := 2048 - s.hamperUsed x.core
  if free + s.spillRoom x.ctx < need then .error (x.stall s)
  else if 1024 ≤ x.g.ifc3 then .error (x.hold s)
  else
    let s := r.foldl (fun s (l, tr) =>
      if x.act.getLsbD l then
        s.hamperPut { ctx := x.ctx, lid := x.T.lid, pa := tr.pa, va := x.addrT l, k := k, value := (x.g.code x.b l).setWidth 64, teamn := x.g.id.teamn.toNat, gint := x.k,
                      lane := l, prog := x.g.hcount, epoch := x.g.epoch, team := x.t, loc := .core x.core, leaf := tr.leaf, ipa := tr.ipa, lsz := tr.lsz, dset := tr.d } x.core
      else s) s
    .ok (s.modGrp x.t x.k fun g => { g with hcount := g.hcount + 1 })

/-! ## Global atomics -/

/-- A global atomic: the routing check of R154, the checks of Table 06-2, and the access or the hamper records. -/
def Iss.atomic (x : Iss) (s : State) (k : AtomK) : Except State State := do
  let routed := x.T.deterministic && atomHampers k && !x.g.hints.now
  if routed && x.d ≠ 127 then throw (x.raise s .operand)
  let (x, s) ← x.aligned s (atomSize k) x.addrT
  let (x, s, r) ← x.globals s .rw x.addrT
  if routed then x.toHamper s k r
  else
    let parts := s.homeParts r fun l pa => { lane := l, name := x.addrT l, addr := pa, data := x.atomData k l }
    let dst : Dst := if x.d = 127 then Dst.none else .vec x.d (atomWords k)
    x.issueOp s { x.op (.atomic k) (atomSize k) parts with dst := dst, ifc := some (if x.d = 127 then 3 else 0) }

/-- `atom.add` (Table 03-17). -/
def execAtomAdd (g : BitVec 3) (d a b : BitVec 7) (t : BitVec 2) (s : State) : Host.Outcome State Fault Refusal :=
  word (.atomAdd g d a b t) s fun x s =>
    x.atomic s (if t = 0 then .addI32 else if t = 1 then .addF32 else if t = 2 then .addI64 else .addF16x2)

/-- `atom.min`. -/
def execAtomMin (g : BitVec 3) (d a b : BitVec 7) (t : BitVec 2) (s : State) : Host.Outcome State Fault Refusal :=
  word (.atomMin g d a b t) s fun x s =>
    x.atomic s (if t = 0 then .minI32 else if t = 1 then .minN32 else if t = 2 then .minF32 else .minI64)

/-- `atom.max`. -/
def execAtomMax (g : BitVec 3) (d a b : BitVec 7) (t : BitVec 2) (s : State) : Host.Outcome State Fault Refusal :=
  word (.atomMax g d a b t) s fun x s =>
    x.atomic s (if t = 0 then .maxI32 else if t = 1 then .maxN32 else if t = 2 then .maxF32 else .maxI64)

/-- `atom.and`. -/
def execAtomAnd (g : BitVec 3) (d a b : BitVec 7) (s : State) : Host.Outcome State Fault Refusal :=
  word (.atomAnd g d a b) s fun x s => x.atomic s .and32

/-- `atom.or`. -/
def execAtomOr (g : BitVec 3) (d a b : BitVec 7) (s : State) : Host.Outcome State Fault Refusal :=
  word (.atomOr g d a b) s fun x s => x.atomic s .or32

/-- `atom.xor`. -/
def execAtomXor (g : BitVec 3) (d a b : BitVec 7) (s : State) : Host.Outcome State Fault Refusal :=
  word (.atomXor g d a b) s fun x s => x.atomic s .xor32

/-- `atom.exch`. -/
def execAtomExch (g : BitVec 3) (d a b : BitVec 7) (s : State) : Host.Outcome State Fault Refusal :=
  word (.atomExch g d a b) s fun x s => x.atomic s .exch

/-- `cas` (R152). -/
def execCas (g : BitVec 3) (d a b : BitVec 7) (t : BitVec 1) (s : State) : Host.Outcome State Fault Refusal :=
  word (.cas g d a b t) s fun x s => x.atomic s (if t = 0 then .cas32 else .cas64)

/-- `satom` (R153): at the stash, never in the hamper. It counts in neither IFC0 nor IFC3 (log 52). -/
def execSatom (g : BitVec 3) (d a b : BitVec 7) (t : BitVec 2) (s : State) : Host.Outcome State Fault Refusal :=
  word (.satom g d a b t) s fun x s => do
    let k : AtomK := if t = 0 then .addI32 else if t = 1 then .addF32 else if t = 2 then .maxN32 else .exch
    let addr := fun l => (x.g.code x.a l).toNat
    let (x, s) ← x.aligned s 4 addr
    let (x, s, r) ← x.stashes s 4 addr
    let (x, s) ← x.clobbers s 4 addr r
    let parts := stashParts (r.filter fun e => x.act.getLsbD e.1) fun l off => { lane := l, name := addr l, addr := off, data := x.atomData k l }
    x.issueOp s { x.op (.atomic k) 4 parts with dst := if x.d = 127 then Dst.none else .vec x.d 1 }

end Sys2Proof.Machine
end

