-- ==== Sys2Proof/Machine/Fences.lean ====
section
/-! DEFINITION. Fences (R157 to R160), waits on counters, values and time (R161 to R165), and `wpred`, `succ` and `drain`
(R209 to R211). -/

namespace Sys2Proof.Machine

/-! ## Fences -/

/-- A fence stands pending from now on; it orders the accesses issued so far (R158). -/
def Iss.addFence (x : Iss) (s : State) (k : FenceK) (scope : Nat) : State :=
  let f : Fence := { kind := k, scope := scope, bound := s.nextOp }
  match x.who with
  | .grp t j => s.modGrp t j fun g => { g with fences := g.fences ++ [f] }
  | .courier c => s.modCore c fun q => { q with courier := q.courier.map fun (y : Courier) => { y with fences := y.fences ++ [f] } }

/-- Every operation of the agent has been performed. -/
def Iss.allPerformed (x : Iss) (s : State) : Bool := s.ops.all fun (_, o) => o.who ≠ x.owner || o.performed

/-- A fence issues: at system scope a release first writes back the dirty lines of the team's windows (R160). -/
def Iss.fence (x : Iss) (s : State) (k : FenceK) (scope : Nat) : Except State State :=
  if scope = 4 && k ≠ .acq && !(s.winsOf x.t).isEmpty && (match x.who with | .grp _ _ => true | .courier _ => false) then
    if !x.allPerformed s || (s.winsOf x.t).any (s.winHeld x.t) then .error (x.hold s)
    else match s.flushWins x.t (s.winsOf x.t) with
      | .error (f, a, w, s) => .error (x.raise s f (BitVec.ofNat 32 w) (BitVec.ofNat 64 a) a)
      | .ok s => .ok (x.addFence s k scope)
  else .ok (x.addFence s k scope)

/-- `fence.acq` (R158). -/
def execFenceAcq (a : BitVec 6) (s : State) : Host.Outcome State Fault Refusal :=
  word (.fenceAcq a) s fun x s => x.fence s .acq a.toNat

/-- `fence.rel` (R158, R160). -/
def execFenceRel (a : BitVec 6) (s : State) : Host.Outcome State Fault Refusal :=
  word (.fenceRel a) s fun x s => x.fence s .rel a.toNat

/-- `fence.ar` (R158, R160). -/
def execFenceAr (a : BitVec 6) (s : State) : Host.Outcome State Fault Refusal :=
  word (.fenceAr a) s fun x s => x.fence s .ar a.toNat

/-- `fence.ns` (R158, R160). -/
def execFenceNs (a : BitVec 6) (s : State) : Host.Outcome State Fault Refusal :=
  word (.fenceNs a) s fun x s => x.fence s .ns a.toNat

/-- The conditions of a fence hold (R158). -/
def State.fenceDone (s : State) (w : Who) (f : Fence) : Bool :=
  match f.kind with
  | .acq => s.loadsBefore w f.bound
  | .rel => s.doneBefore w f.bound f.scope
  | .ar | .ns => s.loadsBefore w f.bound && s.doneBefore w f.bound f.scope

/-- The fences left once the first one whose conditions hold has completed. -/
def State.fencesLeft (s : State) (w : Who) : List Fence → List Fence
  | [] => []
  | f :: t => if s.fenceDone w f then t else f :: s.fencesLeft w t

/-! ## Waits -/

/-- A wait instruction: the checks of R165 where it first issues, then its effect where its condition holds, else a wait. -/
def Iss.await (x : Iss) (s : State) (ready : Bool) (done : State → Except State State) (f : Wait → Wait := id) : Except State State :=
  match x.waitChecks s with
  | .error s => .error s
  | .ok s => if ready then done s else .error (x.stall s f)

/-- A word waits while the tables or the bytes that it reads or writes cannot be reached (R325, R402). -/
def Iss.reach (x : Iss) (s : State) (ready : Bool) : Except State Unit := if ready then .ok () else .error (x.hold s)

/-- `wcnt` (R162, R336). -/
def execWcnt (a b : BitVec 6) (s : State) : Host.Outcome State Fault Refusal :=
  word (.wcnt a b) s fun x s => x.await s (x.g.ifc a.toNat ≤ (x.g.sreg x.b).toNat) .ok

/-- A word of memory as its home holds it now; a free value where the sector is poisoned (R269). -/
def Iss.readHome (x : Iss) (s : State) (pa : Nat) : Word × State :=
  if s.poisonedAt pa then
    let (v, s) := s.free
    (v.setWidth 32, s.soften x.owner x.pc pa (lanesOf x.en))
  else (BitVec.ofNat 32 (leNat (s.cohRead pa 4)), s)

/-- Ticks since the start of the wait, saturating (R163). -/
def Iss.waited (x : Iss) (s : State) : Word :=
  BitVec.ofNat 32 (min 0xFFFFFFFF (s.ctime x.ctx x.core - (x.waitNow s).start))

/-- The word that a waiting `wvalue` watches. -/
def Iss.watch? (x : Iss) (s : State) : Option Watch := s.watches.find? fun w => w.who = x.owner && w.pc = x.pc

/-- The watch of the issuing word removed. -/
def Iss.unwatch (x : Iss) (s : State) : State := { s with watches := s.watches.filter fun w => !(w.who = x.owner && w.pc = x.pc) }

/-- A `wvalue` waits: its word is watched from the first look on, and the wait counts as a load from then on (R158, R163). -/
def Iss.watching (x : Iss) (s : State) (pa : Nat) (want : Word) : State :=
  let s := if (x.wait? s).isSome && (x.watch? s).any (fun w => w.pa = pa && w.want = want) then s
    else { x.unwatch s with watches := (x.unwatch s).watches ++ [{ who := x.owner, pc := x.pc, pa := pa, want := want }] }
  let n := s.nextOp
  let s := if (x.wait? s).any fun w => w.load.isSome then s else { s with nextOp := n + 1 }
  x.stall s fun w => { w with load := some (w.load.getD n) }

/-- `wvalue` (R163): the word is seen at its home as it stands, or as a write since the wait began left it. Poison stops a courier at the
word (R239, R269). -/
def execWvalue (d a b : BitVec 6) (s : State) : Host.Outcome State Fault Refusal :=
  word (.wvalue d a b) s fun x s =>
    match x.waitChecks s with
    | .error s => .error s
    | .ok s =>
      if x.act = 0 then .ok s else
      let va := (x.g.spair x.a).toNat
      match x.one s 4 .r va with
      | .error s => .error s
      | .ok t =>
        let want := x.g.sreg x.b
        if (x.wait? s).isSome && (x.watch? s).any (fun w => w.pa = t.pa && w.want = want && w.seen) then .ok (x.setS (x.unwatch s) x.d (x.waited s))
        else if x.earlierPend s va 4 || !s.takes t.pa then .error (x.stall s)
        else
          let (v, s') := x.readHome s t.pa
          if x.onCourier && s.poisonedAt t.pa then .error s'
          else if v = want then .ok (x.setS (x.unwatch s') x.d (x.waited s)) else .error (x.watching s' t.pa want)

/-- `sleep` (R164). -/
def execSleep (a : BitVec 6) (s : State) : Host.Outcome State Fault Refusal :=
  word (.sleep a) s fun x s =>
    let w := x.waitNow s
    let till := w.till.getD (w.start + (x.g.sreg x.a).toNat)
    x.await s (till ≤ s.ctime x.ctx x.core) .ok fun w => { w with till := some till }

/-! ## Launch order -/

/-- Every predecessor of a group's launch has completed (R210, R283). -/
def State.predsDone (s : State) (T : Team) : Bool :=
  T.kind = .pair || match s.launch T.ctx T.lid with
    | none => true
    | some l => l.waits.all fun p => s.launches.all fun q => q.order ≠ p

/-- `wpred` (R210): then it acts as `fence.acq device`. -/
def execWpred (s : State) : Host.Outcome State Fault Refusal :=
  word .wpred s fun x s => x.await s (s.predsDone x.T) fun s => .ok (x.addFence s .acq 3)

/-- `succ` (R209). -/
def execSucc (s : State) : Host.Outcome State Fault Refusal :=
  word .succ s fun x s =>
    if x.T.kind = .team && !x.T.succ then
      .ok ((s.modTeam x.t fun T => { T with succ := true }).modLaunch x.ctx x.T.lid fun l => { l with succs := l.succs + 1 })
    else .ok s

/-- A record of the group is still in its core's hamper. -/
def Iss.hampers (x : Iss) (s : State) : Bool :=
  s.hamper.any fun r => r.team = x.t && r.gint = x.k && r.loc = HLoc.core x.core

/-- `drain` (R211): the group's epoch ends once its records are handed off; no effect in another launch mode. -/
def execDrain (s : State) : Host.Outcome State Fault Refusal :=
  word .drain s fun x s =>
    if x.T.deterministic then
      x.await s (!x.hampers s) (fun s => .ok (s.modGrp x.t x.k fun g => { g with epoch := g.epoch + 1 })) fun w => { w with span := 4 }
    else x.await s true .ok

end Sys2Proof.Machine
end

