-- ==== Sys2Proof/Machine/Barriers.lean ====
section
/-! DEFINITION. Team, cluster and grid barriers (R166, R167) and stash barrier objects (R168 to R171, R338, R339). -/

namespace Sys2Proof.Machine

/-! ## Spans (R166) -/

/-- The resident teams of a span: 1 the team, 2 its cluster, 3 its grid; a task or pair group is its own span. -/
def State.spanTeams (s : State) (t : Nat) (T : Team) (n : Nat) : Tab Team :=
  if T.kind ≠ .team ∨ n ≤ 1 then s.teams.filter fun e => e.1 = t
  else s.teams.filter fun (_, U) => U.kind = .team && U.ctx = T.ctx && U.lid = T.lid && (n = 3 || U.cluster = T.cluster)

/-- A team of the span is neither resident nor ended: not dispatched yet, or saved. -/
def State.spanMissing (s : State) (T : Team) (n : Nat) : Bool :=
  if T.kind ≠ .team ∨ n ≤ 1 then false
  else if n = 2 then (s.ctx T.ctx).saved.any fun v => v.team.kind = .team && v.team.lid = T.lid && v.team.cluster = T.cluster
  else match s.launch T.ctx T.lid with
    | none => false
    | some l => (s.teams.filter fun (_, U) => U.kind = .team && U.ctx = T.ctx && U.lid = T.lid).length + l.ended < l.total

/-- A live group has arrived at the barrier of a span. -/
def Grp.arrived (g : Grp) (n : Nat) : Bool := g.waits.any fun w => w.span = n && w.arrived

/-- Every live group of the span has arrived. -/
def State.spanReady (s : State) (t : Nat) (T : Team) (n : Nat) : Bool :=
  !s.spanMissing T n && (s.spanTeams t T n).all fun (_, U) => U.groups.all fun (_, g) => g.run = .ended || g.arrived n

/-- A hamper record of the launch from before its `gsync` is not applied, or an applied one is not complete at device scope
(R167, R370). -/
def State.recordsBefore (s : State) (c lid : Nat) : Bool :=
  (s.launch c lid).any (fun l => decide (s.gtime < l.hwct)) ||
  s.hamper.any fun r => r.ctx = c && r.lid = lid && match s.grp r.team r.gint with
    | some g => g.run = .ended || decide (r.epoch ≤ g.epoch)
    | none => true

/-- A waiting fragment goes on at the next word, its hints consumed. -/
def Grp.release (g : Grp) (w : Wait) : Grp :=
  let g := if g.hintPc = some w.pc then { g with hints := {}, rep := none, hintPc := none } else g
  { (g.advance (g.quadsAt w.pc) w.pc w.next) with waits := g.waits.filter (·.pc ≠ w.pc) }

/-- A quad whose path stands at one of the waits listed moves on to where that wait continues. -/
def Quad.passed (q : Quad) (ws : List Wait) : Quad :=
  match q.path with
  | none => q
  | some p => match ws.find? fun w => w.pc = p.pc with
    | some w => { q with path := some { p with pc := w.next } }
    | none => q

/-- Every fragment of a group that waits at the barrier is released at once; one whose implied fence is not complete keeps it
pending. A `gsync` ends the group's flush epoch (R211). -/
def Grp.releaseAll (g : Grp) (n : Nat) : Grp :=
  let ws := g.waits.filter fun w => w.span = n
  let g := if ws.any fun w => g.hintPc = some w.pc then { g with hints := {}, rep := none, hintPc := none } else g
  { g with quads := g.quads.map fun e => (e.1, e.2.passed ws)
           waits := g.waits.filter fun w => w.span ≠ n
           fences := g.fences ++ (ws.filter fun w => !w.arrived).map fun w => ({ kind := .ar, scope := n, bound := w.latched } : Fence)
           epoch := if n = 3 && !ws.isEmpty then g.epoch + 1 else g.epoch }

/-- The barrier of a span opens. -/
def State.openSpan (s : State) (t : Nat) (T : Team) (n : Nat) : State :=
  (s.spanTeams t T n).foldl (fun s (u, _) => s.modTeam u fun U =>
    { U with groups := U.groups.map fun (k, g) => (k, if g.run = .ended then g else g.releaseAll n) }) s

/-- A barrier of span 1, 2 or 3: the checks of R165, the implied `fence.ar` of that scope, arrival, and release of the whole
span by the last to arrive, whose quads have aged as its wait began. -/
def Iss.barrier (x : Iss) (s : State) (n : Nat) : Except State State :=
  match x.waitChecks s with
  | .error s => .error s
  | .ok s =>
    let w := x.waitNow s
    let bound := if w.span = n then w.latched else s.nextOp
    let here := (w.arrived && w.span = n) ||
      (s.doneBefore x.owner bound n && s.loadsBefore x.owner bound && !(n = 3 && x.T.deterministic && x.hampers s))
    let s := x.stall s fun w => { w with span := n, arrived := here, latched := bound }
    if here && s.spanReady x.t x.T n && !(n = 3 && x.T.deterministic && s.recordsBefore x.ctx x.T.lid) then
      .error (((s.openSpan x.t x.T n).modGrp x.t x.k fun g => { g with waits := w :: g.waits }).retire x false)
    else .error s

/-- `tbar`. -/
def execTbar (s : State) : Host.Outcome State Fault Refusal := wordMove .tbar s fun x s => x.barrier s 1

/-- `cbar`. -/
def execCbar (s : State) : Host.Outcome State Fault Refusal := wordMove .cbar s fun x s => x.barrier s 2

/-- `gsync` (R166, R167). -/
def execGsync (s : State) : Host.Outcome State Fault Refusal := wordMove .gsync s fun x s => x.barrier s 3

/-! ## Barrier objects (Table 06-8) -/

/-- CHECK of R169 on an object's 16 bytes. -/
def barCheck (b : List Byte) : List Byte :=
  if field b 2 2 = field b 0 2 ∧ field b 8 3 ≤ field b 12 3 then
    setField (setField (setField (setField b 6 2 ((field b 6 2 + 1) % 65536)) 2 2 0) 12 3 (field b 12 3 - field b 8 3)) 8 3 (16 * field b 4 2)
  else b

/-- An object as `bini` makes it. -/
def barInit (v : Word) : List Byte :=
  leBytes 2 v.toNat ++ zeros 2 ++ leBytes 2 (v.toNat / 65536) ++ zeros 2 ++ leBytes 4 (16 * (v.toNat / 65536)) ++ zeros 4

/-- An object's bytes in its stash. -/
def State.barRead (s : State) (u off : Nat) : List Byte := s.locRead (.st u off) 16

def State.barWrite (s : State) (u off : Nat) (b : List Byte) : State :=
  (s.touched u off b.length).modTeam u fun U => { U with stash := writeBytes U.stash off b }

/-- The object of a team at an offset is live, at its generation. -/
def State.barGen (s : State) (u off : Nat) : Option (BitVec 16) := (s.team u).bind fun U => Tab.find U.bars off

/-- Checks 1 and 2 of R169 for the object at a stash address. -/
def Iss.object (x : Iss) (s : State) (a : Word) : Except State (Nat × Nat) :=
  if a.toNat % 16 ≠ 0 then .error (x.raiseAt s .align a.toNat)
  else match s.stashRef x.t x.T a.toNat 16 with
    | none => .error (x.raiseAt s .stashRange a.toNat)
    | some v => .ok v

/-- `bini` (R169, R171): it makes, or with an operand of 0 destroys, an object of the team's own stash. The check of its operand
depends on no lane (R38). -/
def execBini (a b : BitVec 6) (s : State) : Host.Outcome State Fault Refusal :=
  word (.bini a b) s fun x s => do
    let addr := x.g.sreg x.a
    let v := x.g.sreg x.b
    if x.act = 0 then if v ≠ 0 ∧ v.extractLsb' 0 16 = 0 then throw (x.raise s .operand) else return s
    let (u, off) ← x.object s addr
    if addr.toNat / 2 ^ 20 ≠ 0 ∨ (x.T.winAt off).isSome then throw (x.raiseAt s .stashRange addr.toNat)
    if v = 0 then return ((s.modTeam u fun U => { U with bars := Tab.del U.bars off }).abandonBars u fun n => n = off).settleEnds
    if (s.barGen u off).isSome then throw (x.raiseAt s .barrierClobber addr.toNat)
    if v.extractLsb' 0 16 = 0 then throw (x.raise s .operand)
    if s.stashBefore x.owner s.nextOp [addr.toNat] then throw (x.hold s)
    let gen := Tab.get 0 x.T.gens off + 1
    return (s.barWrite u off (barInit v)).modTeam u fun U => { U with bars := Tab.put U.bars off gen, gens := Tab.set 0 U.gens off gen }

/-- Scope of the release and acquire at an object: team in the own stash, else cluster. -/
def Iss.barScope (x : Iss) (u : Nat) : Nat := if u = x.t then 1 else 2

/-- `barr` (R169): the group's earlier accesses complete first, then the arrivals count at the object. -/
def execBarr (a b : BitVec 6) (s : State) : Host.Outcome State Fault Refusal :=
  word (.barr a b) s fun x s => do
    if x.act = 0 then return s
    let addr := x.g.sreg x.a
    let v := (x.g.sreg x.b).toNat
    let (u, off) ← x.object s addr
    if (s.barGen u off).isNone then throw (x.raiseAt s .barrierAbandoned addr.toNat)
    if !s.doneBefore x.owner s.nextOp (x.barScope u) then throw (x.hold s)
    let o := s.barRead u off
    if field o 0 2 < field o 2 2 + v then throw (x.raise s .operand)
    return s.barWrite u off (barCheck (setField o 2 2 (field o 2 2 + v)))

/-- `bexp` (R169): bytes expected in the turn. -/
def execBexp (a b : BitVec 6) (s : State) : Host.Outcome State Fault Refusal :=
  word (.bexp a b) s fun x s => do
    if x.act = 0 then return s
    let addr := x.g.sreg x.a
    let v := (x.g.sreg x.b).toNat
    let (u, off) ← x.object s addr
    if (s.barGen u off).isNone then throw (x.raiseAt s .barrierAbandoned addr.toNat)
    if s.stashBefore x.owner s.nextOp [addr.toNat] then throw (x.hold s)
    let o := s.barRead u off
    if 0xFFFFFF < field o 8 3 + v then throw (x.raise s .operand)
    return s.barWrite u off (barCheck (setField o 8 3 (field o 8 3 + v)))

/-- `bwait` (R169, R171): until the turn is over; a wait whose object is destroyed fails. -/
def execBwait (a b : BitVec 6) (s : State) : Host.Outcome State Fault Refusal :=
  word (.bwait a b) s fun x s => do
    let s ← x.waitChecks s
    if x.act = 0 then return s
    let addr := x.g.sreg x.a
    let (u, off) ← x.object s addr
    if (s.barGen u off).isNone then throw (x.raiseAt s .barrierAbandoned addr.toNat)
    if BitVec.ofNat 16 (field (s.barRead u off) 6 2) ≠ (x.g.sreg x.b).extractLsb' 0 16 then
      return x.addFence s .acq (x.barScope u)
    throw (x.stall s fun w => { w with bar := some (u, off), latched := addr.toNat })

end Sys2Proof.Machine
end

