-- ==== Sys2Proof/Machine/Bits.lean ====
section
/-! DEFINITION. Logic, shifts, bit fields and selection (R80, R84, R85). -/

namespace Sys2Proof.Machine

/-- Leading zero bits. -/
def clzOp (a : Word) : Word := BitVec.ofNat 32 (if a = 0 then 32 else 31 - a.toNat.log2)

/-- One bits. -/
def popcOp (a : Word) : Word := BitVec.ofNat 32 ((List.range 32).filter fun i => a.getLsbD i).length

/-- The bits in reverse order. -/
def brevOp (a : Word) : Word := a.reverse

/-- Offset and cut width of a bit field, none where the field is empty (R85). -/
def fieldOf (b : Word) : Option (Nat × Nat) :=
  let o := b.toNat % 256
  let w := min (b.toNat / 256 % 256) 32
  if w = 0 ∨ 32 ≤ o then none else some (o, min w (32 - o))

/-- `bfx.n32`. -/
def bfxN (a b : Word) : Word :=
  match fieldOf b with
  | none => 0
  | some (o, w) => BitVec.ofNat 32 (a.toNat / 2 ^ o % 2 ^ w)

/-- `bfx.i32`. -/
def bfxS (a b : Word) : Word :=
  match fieldOf b with
  | none => 0
  | some (o, w) =>
    let f := a.toNat / 2 ^ o % 2 ^ w
    BitVec.ofInt 32 (if f < 2 ^ (w - 1) then (f : Int) else (f : Int) - 2 ^ w)

/-- `bfi`: the low bits of a put into a field of d. -/
def bfiOp (a b d : Word) : Word :=
  match fieldOf b with
  | none => d
  | some (o, w) =>
    let m := BitVec.ofNat 32 ((2 ^ w - 1) * 2 ^ o)
    (d &&& ~~~m) ||| ((a <<< o) &&& m)

/-- `and` (Table 04-3). -/
def execAnd (g : BitVec 3) (d a b : BitVec 7) (s : State) : Host.Outcome State Fault Refusal :=
  word (.and g d a b) s fun x s => x.map2 s (· &&& ·)

/-- `or`. -/
def execOr (g : BitVec 3) (d a b : BitVec 7) (s : State) : Host.Outcome State Fault Refusal :=
  word (.or g d a b) s fun x s => x.map2 s (· ||| ·)

/-- `xor`. -/
def execXor (g : BitVec 3) (d a b : BitVec 7) (s : State) : Host.Outcome State Fault Refusal :=
  word (.xor g d a b) s fun x s => x.map2 s (· ^^^ ·)

/-- `andn`. -/
def execAndn (g : BitVec 3) (d a b : BitVec 7) (s : State) : Host.Outcome State Fault Refusal :=
  word (.andn g d a b) s fun x s => x.map2 s fun a b => a &&& ~~~b

/-- `shl`. -/
def execShl (g : BitVec 3) (d a b : BitVec 7) (s : State) : Host.Outcome State Fault Refusal :=
  word (.shl g d a b) s fun x s => x.map2 s shiftL

/-- `shr`. -/
def execShr (g : BitVec 3) (d a b : BitVec 7) (s : State) : Host.Outcome State Fault Refusal :=
  word (.shr g d a b) s fun x s => x.map2 s shiftR

/-- `sar`. -/
def execSar (g : BitVec 3) (d a b : BitVec 7) (s : State) : Host.Outcome State Fault Refusal :=
  word (.sar g d a b) s fun x s => x.map2 s shiftA

/-- `rotl`. -/
def execRotl (g : BitVec 3) (d a b : BitVec 7) (s : State) : Host.Outcome State Fault Refusal :=
  word (.rotl g d a b) s fun x s => x.map2 s fun a b => a.rotateLeft (b.toNat % 32)

/-- `clz`. -/
def execClz (g : BitVec 3) (d a : BitVec 7) (s : State) : Host.Outcome State Fault Refusal :=
  word (.clz g d a) s fun x s => x.map1 s clzOp

/-- `popc`. -/
def execPopc (g : BitVec 3) (d a : BitVec 7) (s : State) : Host.Outcome State Fault Refusal :=
  word (.popc g d a) s fun x s => x.map1 s popcOp

/-- `brev`. -/
def execBrev (g : BitVec 3) (d a : BitVec 7) (s : State) : Host.Outcome State Fault Refusal :=
  word (.brev g d a) s fun x s => x.map1 s brevOp

/-- `not`. -/
def execNot (g : BitVec 3) (d a : BitVec 7) (s : State) : Host.Outcome State Fault Refusal :=
  word (.not g d a) s fun x s => x.map1 s (~~~ ·)

/-- `bfx.i32` (R85). -/
def execBfxI32 (g : BitVec 3) (d a b : BitVec 7) (s : State) : Host.Outcome State Fault Refusal :=
  word (.bfxI32 g d a b) s fun x s => x.map2 s bfxS

/-- `bfx.n32`. -/
def execBfxN32 (g : BitVec 3) (d a b : BitVec 7) (s : State) : Host.Outcome State Fault Refusal :=
  word (.bfxN32 g d a b) s fun x s => x.map2 s bfxN

/-- `bfi`. -/
def execBfi (g : BitVec 3) (d a b : BitVec 7) (s : State) : Host.Outcome State Fault Refusal :=
  word (.bfi g d a b) s fun x s => x.map3 s bfiOp

/-- `isel`: a where the predicate named by g is true, else b (R80). -/
def execIsel (g : BitVec 3) (d a b : BitVec 7) (s : State) : Host.Outcome State Fault Refusal :=
  word (.isel g d a b) s fun x s => .ok (x.setV s x.d x.act fun l => if (x.g.pred g.toNat).getLsbD l then x.g.code x.a l else x.g.code x.b l)

end Sys2Proof.Machine
end

