-- ==== Sys2Proof/Machine/Pred.lean ====
section
/-! DEFINITION. Compares and predicates (R57, R89, R90, R93). -/

namespace Sys2Proof.Machine

/-- The mask of the lanes for which a test holds. -/
def maskWhere (f : Nat → Bool) : LaneMask := (List.range 96).foldl (fun m l => if f l then m ||| laneBit l else m) 0

/-- A predicate written in the active lanes. -/
def Iss.setP (x : Iss) (s : State) (n : Nat) (v : LaneMask) : State := s.modGrp x.t x.k fun g => g.setP n x.act v

/-- The combining rules of format P (R57). -/
def combine (f : BitVec 2) (old c : LaneMask) : LaneMask :=
  if f = 0 then c else if f = 1 then old &&& c else if f = 2 then old ||| c else ~~~c

/-- Integer conditions (Table 03-18). -/
def icond (c : BitVec 4) (a b : Word) : Bool :=
  match c.toNat with
  | 0 => a = b
  | 1 => a ≠ b
  | 2 => a.toInt < b.toInt
  | 3 => a.toInt ≤ b.toInt
  | 4 => b.toInt < a.toInt
  | 5 => b.toInt ≤ a.toInt
  | 6 => a.toNat < b.toNat
  | 7 => a.toNat ≤ b.toNat
  | 8 => b.toNat < a.toNat
  | _ => b.toNat ≤ a.toNat

/-- FP32 conditions (Table 03-18). -/
def fcond (c : BitVec 4) (a b : Word) : Bool :=
  let x := NFmt.fp32.value a
  let y := NFmt.fp32.value b
  let nan := x.isNan || y.isNan
  let o := x.compare y
  match c.toNat with
  | 0 => !nan && o = .eq
  | 1 => nan || o ≠ .eq
  | 2 => !nan && o = .lt
  | 3 => !nan && o ≠ .gt
  | 4 => !nan && o = .gt
  | 5 => !nan && o ≠ .lt
  | 6 => !nan
  | _ => nan

/-- NV of a compare: an ordered relation with a NaN, or a signaling NaN (R89). -/
def fcondFlags (c : BitVec 4) (a b : Word) : BitVec 5 :=
  let x := NFmt.fp32.value a
  let y := NFmt.fp32.value b
  flagIf (((2 ≤ c && c ≤ 5) && (x.isNan || y.isNan)) || x.isSnan || y.isSnan) fNV

/-- `icmp` (R89). -/
def execIcmp (g p : BitVec 3) (c : BitVec 4) (a b : BitVec 7) (f : BitVec 2) (s : State) : Host.Outcome State Fault Refusal :=
  word (.icmp g p c a b f) s fun x s => 
    .ok (x.setP s p.toNat (combine f (x.g.pred p.toNat) (maskWhere fun l => icond c (x.g.code x.a l) (x.g.code x.b l))))

/-- `fcmp` (R89). -/
def execFcmp (g p : BitVec 3) (c : BitVec 4) (a b : BitVec 7) (f : BitVec 2) (s : State) : Host.Outcome State Fault Refusal :=
  word (.fcmp g p c a b f) s fun x s => 
    match x.flagLanes s fun l => fcondFlags c (x.g.code x.a l) (x.g.code x.b l) with
    | .error s => .error s
    | .ok (x, s) => .ok (x.setP s p.toNat (combine f (x.g.pred p.toNat) (maskWhere fun l => fcond c (x.g.code x.a l) (x.g.code x.b l))))

/-- `pand` (R90). -/
def execPand (g p q r : BitVec 3) (s : State) : Host.Outcome State Fault Refusal :=
  word (.pand g p q r) s fun x s => .ok (x.setP s p.toNat (x.g.pred q.toNat &&& x.g.pred r.toNat))

/-- `por` (R90). -/
def execPor (g p q r : BitVec 3) (s : State) : Host.Outcome State Fault Refusal :=
  word (.por g p q r) s fun x s => .ok (x.setP s p.toNat (x.g.pred q.toNat ||| x.g.pred r.toNat))

/-- `pxor` (R90). -/
def execPxor (g p q r : BitVec 3) (s : State) : Host.Outcome State Fault Refusal :=
  word (.pxor g p q r) s fun x s => .ok (x.setP s p.toNat (x.g.pred q.toNat ^^^ x.g.pred r.toNat))

/-- `pnot` (R90). -/
def execPnot (g p q : BitVec 3) (s : State) : Host.Outcome State Fault Refusal :=
  word (.pnot g p q) s fun x s => .ok (x.setP s p.toNat (~~~x.g.pred q.toNat))

/-- `p2v` (R93). -/
def execP2v (g : BitVec 3) (d n : BitVec 7) (s : State) : Host.Outcome State Fault Refusal :=
  word (.p2v g d n) s fun x s => .ok (x.setV s x.d x.act fun l => if (x.g.pred n.toNat).getLsbD l then 1 else 0)

/-- `v2p` (R93). -/
def execV2p (g : BitVec 3) (a n : BitVec 7) (s : State) : Host.Outcome State Fault Refusal :=
  word (.v2p g a n) s fun x s => .ok (x.setP s n.toNat (maskWhere fun l => x.g.code x.a l ≠ 0))

end Sys2Proof.Machine
end

