-- ==== Sys2Proof/Machine/Float.lean ====
section
/-! DEFINITION. FP32 arithmetic, special functions and rounding to integral (R124 to R127). -/

namespace Sys2Proof.Machine

/-- d := the value in every active lane, with its flags merged (R120, R121, R123). -/
def Iss.fmap (x : Iss) (s : State) (f : Nat → Word × Flags) : Except State State :=
  match x.flagLanes s fun l => (f l).2 with
  | .error s => .error s
  | .ok (x, s) => .ok (x.setV s x.d x.act fun l => (f l).1)

/-- The rounding of an FP32 form: RNE or the MOD override (R117, R124). -/
def Iss.mode (x : Iss) : RMode := ownMode .rne x.g.hints.modR

/-- a − b: the sum of a and b with its sign inverted. -/
def subOp (mode : RMode) (a b : Word) : Word × Flags := NFmt.fp32.addOp mode a (b ^^^ 0x80000000)

/-- The rule of a `frnd` selector (R127). -/
def frndMode (n : BitVec 7) : RMode := if n = 4 then .rha else RMode.ofBits (n.extractLsb' 0 2)

/-- `fadd` (Table 05-11). -/
def execFadd (g : BitVec 3) (d a b : BitVec 7) (s : State) : Host.Outcome State Fault Refusal :=
  word (.fadd g d a b) s fun x s => x.fmap s fun l => NFmt.fp32.addOp x.mode (x.g.code x.a l) (x.g.code x.b l)

/-- `fsub`. -/
def execFsub (g : BitVec 3) (d a b : BitVec 7) (s : State) : Host.Outcome State Fault Refusal :=
  word (.fsub g d a b) s fun x s => x.fmap s fun l => subOp x.mode (x.g.code x.a l) (x.g.code x.b l)

/-- `fmul`. -/
def execFmul (g : BitVec 3) (d a b : BitVec 7) (s : State) : Host.Outcome State Fault Refusal :=
  word (.fmul g d a b) s fun x s => x.fmap s fun l => NFmt.fp32.mulOp x.mode (x.g.code x.a l) (x.g.code x.b l)

/-- `ffma`. -/
def execFfma (g : BitVec 3) (d a b : BitVec 7) (s : State) : Host.Outcome State Fault Refusal :=
  word (.ffma g d a b) s fun x s => x.fmap s fun l => NFmt.fp32.fmaOp x.mode (x.g.code x.a l) (x.g.code x.b l) (x.g.code x.d l)

/-- `fmin`. -/
def execFmin (g : BitVec 3) (d a b : BitVec 7) (s : State) : Host.Outcome State Fault Refusal :=
  word (.fmin g d a b) s fun x s => x.map2 s NFmt.fp32.minOp

/-- `fmax`. -/
def execFmax (g : BitVec 3) (d a b : BitVec 7) (s : State) : Host.Outcome State Fault Refusal :=
  word (.fmax g d a b) s fun x s => x.map2 s NFmt.fp32.maxOp

/-- `fabs`. -/
def execFabs (g : BitVec 3) (d a : BitVec 7) (s : State) : Host.Outcome State Fault Refusal :=
  word (.fabs g d a) s fun x s => x.map1 s (· &&& 0x7FFFFFFF)

/-- `fneg`. -/
def execFneg (g : BitVec 3) (d a : BitVec 7) (s : State) : Host.Outcome State Fault Refusal :=
  word (.fneg g d a) s fun x s => x.map1 s (· ^^^ 0x80000000)

/-- `fdiv`. -/
def execFdiv (g : BitVec 3) (d a b : BitVec 7) (s : State) : Host.Outcome State Fault Refusal :=
  word (.fdiv g d a b) s fun x s => x.fmap s fun l => divOp x.mode (x.g.code x.a l) (x.g.code x.b l)

/-- `fsqrt`. -/
def execFsqrt (g : BitVec 3) (d a : BitVec 7) (s : State) : Host.Outcome State Fault Refusal :=
  word (.fsqrt g d a) s fun x s => x.fmap s fun l => sqrtOp x.mode (x.g.code x.a l)

/-- `fscale`. -/
def execFscale (g : BitVec 3) (d a b : BitVec 7) (s : State) : Host.Outcome State Fault Refusal :=
  word (.fscale g d a b) s fun x s => x.fmap s fun l => scaleOp x.mode (x.g.code x.a l) (x.g.code x.b l).toInt

/-- `fcls` (R125). -/
def execFcls (g : BitVec 3) (d a : BitVec 7) (s : State) : Host.Outcome State Fault Refusal :=
  word (.fcls g d a) s fun x s => x.map1 s classOp

/-- `frcp` (R126). -/
def execFrcp (g : BitVec 3) (d a : BitVec 7) (s : State) : Host.Outcome State Fault Refusal :=
  word (.frcp g d a) s fun x s => x.fmap s fun l => frcpOp (x.g.code x.a l)

/-- `frsq` (R126). -/
def execFrsq (g : BitVec 3) (d a : BitVec 7) (s : State) : Host.Outcome State Fault Refusal :=
  word (.frsq g d a) s fun x s => x.fmap s fun l => frsqOp (x.g.code x.a l)

/-- `fex2` (R126). -/
def execFex2 (g : BitVec 3) (d a : BitVec 7) (s : State) : Host.Outcome State Fault Refusal :=
  word (.fex2 g d a) s fun x s => x.fmap s fun l => fex2Op (x.g.code x.a l)

/-- `flg2` (R126). -/
def execFlg2 (g : BitVec 3) (d a : BitVec 7) (s : State) : Host.Outcome State Fault Refusal :=
  word (.flg2 g d a) s fun x s => x.fmap s fun l => flg2Op (x.g.code x.a l)

/-- `fsin` (R126). -/
def execFsin (g : BitVec 3) (d a : BitVec 7) (s : State) : Host.Outcome State Fault Refusal :=
  word (.fsin g d a) s fun x s => x.fmap s fun l => fsinOp (x.g.code x.a l)

/-- `fcos` (R126). -/
def execFcos (g : BitVec 3) (d a : BitVec 7) (s : State) : Host.Outcome State Fault Refusal :=
  word (.fcos g d a) s fun x s => x.fmap s fun l => fcosOp (x.g.code x.a l)

/-- `frnd` (R127). -/
def execFrnd (g : BitVec 3) (d a n : BitVec 7) (s : State) : Host.Outcome State Fault Refusal :=
  word (.frnd g d a n) s fun x s => x.fmap s fun l => integralOp (frndMode n) (x.g.code x.a l)

end Sys2Proof.Machine
end

