-- ==== Sys2Proof/Machine/Convert.lean ====
section
/-! DEFINITION. Conversions, scaling, unpacking and packing (R129 to R133). -/

namespace Sys2Proof.Machine

/-- `scl`: a · 2^(e − 127) for the E8M0 scale in the low byte (R131). -/
def sclOp (mode : RMode) (a b : Word) : Word × Flags :=
  let e := b.toNat % 256
  if e = 255 then (NFmt.fp32.nan, fNV) else scaleOp mode a ((e : Int) - 127)

/-- The destination format of a format code for `n` elements, where the form accepts it (R133). -/
def pkFmt (n code : Nat) : Option NFmt :=
  match n, code with
  | 2, 6 => some .bf16
  | 2, 7 => some .fp16
  | 4, 2 => some .e4m3
  | 4, 3 => some .e5m2
  | 4, 4 => some .int8
  | 8, 1 => some .e2m1
  | 8, 5 => some .int4
  | _, _ => none

/-- Elements narrowed and packed, the lowest first; those at or above the count are 0. -/
def packFrom (nar : Word → Word × Flags) (w cnt : Nat) (v : Nat → Word) : List Nat → Word × Flags
  | [] => (0, 0)
  | k :: ks =>
    let (r, f) := packFrom nar w cnt v ks
    if k < cnt then
      let (e, h) := nar (v k)
      (r ||| (element w 0 e <<< (w * k)), f ||| h)
    else (r, f)

/-- `pk2`, `pk4` and `pk8`. -/
def Iss.pack (x : Iss) (s : State) (n : Nat) : Except State State :=
  let b := (x.g.code x.b 0).toNat
  let cnt := if b / 16 % 16 = 0 ∨ n < b / 16 % 16 then n else b / 16 % 16
  match pkFmt n (b % 16) with
  | none => .error (x.raise s .tagFormat)
  | some f =>
    let (mode, sat) := narrowCtl x.g.nmode x.g.hints.modR x.g.hints.modS f
    x.fmap s fun l => packFrom (fun v => f.narrow mode sat (NFmt.fp32.value v)) (32 / n) cnt (fun k => x.g.code (x.a + k) l) (List.range n)

/-- `cvt` (R129, R130). -/
def execCvt (g : BitVec 3) (d a n : BitVec 7) (s : State) : Host.Outcome State Fault Refusal :=
  word (.cvt g d a n) s fun x s => x.fmap s fun l => cvtOp x.g.nmode x.g.hints.modR x.g.hints.modS n.toNat (x.g.code x.a l)

/-- `scl` (R131). -/
def execScl (g : BitVec 3) (d a b : BitVec 7) (s : State) : Host.Outcome State Fault Refusal :=
  word (.scl g d a b) s fun x s => x.fmap s fun l => sclOp x.mode (x.g.code x.a l) (x.g.code x.b l)

/-- `upk` (R132). -/
def execUpk (g : BitVec 3) (d a n : BitVec 7) (s : State) : Host.Outcome State Fault Refusal :=
  word (.upk g d a n) s fun x s => x.map1 s (upkOp n.toNat)

/-- `pk2` (R133). -/
def execPk2 (g : BitVec 3) (d a b : BitVec 7) (s : State) : Host.Outcome State Fault Refusal :=
  word (.pk2 g d a b) s fun x s => x.pack s 2

/-- `pk4` (R133). -/
def execPk4 (g : BitVec 3) (d a b : BitVec 7) (s : State) : Host.Outcome State Fault Refusal :=
  word (.pk4 g d a b) s fun x s => x.pack s 4

/-- `pk8` (R133). -/
def execPk8 (g : BitVec 3) (d a b : BitVec 7) (s : State) : Host.Outcome State Fault Refusal :=
  word (.pk8 g d a b) s fun x s => x.pack s 8

end Sys2Proof.Machine
end

