-- ==== Sys2Proof/Machine/Home.lean ====
section
/-! DEFINITION. What happens to accesses after issue: homes, replies and completions (R259 to R266), window fills and recalls
(R149, R262), the slice map (R32, R33, R325), page moves (R34, R268), scrubbing (R269), translation walks (R322), dictionary
loads (R334), instruction-cache fills (R295), and the credits of lane copies (R146, R170). -/

namespace Sys2Proof.Machine

/-! ## Windows: recall and first touch -/

/-- Two sectors of a stash with what a window line left untouched. -/
def Team.restore (T : Team) (off : Nat) (u : Under) : Team :=
  { T with stash := writeBytes T.stash off u.bytes
           stags := Tab.set 0 (Tab.set 0 T.stags (off / 64) u.t0) (off / 64 + 1) u.t1
           spoison := (T.spoison.filter fun x => x ≠ off / 64 ∧ x ≠ off / 64 + 1) ++ (if u.p0 then [off / 64] else []) ++ if u.p1 then [off / 64 + 1] else [] }

/-- What two sectors of a stash hold. -/
def Team.under (T : Team) (off : Nat) : Under :=
  { bytes := readBytes T.stash off 128, t0 := Tab.get 0 T.stags (off / 64), t1 := Tab.get 0 T.stags (off / 64 + 1),
    p0 := T.spoison.contains (off / 64), p1 := T.spoison.contains (off / 64 + 1) }

/-- A line is no longer owned: the window's line is ABSENT (Table 10-4), and its stash bytes read as before its first touch (R262). -/
def State.disown (s : State) (o : OwnedLine) (ln : Nat) : State :=
  let was := (s.winLine o).map fun e => e.2.was
  (s.modLine ln fun l => { l with owner := none }).modTeam o.team fun T =>
    let T := match was with
      | some u => T.restore o.off u
      | none => T
    { T with wins := Tab.modify T.wins o.win fun W => { W with lines := Tab.del W.lines o.idx } }

/-- A line is recalled from the stash that owns it: a dirty line is written back first (R149). A page that is no longer
writable is reported to the host as a kill's write-back is (R381), and the dirty bytes are discarded (DEDUCED, log 20). -/
def State.recall (s : State) (ln : Nat) : State :=
  match s.ownerOf ln with
  | none => s
  | some o =>
    match s.writeBack o.team o.win o.idx with
    | .ok s => s.disown o ln
    | .error (f, a) =>
      let s := match s.team o.team with
        | some T => s.hostFault { source := 1, fcode := f.code, ctx := T.ctx, core := T.core, who := T.teamn, lid := T.lid, aux := 2 ^ 31 + o.win, addr := a }
        | none => s
      s.disown o ln

/-- The first touch of a window line: recall, the horizon, the owner recorded, bytes and tags filled (R262). None where it
cannot be done now: no such window, an address that does not translate, a horizon to come, or a home that takes no request. -/
def State.firstTouch (s : State) (t w i : Nat) : Option State :=
  match s.team t with
  | none => none
  | some T => match Tab.find T.wins w with
    | none => none
    | some W =>
      if W.len * 8 ≤ i then none
      else if (Tab.find W.lines i).isSome then some s
      else match s.trans T.core T.ctx .r (W.base.toNat + 128 * i) with
        | .error _ => none
        | .ok tr =>
          let ln := lineOf tr.pa
          if s.homeNow ln < (s.line ln).horizon || s.recallHeld ln || !s.tablesReady T.core T.ctx (W.base.toNat + 128 * i) || !s.takes (ln * 128) then none
          else
            let s := (s.recall ln).hbmRead (ln * 128) (dieOf T.core)
            let off := W.off * 1024 + 128 * i
            let pa := ln * 128
            let bad := [0, 1].filter fun k => s.poison.contains (sectorOf pa + k)
            let bs := readBytes s.mem pa 128
            let t0 := Tab.get 0 s.tags (sectorOf pa)
            let t1 := Tab.get 0 s.tags (sectorOf pa + 1)
            let s := s.modLine ln fun l => { l with owner := some t }
            some (s.modTeam t fun T =>
              let l : WinLine := { pa := ln, dirty := false, leaf := tr.leaf, ipa := tr.ipa, lsz := tr.lsz, dset := tr.d, was := T.under off }
              let T := T.restore off { bytes := bs, t0 := t0, t1 := t1, p0 := bad.contains 0, p1 := bad.contains 1 }
              { T with wins := Tab.modify T.wins w fun W => { W with lines := Tab.put W.lines i l } })

/-- The absent window lines of a stash range touched, where each can be; none otherwise. -/
def State.touchLines (s : State) (t : Nat) : List Nat → Option State
  | [] => some s
  | off :: rest =>
    match s.team t with
    | none => some s
    | some T =>
      if !T.absent off then s.touchLines t rest
      else match T.winAt off with
        | none => s.touchLines t rest
        | some (w, i) => match s.firstTouch t w i with
          | none => none
          | some s => s.touchLines t rest

/-- The lines of `n` bytes of a stash from an offset. -/
def stashLines (off n : Nat) : List Nat :=
  if n = 0 then [] else (List.range ((off + n - 1) / 128 - off / 128 + 1)).map fun i => (off / 128 + i) * 128

def State.touchStash (s : State) (t off n : Nat) : Option State := s.touchLines t (stashLines off n)

/-- The pages of the clean window lines in a stash range, which a write makes dirty (R316). -/
def State.stashDirt (s : State) (t off n : Nat) : List Dirt :=
  match s.team t with
  | none => []
  | some T => (stashLines off n).filterMap fun o => match T.winLineAt o with
    | some (_, _, l) => if l.dirty then none else some (l.dirt T)
    | none => none

/-- D of those pages set, as far as the log has room. -/
def State.markStash (s : State) (t off n : Nat) : State := (s.stashDirt t off n).foldl State.markDirty s

/-- A stash range can be written as far as dirty tracking goes (R316). -/
def State.stashMayDirty (s : State) (t off n : Nat) : Bool := (s.stashDirt t off n).all s.dirtyDone

/-- A stash range filled and markable as dirty, as a write to it needs; none where that cannot be done now (R262, R316). -/
def State.readyStash (s : State) (t off n : Nat) : Option State :=
  (s.touchStash t off n).bind fun s =>
    let s := s.markStash t off n
    if s.stashMayDirty t off n then some s else none

/-! ## Requests at homes and stashes -/

/-- The first slice map is established at bring-up or by the first request, whichever comes first (R324, R347). -/
def State.firstMap (s : State) : State := if s.smapsn = 0 then { s with smapsn := 1, mapchg := s.mapchg + 1 } else s

/-- A request was hashed under a map that has since moved its line (R33). -/
def State.remapped (s : State) (p : Part) : Bool :=
  !isPeer (p.sector * 64) && p.sent.1 = s.homeDie (p.sector * 64) && p.sent.2 ≠ (s.home (p.sector * 64)).2

/-- Part `n` of operation `id`, with the operation. -/
def State.part? (s : State) (id n : Nat) : Option (MemOp × Part) :=
  (Tab.find s.ops id).bind fun o => (o.parts[n]?).map fun p => (o, p)

def State.setPartSt (s : State) (id n : Nat) (st : PartSt) : State :=
  match s.part? id n with
  | some (o, p) => s.setOp id (o.setPart n { p with st := st })
  | none => s

/-- The stash bytes that a part reads and writes, as team and offset with their count. -/
def stashSpans (o : MemOp) (p : Part) : List (Nat × Nat × Nat) :=
  (match p.place with
   | .stash t => p.lanes.map fun a => (t, a.addr, o.size)
   | .home => []) ++
  (if o.kind = .cpaOut then p.lanes.filterMap fun a => match unpackStash a.aux with
     | .st t off => some (t, off, 16)
     | .pa _ => none
   else [])

/-- A stash byte of the part lies in an ABSENT window line, whose first touch comes before the access (R262). -/
def State.spansAbsent (s : State) (l : List (Nat × Nat × Nat)) : Bool :=
  l.any fun (t, off, n) => match s.team t with
    | some T => T.absent off || T.absent (off + n - 1)
    | none => false

/-- An access that waits names stash bytes of a window line: an access of a lane or its copy, the landing of a lane copy, or an operand of an
`mma` (R262). -/
def State.touchWanted (s : State) (t w i : Nat) : Bool :=
  match (s.team t).bind fun T => Tab.find T.wins w with
  | none => false
  | some W =>
    let off := W.off * 1024 + 128 * i
    let hit := fun (e : Nat × Nat × Nat) => e.1 = t && decide (e.2.1 < off + 128) && decide (off < e.2.1 + e.2.2)
    (s.ops.any fun (_, o) => o.parts.any fun p => (!p.st.isDone && (stashSpans o p).any hit) ||
      (o.kind = .cpaIn && p.lanes.any fun a => hit (a.aux / 2 ^ 20, a.aux % 2 ^ 20, 16))) ||
    s.teams.any fun (_, T) => T.groups.any fun (_, g) => g.mops.any fun m => m.st = .issued && m.readsIn true (packStash t off) 128

/-- WINDOW_FIRST_TOUCH (R262): of a line that an access waits for. -/
def execWindowFirstTouch (team win line : Nat) (s : State) : Host.Outcome State Fault Refusal :=
  event (if s.touchWanted team win line then (s.firstTouch team win line).getD s else s)

/-- A request arrives at a stash: the bytes are filled and the page may be written, or the request waits; a stash that is
gone discards it (R137). -/
def State.atStash (s : State) (id n t : Nat) (o : MemOp) (p : Part) : State :=
  if (s.team t).isNone then s.discardPart id n
  else if s.spansAbsent (stashSpans o p) then s
  else if !o.kind.isWrite then s.perform id n
  else
    let s := p.lanes.foldl (fun s a => s.markStash t a.addr o.size) s
    if p.lanes.all fun a => s.stashMayDirty t a.addr o.size then s.perform id n else s

/-- A write held by a drain of another launch sets that launch's foreign-update flag (R155). -/
def State.markForeign (s : State) (o : MemOp) (ln : Nat) : State :=
  let mine := s.launchOf o
  if !o.kind.isWrite then s
  else (s.hamper.filter fun r => r.loc = .home && lineOf r.pa = ln && mine ≠ some (r.ctx, r.lid)).foldl (fun s r =>
    s.modLaunch r.ctx r.lid fun l => { l with foreign := true }) s

/-- A write waits at its home, in the order of arrival (R266). -/
def State.holdPart (s : State) (id n : Nat) : State := { s.setPartSt id n (.held s.order) with order := s.order + 1 }

/-- A request arrives at its home: it is held, forwarded to an owning stash, or performed (R149, R264 to R266, R316). A line that
L2 does not hold is filled where its set has room, and the request waits otherwise (R260). -/
def State.atHome (s : State) (id n : Nat) (o : MemOp) (p : Part) : State :=
  let ln := p.line
  if s.remapped p || !s.takes (p.sector * 64) || s.spansAbsent (stashSpans o p) then s
  else if s.writeHeld o p || (o.kind.isWrite && s.anyHeld ln) then (s.markForeign o ln).holdPart id n
  else if (s.ownerOf ln).isSome then s.setPartSt id n .forwarded
  else
    let s := s.markPart o p
    if !s.partClear o p then s.holdPart id n
    else if (s.line ln).present || isPeer (p.sector * 64) then s.perform id n
    else if !s.l2Fits ln none then s
    else (s.fillLine ln o.rc o.policy (dieOf o.core)).perform id n

/-- HOME_PERFORM (R264): a request to a peer first leaves by its port, which accepts a write there (R366); requests for one line leave and
are performed in their order (R395). A write to the host is first accepted by the CXL port (R365). Not enabled for a part that does not wait, a pair addition, or one that R351 puts after an earlier
access of its agent. -/
def execHomePerform (op part : Nat) (s : State) : Host.Outcome State Fault Refusal :=
  event (match s.part? op part with
    | none => s
    | some (o, p) =>
      if p.st ≠ .waiting || o.kind = .padd || s.blocked op o p then s
      else if p.peer && p.port.isNone then
        if s.lineBefore op p.line true then s
        else match s.portOf (p.sector * 64) with
          | none => s
          | some n => s.setOp op (o.setPart part { p with port := some n, ported := o.kind.isWrite })
      else if p.peer && s.lineBefore op p.line false then s
      else if o.kind.isWrite && p.host && !p.ported then s.setOp op (o.setPart part { p with ported := true })
      else
        let s := s.firstMap
        match p.place with
        | .stash t => s.atStash op part t o p
        | .home => s.atHome op part o p)

/-- A load of the owning core still waits for its reply on the line (R263). -/
def State.missWaits (s : State) (team ln : Nat) : Bool :=
  match s.team team with
  | none => false
  | some T => s.ops.any fun (_, o) => o.core = T.core && o.returns && !o.replied && o.parts.any fun p => p.place = .home && p.line = ln && p.st.isDone

/-- A forwarded access performed at the owning stash, or sent back to the home where the line has left it. A forwarded load
counts as a read that the L2 line served (R149, R267). -/
def State.forward (s : State) (op part : Nat) (o : MemOp) (p : Part) : State :=
  match s.ownerOf p.line with
  | none => s.setPartSt op part .waiting
  | some _ =>
    let s := s.markPart o p
    if !s.partClear o p then s
    else
      let load := match o.kind with | .load _ | .ldt | .hgath | .cpaIn => !o.twin p | _ => false
      let s := if load then s.modLine p.line Line.served else s
      s.perform op part

/-- FORWARDED_ACCESS (R149). -/
def execForwardedAccess (op part : Nat) (s : State) : Host.Outcome State Fault Refusal :=
  event (match s.part? op part with
    | none => s
    | some (o, p) =>
      if p.st ≠ .forwarded || (match s.ownerOf p.line with | some w => s.missWaits w.team p.line | none => false) then s
      else s.forward op part o p)

/-- PROBE_AFTER_REPLY (R263): a forwarded access that reached a core while a reply was due on the line acts once no reply is
due. A program cannot tell it from a forwarded access. -/
def execProbeAfterReply (op part : Nat) (s : State) : Host.Outcome State Fault Refusal :=
  event (match s.part? op part with
    | none => s
    | some (o, p) => match s.ownerOf p.line with
      | none => s
      | some w => if p.st ≠ .forwarded || s.missWaits w.team p.line then s else s.forward op part o p)

/-- HELD_WRITE_PERFORM (R266, R34): every reason to hold it has ended, and no earlier held write of the line waits. -/
def execHeldWritePerform (op part : Nat) (s : State) : Host.Outcome State Fault Refusal :=
  event (match s.part? op part with
    | none => s
    | some (o, p) => match p.st with
      | .held k =>
        if s.writeHeld o p || s.heldBefore p.line k then s
        else if (s.ownerOf p.line).isSome then s.setPartSt op part .forwarded
        else
          let s := s.markPart o p
          if s.partClear o p then s.perform op part else s
      | _ => s)

/-- REMAP_REPLY (R33): the request is hashed again under the current map and repeated. -/
def execRemapReply (op part : Nat) (s : State) : Host.Outcome State Fault Refusal :=
  event (match s.part? op part with
    | none => s
    | some (o, p) =>
      if (match p.st with | .waiting | .held _ => true | _ => false) && p.place = .home && s.remapped p then
        { s.setOp op (o.setPart part { p with sent := s.home (p.sector * 64) }) with remap := s.remap + 1 }
      else s)

/-- LOAD_REPLY (R161): every part has been performed, and the value reaches its destination. -/
def execLoadReply (op : Nat) (s : State) : Host.Outcome State Fault Refusal :=
  event (match Tab.find s.ops op with
    | none => s
    | some o => if o.returns && !o.replied && o.performed then s.reply op else s)

/-- WRITE_COMPLETION (R157, R161): NOW() has reached the write-completion time; a peer's write completes at system scope with
its acknowledgement (R366), a host's with its performance (R365), and its record stays until then. -/
def execWriteCompletion (op : Nat) (s : State) : Host.Outcome State Fault Refusal :=
  event (match Tab.find s.ops op with
    | none => s
    | some o =>
      if o.kind.isWrite && o.kind ≠ .cpaOut && o.complete (s.dieNow (dieOf o.core)) && (!o.returns || o.replied) then
        if o.parts.all fun p => (!p.peer || p.acked) && (!p.host || p.landed (s.dieNow (dieOf o.core))) then s.finishWrite op
        else match o.ifc with
          | some 3 => (s.lower o.who 3).setOp op { o with ifc := none }
          | _ => s
      else s)

/-- LEASE_EXPIRY (R258): an L1 line whose expiry has passed leaves. -/
def execLeaseExpiry (core line : Nat) (s : State) : Host.Outcome State Fault Refusal :=
  event (match Tab.find (s.core core).l1 line with
    | none => s
    | some l => if l.expiry ≤ s.dieNow (dieOf core) then s.modCore core fun k => { k with l1 := Tab.del k.l1 line } else s)

/-- HORIZON_EXPIRY (R260): a horizon that has passed is forgotten. -/
def execHorizonExpiry (line : Nat) (s : State) : Host.Outcome State Fault Refusal :=
  event (if (s.line line).horizon ≤ s.homeNow line then s.modLine line fun l => { l with horizon := 0 } else s)

/-- The request that a fill of a line serves, an access's or an operand fetch's: its read count, policy and die. -/
def State.wanted (s : State) (line : Nat) : Option (Nat × BitVec 2 × Nat) :=
  match s.ops.findSome? fun (_, o) =>
    if o.parts.any fun p => p.place = .home && p.line = line && p.st = .waiting then some (o.rc, o.policy, dieOf o.core) else none with
  | some w => some w
  | none => s.teams.findSome? fun (_, T) =>
      if T.groups.any fun (_, g) => g.mops.any fun o => o.st = .issued && ((rowLines o.asrc o.alocs).contains line || (rowLines o.bsrc o.blocs).contains line)
      then some (0, 0, dieOf T.core) else none

/-- L2_FILL (R260, R264): a line that a request waits for comes from HBM into its set, in a free way or in the place of the victim
that the device names. A fill that finds every way taken by lines that cannot go waits. -/
def execL2Fill (line : Nat) (victim : Option Nat) (s : State) : Host.Outcome State Fault Refusal :=
  event (match s.wanted line with
    | none => s
    | some (rc, policy, die) =>
      if (s.line line).present || isPeer (line * 128) || !s.takes (line * 128) || !s.l2Fits line victim then s
      else s.fillOver line victim rc policy die)

/-! ## The slice map (R325) -/

/-- Buckets of a die under a change. -/
def State.bucketsWith (s : State) (die : Nat) (moves : List (Nat × Nat)) : List Nat :=
  (List.range 4096).map fun h => match moves.find? fun m => m.1 = h with
    | some m => m.2
    | none => s.bucket die h

/-- The moves name each bucket once and change its slice. -/
def State.movesClean (s : State) (die : Nat) (moves : List (Nat × Nat)) : Bool :=
  decide (moves.map Prod.fst).Nodup && moves.all fun m => s.bucket die m.1 ≠ m.2

/-- A legal change: 12 slices or more stay active, and they differ by one bucket at most. -/
def State.mapLegal (s : State) (die : Nat) (moves : List (Nat × Nat)) : Bool :=
  let bs := s.bucketsWith die moves
  let counts := ((List.range 48).map fun v => (bs.filter (· = v)).length).filter (· ≠ 0)
  decide (die < 4) && !moves.isEmpty && s.movesClean die moves && (moves.all fun m => decide (m.1 < 4096) && decide (m.2 < 48)) && decide (12 ≤ counts.length) &&
  counts.all fun a => counts.all fun b => decide (a ≤ b + 1)

/-- Lines of the buckets that move. -/
def State.movingLines (s : State) (die : Nat) (moves : List (Nat × Nat)) : List Nat :=
  (s.lines.filter fun (n, _) => s.homeDie (n * 128) = die && moves.any fun m => m.1 = hashOf (n * 128)).map Prod.fst

/-- Nothing holds a line of a moving bucket, and no held write of one waits: it is performed at its current home (step 2, R35). -/
def State.mapClear (s : State) (die : Nat) (moves : List (Nat × Nat)) : Bool :=
  ((s.movingLines die moves).all fun n => !s.lineHeld n) && !(s.ops.any fun (_, o) => o.parts.any fun p =>
    (match p.st with | .held _ => true | _ => false) && s.homeDie (p.sector * 64) = die && moves.any fun m => m.1 = hashOf (p.sector * 64)) &&
  s.placement.all fun (p, e) => !e.lock || !((List.range 32).any fun i => moves.any fun m => m.1 = hashOf (p * 4096 + 128 * i))

/-- A line handed to a new home: written back, its copy invalid (R268, R325). -/
def State.handLine (s : State) (ln : Nat) : State := (s.reportPoison ln).modLine ln Line.hand

/-- Steps 3 to 5 and the new serial. -/
def State.applyMap (s : State) (die : Nat) (moves : List (Nat × Nat)) : State :=
  let s := (s.movingLines die moves).foldl State.handLine s
  { s with buckets := moves.foldl (fun b m => Tab.put b (die * 4096 + m.1) m.2) s.buckets
           smapsn := s.smapsn + 1, mapchg := s.mapchg + 1, mapChange := s.mapChange.filter fun m => m.die ≠ die }

/-- SLICE_MAP_CHANGE (R325): the change is made once nothing holds its lines; until then it holds new requests. -/
def execSliceMapChange (die : Nat) (moves : List (Nat × Nat)) (s : State) : Host.Outcome State Fault Refusal :=
  event (match s.mapChange.find? fun m => m.die = die with
    | some m => if m.moves = moves && s.mapClear die moves then s.applyMap die moves else s
    | none =>
      if s.smapsn = 0 || !s.mapLegal die moves then s
      else if s.mapClear die moves then s.applyMap die moves
      else { s with mapChange := s.mapChange ++ [{ die := die, moves := moves, since := s.gtime }] })

/-- SLICE_MAP_CHANGE_ABANDON (R325). -/
def execSliceMapChangeAbandon (die : Nat) (s : State) : Host.Outcome State Fault Refusal :=
  event { s with mapChange := s.mapChange.filter fun m => !(m.die = die && decide (m.since + 2 ^ 20 ≤ s.gtime)) }

/-! ## Page moves (R34, R268, R327) -/

def State.setPlaced (s : State) (page : Nat) (f : Placement → Placement) : State :=
  { s with placement := Tab.put s.placement page (f (s.placed page)) }

/-- The access counter of a die in a placement entry. -/
def Placement.count (e : Placement) (die : Nat) : Nat :=
  match die with
  | 0 => e.c0
  | 1 => e.c1
  | 2 => e.c2
  | _ => e.c3

/-- PAGE_MOVE (R34 steps 1 and 2, R327): both pages, on stacks of different dies, are locked and copied; one move per die at most.
The page is a candidate: the count of the die that it moves to exceeds its own die's by 8 at least, the lowest threshold. -/
def execPageMove (page partner : Nat) (s : State) : Host.Outcome State Fault Refusal :=
  let die := fun p => (s.placed p).stack / 2
  event (
    if Config.localPages ≤ page ∨ Config.localPages ≤ partner ∨ die page = die partner ∨
        (s.placed page).count (die partner) < (s.placed page).count (die page) + 8 ∨
        (s.moving.any fun m => [m.1, m.2].any fun p => die p = die page || die p = die partner) then s
    else
      let lock := fun (e : Placement) => { e with lock := true }
      { (s.setPlaced page lock).setPlaced partner lock with moving := s.moving ++ [(page, partner)] })

/-- A page's lines leave L2 at the switch; their horizons, leases, owners and pins go to the new home. A poisoned sector that
no team owns is reported (R269). -/
def State.handOver (s : State) (page : Nat) : State :=
  let s := (s.lines.filter fun e => e.1 / 32 = page).foldl (fun s e => s.modLine e.1 Line.hand) s
  (s.poison.filter fun x => x / 64 = page).foldl (fun s x => s.hostFault { source := 8, fcode := FCode.uncorrectable.code, addr := x * 64 }) s

/-- A pin or a drain holds a line of a page (R327). -/
def State.pageHeld (s : State) (page : Nat) : Bool :=
  (s.lines.any fun e => e.1 / 32 = page && e.2.pins ≠ 0) || s.hamper.any fun r => r.loc = .home && r.pa / 4096 = page

/-- PAGE_MOVE_SWITCH (R34 steps 3 and 4, R268): one update switches both pages and the locks are cleared, once neither a pin nor a
drain holds either page (R327). -/
def execPageMoveSwitch (page partner : Nat) (s : State) : Host.Outcome State Fault Refusal :=
  event (
    if !s.moving.contains (page, partner) || s.pageHeld page || s.pageHeld partner then s
    else
      let a := s.placed page
      let b := s.placed partner
      let s := (s.setPlaced page fun e => { e with stack := b.stack, frame := b.frame, lock := false }).setPlaced partner fun e =>
        { e with stack := a.stack, frame := a.frame, lock := false }
      let s := (s.handOver page).handOver partner
      { s with moving := s.moving.erase (page, partner), migrate := s.migrate + 1 })

/-- PLACEMENT_COUNTER_HALVING (R327): every 2^26 ticks. -/
def execPlacementCounterHalving (s : State) : Host.Outcome State Fault Refusal :=
  event (if s.gtime < 2 ^ 26 * (s.placeHalvings + 1) then s
    else
      let s := { s with placeHalvings := s.placeHalvings + 1 }
      { s with placement := s.placement.map fun (p, e) => (p, { e with c0 := e.c0 / 2, c1 := e.c1 / 2, c2 := e.c2 / 2, c3 := e.c3 / 2 }) })

/-- A sector of local memory is poisoned. -/
def State.poisonSector (s : State) (sector : Nat) : State :=
  if s.poison.contains sector then s else { s with poison := s.poison ++ [sector], poisoned := s.poisoned + 1 }

/-- A clean copy is dropped, to be fetched again; the counter alone shows it (Table 10-5). -/
def State.dropCopy (s : State) (had : Bool) (f : State → State) : State := if had then { f s with cleandrop := s.cleandrop + 1 } else s

/-- An uncorrectable error of an array, or what a scrub found (Table 10-5). A TLB of a number from 384 on is a pod's L2 TLB. A pinned line's copy
is fetched again in its place. -/
def State.softError (s : State) (sector : Nat) : Soft → State
  | .clean => s
  | .corrected => { s with corrected := s.corrected + 1 }
  | .uncorrectable => s.poisonSector sector
  | .inL1 c ln => s.dropCopy (Tab.find (s.core c).l1 ln).isSome fun s => s.modCore c fun k => { k with l1 := Tab.del k.l1 ln }
  | .inL2 =>
    let l := s.line (sector / 2)
    if !l.present then s
    else if l.dirty then s.poisonSector sector
    else s.dropCopy true fun s => if l.pins = 0 then s.modLine (sector / 2) Line.left else s
  | .inIcache pod ln => s.dropCopy ((Tab.get [] s.icache pod).contains ln) fun s =>
      { s with icache := Tab.set [] s.icache pod ((Tab.get [] s.icache pod).filter (· ≠ ln)) }
  | .inTlb c n =>
    if c < Config.cores then s.dropCopy ((s.core c).tlb[n]?).isSome fun s => s.modCore c fun k => { k with tlb := k.tlb.eraseIdx n }
    else
      let l := Tab.get [] s.l2tlb (c - Config.cores)
      s.dropCopy (l[n]?).isSome fun s => { s with l2tlb := Tab.set [] s.l2tlb (c - Config.cores) (l.eraseIdx n) }
  | .inStash t n => match s.team t with
    | none => s
    | some T =>
      if T.kobj.stash ≤ 64 * n || T.spoison.contains n then s
      else { s.modTeam t fun T => { T with spoison := T.spoison ++ [n] } with poisoned := s.poisoned + 1 }
  | .inReg t k cls r => s.modGrp t k fun g =>
      if g.regErrs.contains (cls, r) then g else { g with regErrs := g.regErrs ++ [(cls, r)] }

/-- PATROL_SCRUB (R269): a sector of local memory is read; a corrected error is counted, an uncorrectable one poisons it. Errors of
the other arrays, for which the spec has no event of their own, come with this one (log 41). -/
def execPatrolScrub (sector : Nat) (found : Soft) (s : State) : Host.Outcome State Fault Refusal :=
  event (if Config.localBytes ≤ sector * 64 then s else s.softError sector found)

/-! ## Translation walks (R321, R322) -/

/-- A cached entry put in front, an older entry of the same page removed, within a capacity. -/
def tlbAdd (l : List TlbEntry) (e : TlbEntry) (cap : Nat) : List TlbEntry :=
  (e :: l.filter fun f => !(f.ctx = e.ctx && f.base = e.base && f.size = e.size && f.only2 = e.only2)).take cap

/-- TRANSLATION_WALK (R322): a successful walk fills the core's TLB and its pod's; a failed one is not kept. Its reads of tables that come from
HBM count for the core's die (R327). -/
def execTranslationWalk (core ctx : Nat) (va : DWord) (s : State) : Host.Outcome State Fault Refusal :=
  event (
    if Config.cores ≤ core ∨ !vaOk va.toNat ∨ !s.tablesReady core ctx va.toNat then s
    else match s.walkEntry ctx va.toNat core with
      | none => s
      | some (e, e2) =>
        let s := (s.walkReads core ctx va.toNat).foldl (fun s pa => s.hbmRead pa (dieOf core)) s
        let s := s.modCore core fun k => { k with tlb := tlbAdd k.tlb e 64 }
        { s with l2tlb := Tab.set [] s.l2tlb (podOf core) (tlbAdd (tlbAdd (Tab.get [] s.l2tlb (podOf core)) e2 4096) e 4096) })

/-! ## Dictionaries (R334) and instruction fetch (R295) -/

/-- The words of a dictionary from its address, with the fault of each that cannot be read. -/
def State.dictWords (s : State) (core ctx addr : Nat) : List Nat → List Word × Tab FCode
  | [] => ([], [])
  | i :: is =>
    let (ws, bad) := s.dictWords core ctx addr is
    let va := addr + 4 * i
    if !vaOk va then (0 :: ws, (i, FCode.address) :: bad)
    else match s.trans core ctx .x va with
      | .error f => (0 :: ws, (i, f) :: bad)
      | .ok t => (BitVec.ofNat 32 (leNat (s.cohRead t.pa 4)) :: ws, if s.poisonedAt t.pa then (i, .uncorrectable) :: bad else bad)

/-- DICTIONARY_LOAD (R334): the dictionary of a resident team that no place holds is loaded into a free place. -/
def execDictionaryLoad (core team : Nat) (s : State) : Host.Outcome State Fault Refusal :=
  event (match s.team team with
    | none => s
    | some T =>
      let k := s.core core
      if T.core ≠ core ∨ T.kobj.dict = 0 ∨ 4 ≤ k.dicts.length ∨ (k.dicts.any fun d => d.ctx = T.ctx && d.addr = T.kobj.dict) ∨
          !s.vaReady core T.ctx .x T.kobj.dict.toNat 4096 then s
      else
        let (ws, bad) := s.dictWords core T.ctx T.kobj.dict.toNat (List.range 1024)
        (s.countVA core T.ctx .x T.kobj.dict.toNat 4096).modCore core fun k => { k with dicts := k.dicts ++ [{ ctx := T.ctx, addr := T.kobj.dict, words := ws, bad := bad }] })

/-- ICACHE_FILL (R295): the code that a frozen group waits for arrives and the group goes on. -/
def execIcacheFill (team gint : Nat) (s : State) : Host.Outcome State Fault Refusal :=
  event (match s.team team with
    | none => s
    | some T => match Tab.find T.groups gint with
      | none => s
      | some g =>
        if !g.frozen || g.choose.any fun pc => !s.vaReady T.core T.ctx .x (pc.toNat / 4 * 4) 4 then s
        else
          let s := match g.choose with
            | none => s
            | some pc => match s.trans T.core T.ctx .x (pc.toNat / 4 * 4) with
              | .ok t => (s.hbmRead t.pa (dieOf T.core)).icacheAdd (podOf T.core) (lineOf t.pa)
              | .error _ => s
          s.modGrp team gint fun g => { g with frozen := false })

/-! ## Lane copies and credits -/

/-- CPA_COMPLETE (R146): in issue order, once every part has been performed, what it writes is complete at its stash or at the
home, the window lines it lands in are filled, and no earlier stash access of its group to the same addresses waits (R351, log 67). -/
def execCpaComplete (op : Nat) (s : State) : Host.Outcome State Fault Refusal :=
  event (match Tab.find s.ops op with
    | none => s
    | some o =>
      let older := s.ops.any fun (id, q) => decide (id < op) && q.who = o.who && (q.kind = .cpaIn || q.kind = .cpaOut)
      let lands := if o.kind = .cpaIn then o.lanesUp.map fun a => match unpackStash a.aux with
          | .st t off => (t, off, 16)
          | .pa _ => (0, 0, 0)
        else []
      let free := o.kind ≠ .cpaIn || !s.stashBefore o.who op (o.lanesUp.map LaneAcc.sname)
      if (o.kind = .cpaIn || (o.kind = .cpaOut && o.complete (s.dieNow (dieOf o.core)))) && o.performed && !older && free && !s.spansAbsent lands then
        let s := lands.foldl (fun s (t, off, n) => s.markStash t off n) s
        if lands.all fun (t, off, n) => s.stashMayDirty t off n then s.finishCopy op else s
      else s)

/-- A credit of the object's generation raises BN, saturating, and CHECK is applied (R170, R338). -/
def State.credit (s : State) (c : Credit) : State :=
  if s.barGen c.team c.off = some c.gen then
    let b := s.barRead c.team c.off
    s.barWrite c.team c.off (barCheck (setField b 12 3 (min 0xFFFFFF (field b 12 3 + c.bytes))))
  else s

/-- BARRIER_CREDIT (R170, R338). -/
def execBarrierCredit (k : Nat) (s : State) : Host.Outcome State Fault Refusal :=
  event (match s.credits[k]? with
    | none => s
    | some c => ({ s with credits := s.credits.eraseIdx k } : State).credit c)

end Sys2Proof.Machine
end

