-- ==== Sys2Proof/Machine/Courier.lean ====
section
/-! DEFINITION. The courier: copies and fills in the background (R178 to R182), its ring (R181), its start and its restart
(R238, R239). -/

namespace Sys2Proof.Machine

/-! ## Copy descriptors (Table 06-12) -/

def Copy.f (c : Copy) (off n : Nat) : Nat := field c.desc off n

def Copy.flag (c : Copy) (i : Nat) : Bool := bitOf (c.f 60 2) i

/-- Bytes of the shape. -/
def Copy.total (c : Copy) : Nat := c.f 16 4 * c.f 20 4 * c.f 24 4

/-- Address of the shape's byte `k` from a base and two pitches, modulo 2^64. -/
def Copy.addr (c : Copy) (base py pz k : Nat) : Nat :=
  let x := c.f 16 4
  let y := c.f 20 4
  (base + k / (x * y) * pz + k / x % y * py + k % x) % 2 ^ 64

def Copy.src (c : Copy) (k : Nat) : Nat := c.addr (c.f 0 8) (c.f 28 4) (c.f 32 8) k

def Copy.dst (c : Copy) (k : Nat) : Nat := c.addr (c.f 8 8) (c.f 40 4) (c.f 48 8) k

/-- Bytes of the unit at the cursor: those of its row in one 64-byte sector of the destination (R179, DEDUCED, log 21). -/
def Copy.unit (c : Copy) : Nat := min (c.f 16 4 - c.cursor % c.f 16 4) (64 - c.dst c.cursor % 64)

/-- The zero fields of a descriptor are zero. -/
def descOk (b : List Byte) : Bool := field b 44 4 = 0 && decide (field b 60 2 < 16)

/-- A copy enters its courier's list with the next serial; a shape without bytes, or a fill that names a stash source, is
finished at once (R179, R180). -/
def Iss.startCopy (x : Iss) (s : State) (fill : Bool) (b : List Byte) : State :=
  s.modCore x.core fun k => { k with courier := k.courier.map fun (y : Courier) =>
    let c : Copy := { fill := fill, desc := b, serial := y.next }
    let c := if fill && c.flag 0 then { c with finished := true, status := some .operand } else if c.total = 0 then { c with finished := true } else c
    { y with copies := y.copies ++ [c], next := y.next + 1 } }

/-- The checks of R178 and the start of a copy. -/
def Iss.copyWord (x : Iss) (s : State) (fill : Bool) : Except State State := do
  let va := (x.g.spair x.a).toNat
  if va % 64 ≠ 0 then throw (x.raiseAt s .align va)
  let (b, s) ← x.record s va 64
  if !descOk b then throw (x.raise s .reservedBits)
  return x.startCopy s fill b

/-- `bcopy` (R178, R179). -/
def execBcopy (a : BitVec 6) (s : State) : Host.Outcome State Fault Refusal := word (.bcopy a) s fun x s => x.copyWord s false

/-- `bfill` (R178, R180). -/
def execBfill (a : BitVec 6) (s : State) : Host.Outcome State Fault Refusal := word (.bfill a) s fun x s => x.copyWord s true

/-- A ring of R181: its size is a power of two from 64 to 2^20. -/
def ringSizeOk (n : Nat) : Bool := (List.range 15).any fun i => n = 2 ^ (6 + i)

/-- `cring` (R181): the ring is set and serials restart at 1. A copy in flight keeps its serial, and its record goes where that serial
lies in the new ring (DESIGN CHOICE, log 55). -/
def execCring (a b : BitVec 6) (s : State) : Host.Outcome State Fault Refusal :=
  word (.cring a b) s fun x s =>
    let base := x.g.spair x.a
    let size := (x.g.sreg x.b).toNat
    if base.toNat % 32 ≠ 0 || !ringSizeOk size then .error (x.raise s .operand)
    else .ok (s.modCore x.core fun k => { k with courier := k.courier.map fun (y : Courier) => { y with ring := base, size := size, next := 1 } })

/-! ## One unit (R179) -/

/-- The team and offset that a stash operand names for `n` bytes: the allocation of a team of the courier core's clusters. An operand
whose zero bits are not zero names none: STASH_RANGE in the record (DEDUCED, log 54). -/
def State.copyStash (s : State) (core ctx a n : Nat) : Option (Nat × Nat) :=
  if a / 2 ^ 19 % 2 ^ 29 ≠ 0 then none
  else match s.teams.find? fun (_, U) => U.ctx = ctx && U.stashid.toNat = a / 2 ^ 48 && dieOf U.core = dieOf core && U.stashid ≠ 0 &&
      (U.core = core || s.teams.any fun (_, T) => T.core = core && T.kind = .team && U.kind = .team && T.ctx = ctx && T.lid = U.lid && T.cluster = U.cluster) with
    | none => none
    | some (u, U) => if a % 2 ^ 19 + n ≤ U.kobj.stash then some (u, a % 2 ^ 19) else none

/-- What became of a unit's read or write: it failed at an address, it must wait, or it gave a value. -/
inductive UnitR (α : Type) where
  | fail (f : FCode) (addr : Nat)
  | wait
  | ok (a : α)

/-- The fault of a stash range's first touch: an ABSENT line of a window whose page no longer translates (DEDUCED, log 20). -/
def State.touchFault (s : State) (t off n : Nat) : Option FCode :=
  (s.team t).bind fun T => (stashLines off n).findSome? fun o =>
    if !T.absent o then none
    else (T.winAt o).bind fun (w, i) => (Tab.find T.wins w).bind fun W => match s.trans T.core T.ctx .r (W.base.toNat + 128 * i) with
      | .error f => some f
      | .ok _ => none

/-- Bytes of a source range of at most 64 bytes, with its first sector's tag (log 64) and whether a sector is poisoned. -/
def State.unitRead (s : State) (core ctx : Nat) (stash : Bool) (a n : Nat) : UnitR (State × List Byte × Tag × Bool) :=
  if stash then
    match s.copyStash core ctx a n with
    | none => .fail .stashRange a
    | some (t, off) => match s.touchStash t off n with
      | none => match s.touchFault t off n with
        | some f => .fail f a
        | none => .wait
      | some s =>
        let l := Loc.st t off
        .ok (s, s.locRead l n, s.locTag l, s.locPoisoned l || s.locPoisoned (.st t (off + n - 1)))
  else if !s.vaReady core ctx .r a n then .wait
  else
    match s.readVA core ctx a n with
    | .error (f, x) => .fail f x
    | .ok b => match s.trans core ctx .r a, s.trans core ctx .r ((a + n - 1) % 2 ^ 64) with
      | .ok t, .ok u =>
        let tag := s.tagAt t.pa
        let bad := s.poisonedAt t.pa || s.poisonedAt u.pa
        let s := s.hbmRead t.pa (dieOf core)
        .ok (if lineOf t.pa = lineOf u.pa then s else s.hbmRead u.pa (dieOf core), b, tag, bad)
      | .error f, _ => .fail f a
      | _, .error f => .fail f a

/-- The source shape takes in the byte at an address: in some plane, the last row that does not start after it. -/
def Copy.takes (c : Copy) (a : Nat) : Bool :=
  decide (0 < c.total) && (List.range (c.f 24 4)).any fun z =>
    let d := (a + 2 ^ 64 - (c.f 0 8 + z * c.f 32 8) % 2 ^ 64) % 2 ^ 64
    let y := if c.f 28 4 = 0 then 0 else min (d / c.f 28 4) (c.f 20 4 - 1)
    decide (d - y * c.f 28 4 < c.f 16 4)

/-- Bytes of the overlap of the source and destination ranges are free values (R179, R5): the byte at `a` of the destination,
where the source takes it in. -/
def Copy.freeByte (c : Copy) (a : Nat) (b : Byte) (s : State) : Byte × State :=
  if !c.fill && c.flag 0 = c.flag 1 && c.takes a then
    let (v, s) := s.free
    (v.setWidth 8, s)
  else (b, s)

def Copy.freeBytes (c : Copy) : Nat → List Byte → State → List Byte × State
  | _, [], s => ([], s)
  | a, b :: bs, s =>
    let (b, s) := c.freeByte a b s
    let (bs, s) := c.freeBytes (a + 1) bs s
    (b :: bs, s)

/-- Pieces of a stash range outside live barrier objects: offset in the range and bytes. -/
def outsideBars (T : Team) (off : Nat) : Nat → List Byte → List (Nat × Byte)
  | _, [] => []
  | i, b :: bs => if T.overBar (off + i) 1 then outsideBars T off (i + 1) bs else (i, b) :: outsideBars T off (i + 1) bs

/-- What a written unit reports: the state, the bytes written, whether any was skipped, the completion time, and what the copy has
covered of its destination sectors. -/
structure UnitW where
  s : State
  count : Nat
  skipped : Bool
  wct : Nat
  cover : Tab (BitVec 64)

/-- The bytes of a sector covered once those at the offsets listed are written too. -/
def covered (m : BitVec 64) (offs : List Nat) : BitVec 64 := offs.foldl (fun m i => m ||| BitVec.ofNat 64 (2 ^ (i % 64))) m

/-- The cover of a copy after a unit in the sector of a destination address, and whether the sector has now been written whole. -/
def Copy.covers (c : Copy) (place : Nat) (offs : List Nat) : Tab (BitVec 64) × Bool :=
  let m := covered (Tab.get 0 c.cover place) offs
  if m = BitVec.allOnes 64 then (Tab.set 0 c.cover place 0, true) else (Tab.set 0 c.cover place m, false)

/-- A unit written into a stash: the bytes of live barrier objects are skipped. A sector written whole, by one unit or by several, takes the
tag of the unit that completes it (R179, log 64). `a` is the destination address. -/
def Copy.unitStash (c : Copy) (s : State) (t off a : Nat) (bs : List Byte) (tag : Option Tag) : UnitR UnitW :=
  match s.touchStash t off bs.length with
  | none => match s.touchFault t off bs.length with
    | some f => .fail f off
    | none => .wait
  | some s =>
    let s := s.markStash t off bs.length
    if !s.stashMayDirty t off bs.length then .wait
    else match s.team t with
      | none => .wait
      | some T =>
        let ps := outsideBars T off 0 bs
        let s := (s.touched t off bs.length).stashPut t off fun T => { T with stash := ps.foldl (fun m e => Tab.set 0 m (off + e.1) e.2) T.stash }
        let (cover, whole) := c.covers (a / 64) (ps.map fun e => off + e.1)
        let s := match tag with
          | some g => if whole then s.locPutTag (.st t off) g else s
          | none => s
        let s := if tag.isSome && bs.length = 64 && ps.length = 64 then s.modTeam t fun T => { T with spoison := T.spoison.filter (· ≠ off / 64) } else s
        .ok { s := s, count := ps.length, skipped := ps.length ≠ bs.length, wct := 0, cover := cover }

/-- A unit written at a line's home: a held line holds the unit, as does one that takes no request, and a line that a window owns is recalled
first. -/
def Copy.unitHome (c : Copy) (s : State) (core ctx a : Nat) (bs : List Byte) (tag : Option Tag) : UnitR UnitW :=
  if !vaOk a then .fail .address a
  else if !s.tablesReady core ctx a then .wait
  else match s.trans core ctx .w a with
    | .error f => .fail f a
    | .ok t =>
      let ln := lineOf t.pa
      if s.lineHeld ln || s.anyHeld ln || !s.takes t.pa then .wait
      else
        let s := (s.recall ln).markDirty (t.dirt ctx core)
        if !s.dirtyDone (t.dirt ctx core) then .wait
        else
          let wct := s.wctFor ln (dieOf core)
          let s := s.cohWriteLine t.pa bs
          let (cover, whole) := c.covers (a / 64) ((List.range bs.length).map (t.pa + ·))
          let s := match tag with
            | some g => if whole then s.putTag t.pa g else s
            | none => s
          let s := if tag.isSome && bs.length = 64 then { s with poison := s.poison.filter (· ≠ sectorOf t.pa) } else s
          .ok { s := s, count := bs.length, skipped := false, wct := wct, cover := cover }

def State.setCopy (s : State) (core n : Nat) (c : Copy) : State :=
  s.modCore core fun k => { k with courier := k.courier.map fun (y : Courier) => { y with copies := y.copies.set n c } }

/-- The copy is over: with FLAGS[3] the object bound at its start is credited by the bytes written (R179, R338). -/
def State.endCopy (s : State) (core n : Nat) (c : Copy) : State :=
  let s := match c.bound with
    | some (t, off, gen) => if c.done = 0 then s else { s with credits := s.credits ++ [Credit.mk t off gen c.done] }
    | none => s
  s.setCopy core n { c with finished := true }

/-- The barrier object that a copy into a stash names, bound as it starts; a copy into global memory names no team, and none (log 64). -/
def Copy.bind (c : Copy) (s : State) (core ctx : Nat) : Copy :=
  if c.started then c
  else
    let b := if c.flag 3 && c.flag 1 then
        match s.copyStash core ctx (c.f 8 8) 0 with
        | some (t, _) => (s.barGen t (16 * c.f 62 2)).map fun g => (t, 16 * c.f 62 2, g)
        | none => none
      else none
    { c with started := true, bound := b }

/-- The unit at the cursor of copy `n` of a core's courier. A unit that fails at its source is named by its source address, one that fails at
its destination by that (log 64). -/
def State.copyUnit (s : State) (core ctx n : Nat) (c : Copy) (dataError : Bool) : State :=
  let c := c.bind s core ctx
  let m := c.unit
  let src := c.src c.cursor
  let dst := c.dst c.cursor
  let fail := fun (s : State) (f : FCode) (a : Nat) => s.endCopy core n { c with status := some f, faddr := BitVec.ofNat 64 a }
  let read : UnitR (State × List Byte × Tag × Bool) :=
    if c.fill then .ok (s, (List.range m).map fun i => (c.desc.drop ((dst + i) % 8)).headD 0, 0, false)
    else s.unitRead core ctx (c.flag 0) src m
  match read with
  | .wait => s
  | .fail f _ => fail s f src
  | .ok (s, bs, tag, bad) =>
    if bad || (dataError && !c.fill) then fail s .uncorrectable src
    else
      let (bs, s) := c.freeBytes dst bs s
      let tag := if c.flag 2 then some tag else none
      let w := if c.flag 1 then
          match s.copyStash core ctx dst m with
          | none => .fail .stashRange dst
          | some (t, off) => c.unitStash s t off dst bs tag
        else c.unitHome s core ctx dst bs tag
      match w with
      | .wait => s
      | .fail f _ => fail s f dst
      | .ok u =>
        let c := { c with cursor := c.cursor + m, done := c.done + u.count, wct := max c.wct u.wct, cover := u.cover
                          status := if u.skipped then some .barrierClobber else c.status }
        if c.total ≤ c.cursor then u.s.endCopy core n c else u.s.setCopy core n c

/-- BULK_COPY_UNIT (R179, R182): the first unfinished copy of a core's courier writes one unit; `dataError` is an
uncorrectable error that the read of its source meets. -/
def execBulkCopyUnit (core : Nat) (dataError : Bool) (s : State) : Host.Outcome State Fault Refusal :=
  event (match (s.core core).courier with
    | none => s
    | some y => match (List.range y.copies.length).find? fun i => (y.copies[i]?).any fun c => !c.finished with
      | none => s
      | some n => match y.copies[n]? with
        | none => s
        | some c => s.copyUnit core y.ctx n c dataError)

/-- The record of Table 06-13 without its serial. -/
def Copy.recordBytes (c : Copy) : List Byte :=
  leBytes 4 (c.f 56 4) ++ leBytes 2 (match c.status with | some f => f.code | none => 0) ++ zeros 2 ++ leBytes 8 c.done ++ leBytes 8 c.faddr.toNat

/-- COPY_COMPLETION_RECORD (R181): the oldest copy, finished and complete at device scope, writes its record, SERIAL last. A
courier without a ring, or a ring that cannot be written, gets none (DESIGN CHOICE, log 12). -/
def execCopyCompletionRecord (core : Nat) (s : State) : Host.Outcome State Fault Refusal :=
  event (match (s.core core).courier with
    | none => s
    | some y => match y.copies with
      | [] => s
      | c :: rest =>
        if !c.finished || s.dieNow (dieOf core) < c.wct then s
        else
          let a := y.ring.toNat + 32 * ((c.serial - 1) % (y.size / 32))
          let s := s.modCore core fun k => { k with courier := k.courier.map fun (y : Courier) => { y with copies := rest } }
          if y.size = 0 then s
          else match s.writeVA core y.ctx a c.recordBytes (.copy core) with
            | .error _ => s
            | .ok s => match s.writeVA core y.ctx (a + 24) (leBytes 8 c.serial) (.copy core) with
              | .error _ => s
              | .ok s => s)

/-! ## Start and restart (R238, R239) -/

/-- A new instance's state. -/
def newCourier (ctx n : Nat) (entry param : DWord) (now : Nat) : Courier :=
  { ctx := ctx, num := n, cpc := cpcBits entry, last := now
    s := Tab.set 0 (Tab.set 0 (Tab.set 0 [] 2 (param.extractLsb' 0 32)) 3 (param.extractLsb' 32 32)) 4 (BitVec.ofNat 32 n) }

/-- COURIER_START (R238): the resident context's first residency on this core starts an instance where its entry is named; on
a core where it has been before, or while restored instances wait for a core, a saved instance goes on. -/
def execCourierStart (core : Nat) (s : State) : Host.Outcome State Fault Refusal :=
  let k := s.core core
  event (match k.ctx, k.courier with
    | some x, none =>
      let c := s.ctx x
      if c.centry = 0 then s
      else if c.courierCores.contains core || decide (c.courierCores.length < c.couriers) then
        match c.savedCouriers with
        | [] => s
        | y :: rest => (s.modCtx x fun c => { c with savedCouriers := rest
                                                     courierCores := if c.courierCores.contains core then c.courierCores else core :: c.courierCores }).modCore core fun k => { k with courier := some y }
      else if 384 ≤ c.couriers then s
      else
        (s.modCtx x fun c => { c with couriers := c.couriers + 1, courierCores := core :: c.courierCores }).modCore core fun k =>
          { k with courier := some (newCourier x c.couriers c.centry c.cparam s.gtime) }
    | _, _ => s)

end Sys2Proof.Machine
end

