-- ==== Sys2Proof/Machine/Dot.lean ====
section
/-! DEFINITION. Dot products (R134, R135). -/

namespace Sys2Proof.Machine

/-- `dot4.e4m3`. -/
def execDot4E4m3 (g : BitVec 3) (d a b : BitVec 7) (s : State) : Host.Outcome State Fault Refusal :=
  word (.dot4E4m3 g d a b) s fun x s => x.fmap s fun l => dotOp .e4m3 4 (x.g.code x.a l) (x.g.code x.b l) (x.g.code x.d l)

/-- `dot4.e5m2`. -/
def execDot4E5m2 (g : BitVec 3) (d a b : BitVec 7) (s : State) : Host.Outcome State Fault Refusal :=
  word (.dot4E5m2 g d a b) s fun x s => x.fmap s fun l => dotOp .e5m2 4 (x.g.code x.a l) (x.g.code x.b l) (x.g.code x.d l)

/-- `dot4.i8`. -/
def execDot4I8 (g : BitVec 3) (d a b : BitVec 7) (s : State) : Host.Outcome State Fault Refusal :=
  word (.dot4I8 g d a b) s fun x s => x.fmap s fun l => dotIntOp 8 4 true (x.g.code x.a l) (x.g.code x.b l) (x.g.code x.d l)

/-- `dot4.n8`. -/
def execDot4N8 (g : BitVec 3) (d a b : BitVec 7) (s : State) : Host.Outcome State Fault Refusal :=
  word (.dot4N8 g d a b) s fun x s => x.fmap s fun l => dotIntOp 8 4 false (x.g.code x.a l) (x.g.code x.b l) (x.g.code x.d l)

/-- `dot8.e2m1`. -/
def execDot8E2m1 (g : BitVec 3) (d a b : BitVec 7) (s : State) : Host.Outcome State Fault Refusal :=
  word (.dot8E2m1 g d a b) s fun x s => x.fmap s fun l => dotOp .e2m1 8 (x.g.code x.a l) (x.g.code x.b l) (x.g.code x.d l)

/-- `dot8.i4`. -/
def execDot8I4 (g : BitVec 3) (d a b : BitVec 7) (s : State) : Host.Outcome State Fault Refusal :=
  word (.dot8I4 g d a b) s fun x s => x.fmap s fun l => dotIntOp 4 8 true (x.g.code x.a l) (x.g.code x.b l) (x.g.code x.d l)

/-- `dot2.f16`. -/
def execDot2F16 (g : BitVec 3) (d a b : BitVec 7) (s : State) : Host.Outcome State Fault Refusal :=
  word (.dot2F16 g d a b) s fun x s => x.fmap s fun l => dotOp .fp16 2 (x.g.code x.a l) (x.g.code x.b l) (x.g.code x.d l)

/-- `dot2.bf16`. -/
def execDot2Bf16 (g : BitVec 3) (d a b : BitVec 7) (s : State) : Host.Outcome State Fault Refusal :=
  word (.dot2Bf16 g d a b) s fun x s => x.fmap s fun l => dotOp .bf16 2 (x.g.code x.a l) (x.g.code x.b l) (x.g.code x.d l)

end Sys2Proof.Machine
end

