-- ==== Sys2Proof/Machine/Half.lean ====
section
/-! DEFINITION. Half-pair arithmetic (R128). -/

namespace Sys2Proof.Machine

/-- Two elements combined apart, their flags ORed. -/
def pairOp (f : Word → Word → Word → Word × Flags) (a b d : Word) : Word × Flags :=
  let lo := f (element 16 0 a) (element 16 0 b) (element 16 0 d)
  let hi := f (element 16 1 a) (element 16 1 b) (element 16 1 d)
  (lo.1 ||| (hi.1 <<< 16), lo.2 ||| hi.2)

/-- A half-pair form over the active lanes. -/
def Iss.hmap (x : Iss) (s : State) (f : Word → Word → Word → Word × Flags) : Except State State :=
  x.fmap s fun l => pairOp f (x.g.code x.a l) (x.g.code x.b l) (x.g.code x.d l)

/-- `hadd2.f16`. -/
def execHadd2F16 (g : BitVec 3) (d a b : BitVec 7) (s : State) : Host.Outcome State Fault Refusal :=
  word (.hadd2F16 g d a b) s fun x s => x.hmap s fun a b _ => NFmt.fp16.addOp x.mode a b

/-- `hmul2.f16`. -/
def execHmul2F16 (g : BitVec 3) (d a b : BitVec 7) (s : State) : Host.Outcome State Fault Refusal :=
  word (.hmul2F16 g d a b) s fun x s => x.hmap s fun a b _ => NFmt.fp16.mulOp x.mode a b

/-- `hfma2.f16`. -/
def execHfma2F16 (g : BitVec 3) (d a b : BitVec 7) (s : State) : Host.Outcome State Fault Refusal :=
  word (.hfma2F16 g d a b) s fun x s => x.hmap s fun a b d => NFmt.fp16.fmaOp x.mode a b d

/-- `hmax2.f16`. -/
def execHmax2F16 (g : BitVec 3) (d a b : BitVec 7) (s : State) : Host.Outcome State Fault Refusal :=
  word (.hmax2F16 g d a b) s fun x s => x.hmap s fun a b _ => (NFmt.fp16.maxOp a b, 0)

/-- `hadd2.bf16`. -/
def execHadd2Bf16 (g : BitVec 3) (d a b : BitVec 7) (s : State) : Host.Outcome State Fault Refusal :=
  word (.hadd2Bf16 g d a b) s fun x s => x.hmap s fun a b _ => NFmt.bf16.addOp x.mode a b

/-- `hmul2.bf16`. -/
def execHmul2Bf16 (g : BitVec 3) (d a b : BitVec 7) (s : State) : Host.Outcome State Fault Refusal :=
  word (.hmul2Bf16 g d a b) s fun x s => x.hmap s fun a b _ => NFmt.bf16.mulOp x.mode a b

/-- `hfma2.bf16`. -/
def execHfma2Bf16 (g : BitVec 3) (d a b : BitVec 7) (s : State) : Host.Outcome State Fault Refusal :=
  word (.hfma2Bf16 g d a b) s fun x s => x.hmap s fun a b d => NFmt.bf16.fmaOp x.mode a b d

/-- `hmax2.bf16`. -/
def execHmax2Bf16 (g : BitVec 3) (d a b : BitVec 7) (s : State) : Host.Outcome State Fault Refusal :=
  word (.hmax2Bf16 g d a b) s fun x s => x.hmap s fun a b _ => (NFmt.bf16.maxOp a b, 0)

end Sys2Proof.Machine
end

