-- ==== Sys2Proof/Machine/Lanes.lean ====
section
/-! DEFINITION. Lane exchange and group-wide forms (R79, R91, R92, R94 to R98). -/

namespace Sys2Proof.Machine

/-- d := the value of a in the source lane where that lane is active, else the lane's own (R91). -/
def Iss.shuffle (x : Iss) (s : State) (src : Nat → Nat → Int) : Except State State :=
  .ok (x.setV s x.d x.act fun l =>
    let n := src l (x.g.code x.b l).toNat
    if 0 ≤ n ∧ n ≤ 95 ∧ x.act.getLsbD n.toNat then x.g.code x.a n.toNat else x.g.code x.a l)

/-- A destination of vector or scalar code: every active lane, or the scalar once where a lane is active (R79). -/
def Iss.setAny (x : Iss) (s : State) (v : Word) : State :=
  if x.act = 0 then s else if x.d < 96 then x.setV s x.d x.act fun _ => v else x.setS s (x.d - 96) v

/-- OP of selectors 0 to 10 with its flags (R94). -/
def laneOp (sel : Nat) (u w : Word) : Word × BitVec 5 :=
  match sel with
  | 0 => (u + w, 0)
  | 1 => NFmt.fp32.addOp .rne u w
  | 2 => (minS u w, 0)
  | 3 => (minN u w, 0)
  | 4 => (NFmt.fp32.minOp u w, 0)
  | 5 => (maxS u w, 0)
  | 6 => (maxN u w, 0)
  | 7 => (NFmt.fp32.maxOp u w, 0)
  | 8 => (u &&& w, 0)
  | 9 => (u ||| w, 0)
  | _ => (u ^^^ w, 0)

/-- IDENTITY of selectors 0 to 10 (Table 04-6). -/
def laneIdent (sel : Nat) : Word :=
  match sel with
  | 1 => 0x80000000
  | 2 => 0x7FFFFFFF
  | 3 => 0xFFFFFFFF
  | 4 => 0x7F800000
  | 5 => 0x80000000
  | 7 => 0xFF800000
  | 8 => 0xFFFFFFFF
  | _ => 0

/-- One level of the tree of R95: neighbours combined, absent ones passed up. -/
def treeLevel (sel : Nat) : List (Option Word) → List (Option Word) × BitVec 5
  | u :: w :: t =>
    let (r, f) := treeLevel sel t
    match u, w with
    | some u, some w => let (v, e) := laneOp sel u w; (some v :: r, f ||| e)
    | none, w => (w :: r, f)
    | u, none => (u :: r, f)
  | l => (l, 0)

/-- The tree of R95, seven levels for 96 lanes. -/
def treeReduce (sel : Nat) (l : List (Option Word)) : Nat → List (Option Word) × BitVec 5
  | 0 => (l, 0)
  | n + 1 =>
    let (l, f) := treeLevel sel l
    let (l, e) := treeReduce sel l n
    (l, f ||| e)

/-- The serial scan of R96 over lanes listed: results by lane, the total, and the flags. -/
def scan (sel : Nat) (ex : Bool) (v : Nat → Word) : Word → List Nat → List (Nat × Word) × Word × BitVec 5
  | acc, [] => ([], acc, 0)
  | acc, l :: ls =>
    let (n, e) := laneOp sel acc (v l)
    let (r, t, f) := scan sel ex v n ls
    ((l, if ex then acc else n) :: r, t, f ||| e)

/-- Flags of a group-wide form, merged into GFLAGS. -/
def Iss.groupFlags (x : Iss) (s : State) (f : BitVec 5) : State := s.modGrp x.t x.k fun g => { g with gflags := g.gflags ||| f }

/-- The flags of the additions of R95's tree by lane: an addition's flags are those of the lowest lane among its operands (log 51). -/
def treeLanes (sel : Nat) : List (Option (Nat × Word)) → List (Option (Nat × Word)) × List (Nat × BitVec 5)
  | u :: w :: t =>
    let (r, f) := treeLanes sel t
    match u, w with
    | some u, some w => (some (u.1, (laneOp sel u.2 w.2).1) :: r, (u.1, (laneOp sel u.2 w.2).2) :: f)
    | none, w => (w :: r, f)
    | u, none => (u :: r, f)
  | l => (l, [])

def treeFlags (sel : Nat) (l : List (Option (Nat × Word))) : Nat → List (Nat × BitVec 5)
  | 0 => []
  | n + 1 => (treeLanes sel l).2 ++ treeFlags sel (treeLanes sel l).1 n

/-- The flags of the steps of R96's scan by lane. -/
def scanFlags (sel : Nat) (v : Nat → Word) : Word → List Nat → List (Nat × BitVec 5)
  | _, [] => []
  | acc, l :: ls => (l, (laneOp sel acc (v l)).2) :: scanFlags sel v (laneOp sel acc (v l)).1 ls

/-- Flags of a group-wide form: the group's, or where DZ or NV is lane-precise those of its lanes, which may trap (R121, R123, log 51). -/
def Iss.sumFlags (x : Iss) (s : State) (f : BitVec 5) (byLane : List (Nat × BitVec 5)) : Except State (Iss × State) :=
  if x.precise s = 0 then .ok (x, x.groupFlags s f)
  else x.flagLanes s fun l => byLane.foldl (fun m e => if e.1 = l then m ||| e.2 else m) 0

/-- The word of a 96-bit mask for a beat (R24). -/
def beatWord (m : LaneMask) (b : Nat) : Word := m.extractLsb' (32 * b) 32

/-- `shfl.idx` (R91). -/
def execShflIdx (g : BitVec 3) (d a b : BitVec 7) (s : State) : Host.Outcome State Fault Refusal :=
  word (.shflIdx g d a b) s fun x s => x.shuffle s fun _ n => n

/-- `shfl.xor` (R91). -/
def execShflXor (g : BitVec 3) (d a b : BitVec 7) (s : State) : Host.Outcome State Fault Refusal :=
  word (.shflXor g d a b) s fun x s => x.shuffle s fun l n => (l ^^^ n : Nat)

/-- `shfl.up` (R91). -/
def execShflUp (g : BitVec 3) (d a b : BitVec 7) (s : State) : Host.Outcome State Fault Refusal :=
  word (.shflUp g d a b) s fun x s => x.shuffle s fun l n => (l : Int) - n

/-- `shfl.dn` (R91). -/
def execShflDn (g : BitVec 3) (d a b : BitVec 7) (s : State) : Host.Outcome State Fault Refusal :=
  word (.shflDn g d a b) s fun x s => x.shuffle s fun l n => (l : Int) + n

/-- `gred` (R95, R123). -/
def execGred (g : BitVec 3) (d a n : BitVec 7) (s : State) : Host.Outcome State Fault Refusal :=
  word (.gred g d a n) s fun x s => 
    let (r, f) := treeReduce n.toNat ((List.range 96).map fun l => if x.act.getLsbD l then some (x.g.code x.a l) else none) 7
    match r with
    | some v :: _ =>
      (x.sumFlags s f (treeFlags n.toNat ((List.range 96).map fun l => if x.act.getLsbD l then some (l, x.g.code x.a l) else none) 7)).map fun e =>
        e.1.setAny e.2 v
    | _ => .ok s

/-- `gscan` (R96, R123). -/
def execGscan (g : BitVec 3) (d a n : BitVec 7) (s : State) : Host.Outcome State Fault Refusal :=
  word (.gscan g d a n) s fun x s => 
    let sel := n.toNat % 16
    let (r, total, f) := scan sel (decide (16 ≤ n.toNat)) (fun l => x.g.code x.a l) (laneIdent sel) (lanesOf x.act)
    (x.sumFlags s f (scanFlags sel (fun l => x.g.code x.a l) (laneIdent sel) (lanesOf x.act))).map fun (x, s) =>
      if x.d < 96 then x.setV s x.d x.act fun l => match r.find? fun e => e.1 = l with | some e => e.2 | none => 0
      else x.setAny s total

/-- `vote` (R97). -/
def execVote (g : BitVec 3) (d a n : BitVec 7) (s : State) : Host.Outcome State Fault Refusal :=
  word (.vote g d a n) s fun x s => 
    let p := x.act &&& maskWhere fun l => x.g.code x.a l ≠ 0
    let same := match lanesOf x.act with | [] => true | l :: ls => ls.all fun j => x.g.code x.a j = x.g.code x.a l
    match n.toNat with
    | 0 => .ok (x.setAny s (bit (p ≠ 0)))
    | 1 => .ok (x.setAny s (bit (p = x.act)))
    | 2 => .ok (x.setAny s (bit same))
    | 3 => .ok (x.setAny s (BitVec.ofNat 32 (lanesOf p).length))
    | _ =>
      if x.act = 0 then .ok s
      else if x.d < 96 then .ok (x.setV s x.d x.act fun l => beatWord p (l / 32))
      else .ok (x.setS (x.setS (x.setS s (x.d - 96) (beatWord p 0)) (x.d - 95) (beatWord p 1)) (x.d - 94) (beatWord p 2))

/-- `bcast` (R92). -/
def execBcast (g : BitVec 3) (d a b : BitVec 7) (s : State) : Host.Outcome State Fault Refusal :=
  word (.bcast g d a b) s fun x s => 
    let l := (x.g.code x.b 0).toNat
    .ok (x.setAny s (if l ≤ 95 then x.g.code x.a l else 0))

/-- `compact` (R98). -/
def execCompact (g : BitVec 3) (d a : BitVec 7) (s : State) : Host.Outcome State Fault Refusal :=
  word (.compact g d a) s fun x s => 
    let src := lanesOf (x.act &&& x.g.pred g.toNat)
    let wr := lanesOf x.act
    .ok (x.setV s x.d x.act fun l => match src[wr.idxOf l]? with | some j => x.g.code x.a j | none => 0)

end Sys2Proof.Machine
end

