-- ==== Sys2Proof/Machine/Start.lean ====
section
/-! DEFINITION. Placing work on a core: room (R20, R279), the residency slot (R241), the stash identifier (R234), and a
group's start values (R221, Table 08-2). -/

namespace Sys2Proof.Machine

/-- Stash bytes that the teams of a core hold. -/
def State.stashOn (s : State) (c : Nat) : Nat := s.teams.foldl (fun n (_, T) => if T.core = c then n + T.kobj.stash else n) 0

/-- The dictionary of a kernel is none, or resident, or finds a free place (R279, R335). -/
def State.dictRoom (s : State) (c ctx : Nat) (dict : DWord) : Bool :=
  let used := (s.teams.filterMap fun (_, T) => if T.core = c && T.kobj.dict ≠ 0 then some T.kobj.dict else none).eraseDups
  dict = 0 || used.contains dict || decide (used.length < 4) || (s.core c).dicts.any fun d => d.ctx = ctx && d.addr = dict

/-- A core can take a team of `n` groups of a kernel: its pod is ready, it holds that context or none,
it is not being pre-empted, and it has room (R20, R279, R382, R402). -/
def State.fits (s : State) (c ctx : Nat) (k : KObj) (n : Nat) : Bool :=
  let y := s.core c
  decide (c < Config.cores) && s.ready.getLsbD (podOf c) && !y.pre && (y.ctx = none || y.ctx = some ctx) && decide (s.groupsOn c + n ≤ 16) && decide (s.stashOn c + k.stash ≤ 393216) &&
  s.dictRoom c ctx k.dict && (Tab.free y.slots 0 16).isSome

/-- A pod is allowed by a pod mask (R30). -/
def podAllowed (mask pod : Nat) : Bool := decide (pod < 24) && (mask = 0 || bitOf mask pod)

/-- A set of lanes as the enable bits of the scalars. -/
def startScalars (s : Tab Word) (live : LaneMask) : Tab Word :=
  Tab.set 0 (Tab.set 0 (Tab.set 0 s 61 (live.extractLsb' 0 32)) 62 (live.extractLsb' 32 32)) 63 (live.extractLsb' 64 32)

/-- The start of a group (R221): paths at the entry PC of the lanes that start, scalars and identity as given. -/
def startGrp (entry : DWord) (live : LaneMask) (sc : Tab Word) (id : Ident) : Grp :=
  { exited := ~~~live, s := startScalars sc live, id := id
    quads := (List.range 24).map fun q =>
      (q, if quadBits live q = 0 then {} else { path := some { pc := entry, mask := quadBits live q } }) }

/-- A pair of scalars with a 64-bit value. -/
def scalarPair (s : Tab Word) (n : Nat) (v : DWord) : Tab Word :=
  Tab.set 0 (Tab.set 0 s n (v.extractLsb' 0 32)) (n + 1) (v.extractLsb' 32 32)

/-- The groups of a team of a launch (Table 08-2). -/
def teamGroups (k : KObj) (id : Ident) : Tab Grp :=
  (List.range k.teamg).map fun j => (j, startGrp k.entry (BitVec.allOnes 96) (scalarPair [] 2 id.param) { id with gint := BitVec.ofNat 4 j })

/-- The launches whose teams and tasks run on a core use its MRED from now on (R400). -/
def State.noteMred (s : State) (core : Nat) : State :=
  if !(s.core core).cfg.getLsbD 1 then s
  else { s with launches := s.launches.map fun l =>
    { l with mred := l.mred || s.teams.any fun (_, T) => T.core = core && T.kind ≠ .pair && T.ctx = l.ctx && T.lid = l.lid } }

/-- A team made resident on a core: the lowest free slot, a stash identifier, and its groups (R234, R241). -/
def State.place (s : State) (core : Nat) (T : Team) : State :=
  let slot := (Tab.free (s.core core).slots 0 16).getD 0
  let (v, s) := s.takeId core T.kobj.stash
  let uid := s.nextUid
  let T := { T with core := core, slot := slot, stashid := v, groups := T.groups.map fun (j, g) => (j, { g with id := { g.id with stashid := v }, last := (s.core core).cyc }) }
  let s := s.enterCore core T.ctx
  let s := s.modCore core fun k => { k with slots := Tab.put k.slots slot uid }
  ({ s with teams := Tab.put s.teams uid T, nextUid := uid + 1 } : State).noteMred core

end Sys2Proof.Machine
end

