-- ==== Sys2Proof/Machine/Launch.lean ====
section
/-! DEFINITION. Launches: `launch` and `claunch` (R208, R282, R285 to R288), the queues (R273 to R277, R392), dispatch (R279,
R283), flush points of the hamper (R211, R48), and completion with the manifest (R280, R400). -/

namespace Sys2Proof.Machine

/-! ## Queues -/

def State.queue (s : State) (n : Nat) : Queue := Tab.get {} s.queues n

def State.setQueue (s : State) (n : Nat) (q : Queue) : State := { s with queues := Tab.set {} s.queues n q }

/-- Records of a queue's ring. -/
def Queue.entries (q : Queue) : Nat := 2 ^ q.loge

def Queue.recordAddr (q : Queue) (t : Nat) : Nat := q.ring.toNat + 64 * (t % q.entries)

/-- The 64 bytes of a descriptor (Table 11-2). -/
def Queue.bytes (q : Queue) : List Byte :=
  leBytes 8 q.ring.toNat ++ leBytes 8 q.taila.toNat ++ leBytes 8 q.heada.toNat ++ leBytes 1 q.loge ++ leBytes 1 q.prio ++ leBytes 1 q.ctx ++
  leBytes 1 (q.enable.toNat + 2 * q.stopped.toNat) ++ zeros 36

/-- A record of `launch` or `claunch`: the checks of R208, then the implied release. -/
def Iss.launchRecord (x : Iss) (s : State) : Except State (List Byte × State) := do
  let va := x.g.spair x.a
  if va.toNat % 64 ≠ 0 then throw (x.raiseAt s .align va.toNat)
  let (b, s) ← x.record s va.toNat 64
  if !s.doneBefore x.owner s.nextOp 3 then throw (x.hold s)
  return (b, s)

/-- A `launch` that is not entered (SOURCE 5). -/
def Iss.notEntered (x : Iss) (s : State) (reason lid fcode addr : Nat) : State :=
  s.hostFault { source := 5, fcode := fcode, reason := reason, ctx := x.ctx, core := x.core, who := x.T.teamn, lid := lid, pc := x.pc.toNat, addr := addr }

/-- `launch` (R208, R282). -/
def execLaunch (a : BitVec 6) (s : State) : Host.Outcome State Fault Refusal :=
  word (.launch a) s fun x s => do
    if x.act = 0 then return s
    let (b, s) ← x.launchRecord s
    let n := field b 59 1
    let lid := field b 28 4
    let q := s.queue n
    if q.ctx ≠ x.ctx then return x.notEntered s 1 lid 0 0
    if !q.enable || q.stopped then return x.notEntered s 2 lid 0 0
    x.reach s (s.vaTables x.core q.ctx .w (q.recordAddr q.tail) 64 && s.vaTables x.core q.ctx .w q.taila.toNat 8)
    match s.checkVA x.core q.ctx .w (q.recordAddr q.tail) 64 with
    | .error (f, va) => return x.notEntered s 3 lid f.code va
    | .ok _ => match s.checkVA x.core q.ctx .w q.taila.toNat 8 with
      | .error (f, va) => return x.notEntered s 3 lid f.code va
      | .ok _ =>
        if q.entries ≤ q.tail - q.head then throw (x.stall s)
        match s.writeVA x.core q.ctx (q.recordAddr q.tail) b (.queue n) with
        | .error _ => return s
        | .ok s => match s.writeVA x.core q.ctx q.taila.toNat (leBytes 8 (q.tail + 1)) (.queue n) with
          | .error _ => return s
          | .ok s =>
            let s := (s.staleVA x.t x.core q.ctx (q.recordAddr q.tail) 64).staleVA x.t x.core q.ctx q.taila.toNat 8
            return s.setQueue n { q with tail := q.tail + 1 }

/-- What the device itself writes for a queue, a record with its TAIL or HEAD, is complete at system scope. -/
def State.queueIdle (s : State) (q : Nat) : Bool := s.srcIdle (.queue q)

/-- The unit reads TAIL again, once a `launch` has written it, and holds its line; a bad one stops the queue. -/
def State.readTail (s : State) (q : Nat) : State :=
  let d := s.queue q
  if !d.enable || d.stopped || !s.queueIdle q || !s.vaReady ioCore d.ctx .r d.taila.toNat 8 then s
  else match s.readVA ioCore d.ctx d.taila.toNat 8 with
    | .error _ => s
    | .ok b =>
      let t := leNat b
      if t < d.tail ∨ d.entries < t - d.head then
        (s.setQueue q { d with stopped := true, taken := none }).hostFault { source := 4, reason := q, ctx := d.ctx }
      else s.setQueue q { d with tail := t, taken := none }

/-- QUEUE_TAIL_OBSERVE (R274, R275, R392). -/
def execQueueTailObserve (q : Nat) (s : State) : Host.Outcome State Fault Refusal := event (s.readTail q)

/-- TAILA of a queue lies in a host line. -/
def State.tailIn (s : State) (d : Queue) (ln : Nat) : Bool :=
  match s.trans ioCore d.ctx .r d.taila.toNat with
  | .ok t => isHost t.pa && lineOf t.pa = ln
  | .error _ => false

/-- The host's write of a line takes it away from the queues that hold it (R392). -/
def State.takeTails (s : State) (ln : Nat) : State :=
  { s with queues := s.queues.map fun (n, d) => (n, if d.taken.isNone && s.tailIn d ln then { d with taken := some s.gtime } else d) }

/-- TAIL counts whose line the host took 1,000 ticks ago are read (R392). -/
def State.tailsDue (s : State) : State :=
  (s.queues.filter fun e => e.2.taken.any fun n => decide (n + 1000 ≤ s.gtime)).foldl (fun s e => s.readTail e.1) s

/-- Launches of a context in flight. -/
def State.launchesOf (s : State) (c : Nat) : List Launch := s.launches.filter fun l => l.ctx = c

/-- A queue can be taken from (R275); none of a context that stands saved whole (R382, R389). -/
def State.takeable (s : State) (q : Queue) : Bool :=
  q.enable && !q.stopped && !(s.ctx q.ctx).saving && decide (q.head < q.tail) && decide ((s.launchesOf q.ctx).length < 256)

/-- The queue that the unit takes from: the highest PRIO, round-robin after the last among equals; a record that a `launch` makes is seen once
it is written. -/
def State.takeFrom (s : State) : Option Nat :=
  let qs := s.queues.filter fun e => s.takeable e.2 && s.queueIdle e.1
  let top := qs.foldl (fun m e => max m e.2.prio) 0
  ((List.range 128).map fun i => (s.lastQueue + 1 + i) % 128).find? fun n => qs.any fun e => e.1 = n && e.2.prio = top

/-- The tables of a completion record's address can be read. -/
def State.doneReady (s : State) (c : Nat) (done : DWord) : Bool := done = 0 || done.toNat % 16 ≠ 0 || s.vaTables ioCore c .w done.toNat 16

/-- The completion record of Table 11-5, where DONE names one; one that cannot be written is reported (R280). A record under way is
counted for the interrupt source of R393, which sees it once it is complete. -/
def State.doneRecord (s : State) (c lid : Nat) (done : DWord) (reason status : Nat) : State :=
  if done = 0 ∨ done.toNat % 16 ≠ 0 then s
  else match s.writeVA ioCore c done.toNat (leBytes 4 lid ++ leBytes 1 reason ++ zeros 3 ++ leBytes 4 s.gtime ++ leBytes 4 status) (.done c) with
    | .ok s => s.modCtx c fun x => { x with completions := x.completions + 1 }
    | .error (f, _) => s.hostFault { source := 9, fcode := f.code, reason := 1, ctx := c, lid := lid, addr := done.toNat }

/-- A mask names pods, and every one of them has failed its self-test (R277 reason 6, R402). -/
def State.podsFailed (s : State) (mask : Nat) : Bool := mask ≠ 0 && (List.range 24).all fun p => !podAllowed mask p || s.failed.getLsbD p

/-- The reason for which a record is refused, or the launch it makes (R276, R277, R283). -/
def State.launchOf? (s : State) (c qn : Nat) (b : List Byte) : Except Nat Launch :=
  let f := field b
  match s.readKObj c (f 0 8) with
  | .error r => .error r
  | .ok k =>
    let total := dim (f 16 4) * dim (f 20 4) * dim (f 24 4)
    let preds := [f 32 4, f 36 4, f 40 4, f 44 4]
    if 2 ^ 32 < total ∨ total % (k.cx * k.cy) ≠ 0 then .error 3
    else if f 8 8 % 64 ≠ 0 ∨ f 48 8 % 16 ≠ 0 ∨ f 60 4 ≠ 0 then .error 4
    else if f 28 4 = 0 ∨ 2 ^ 31 ≤ f 28 4 ∨ (s.launch c (f 28 4)).isSome then .error 5
    else if s.podsFailed (f 56 3) then .error 6
    else .ok {
      ctx := c, lid := f 28 4, kobj := k, kaddr := BitVec.ofNat 64 (f 0 8), param := BitVec.ofNat 64 (f 8 8), gx := f 16 4, gy := f 20 4, gz := f 24 4,
      preds := preds, done := BitVec.ofNat 64 (f 48 8), pods := f 56 3, queue := qn, order := s.order
      waits := (s.launchesOf c).filterMap fun l => if preds.contains l.lid then some l.order else none
      paramBytes := match s.readVA ioCore c (f 8 8) 64 with
        | .ok b => b
        | .error _ => []
      digests := ((s.ctx c).attached.filter fun e => e.1 = f 28 4).foldl (fun t e => Tab.put t e.2.1 e.2.2) [] }

/-- HEAD := HEAD + 1, written to HEADA. -/
def State.advanceHead (s : State) (n : Nat) (q : Queue) : State :=
  let s := { s.setQueue n { q with head := q.head + 1 } with lastQueue := n }
  match s.writeVA ioCore q.ctx q.heada.toNat (leBytes 8 (q.head + 1)) (.queue n) with
  | .ok s => s
  | .error _ => s

/-- What a take reads and writes can be reached: the record, the kernel object and the parameter block that it names, HEAD, and the completion
record of a refusal (R325, R402). -/
def State.takeReady (s : State) (d : Queue) : Bool :=
  s.vaReady ioCore d.ctx .r (d.recordAddr d.head) 64 && s.vaTables ioCore d.ctx .w d.heada.toNat 8 &&
  match s.readVA ioCore d.ctx (d.recordAddr d.head) 64 with
  | .error _ => true
  | .ok b => s.vaReady ioCore d.ctx .r (field b 0 8) 64 && s.vaReady ioCore d.ctx .r (field b 8 8) 64 && s.doneReady d.ctx (BitVec.ofNat 64 (field b 48 8))

/-- QUEUE_TAKE (R275, R277): one record of the queue whose turn it is: entered, refused, or skipped where it cannot be read. -/
def execQueueTake (q : Nat) (s : State) : Host.Outcome State Fault Refusal :=
  event (if s.takeFrom ≠ some q ∨ !s.takeReady (s.queue q) then s
    else
      let d := s.queue q
      let s := match s.readClean ioCore d.ctx (d.recordAddr d.head) 64 with
        | .error (f, a) => s.hostFault { source := 4, fcode := f.code, reason := q, ctx := d.ctx, addr := a }
        | .ok b => match s.launchOf? d.ctx q b with
          | .ok l =>
            let s := s.modCtx d.ctx fun x => { x with attached := x.attached.filter fun e => e.1 ≠ l.lid }
            { s with launches := s.launches ++ [l], order := s.order + 1 }
          | .error r =>
            let lid := field b 28 4
            (s.hostFault { source := 3, reason := r, ctx := d.ctx, lid := lid }).doneRecord d.ctx lid (BitVec.ofNat 64 (field b 48 8)) r 2
      s.advanceHead q d)

/-! ## The child aggregator (R285 to R288) -/

/-- Number of an open grid of a kernel object in a pod. -/
def State.gridOf (s : State) (pod c : Nat) (kaddr : DWord) : Option Nat :=
  let gs := Tab.get [] s.grids pod
  (List.range gs.length).find? fun i => (gs[i]?).any fun g => g.ctx = c && g.kaddr = kaddr

/-- A child joins grid `k`: its block is written, and a full grid is flushed. None while the child area has no room for the block or for the
table of the flush (R287). -/
def Iss.childJoin (x : Iss) (s : State) (k : Nat) (b : List Byte) : Option State :=
  let pod := podOf x.core
  let gs := Tab.get [] s.grids pod
  match gs[k]?, (s.ctx x.ctx).childTake 64 with
  | some g, some (pos, y) =>
    if 96 ≤ g.children.length then none
    else
      let addr := (s.ctx x.ctx).childAddr pos
      let block := b.drop 8 ++ leBytes 4 x.T.teamn ++ leBytes 4 x.T.lid
      let s := match s.writeVA x.core x.ctx addr block (.child x.ctx) with
        | .ok s => s
        | .error _ => s
      let s := s.modCtx x.ctx fun z => { z with childHead := y.childHead, childFree := y.childFree }
      let g := { g with children := g.children ++ [{ pos := pos, team := x.t, tick := s.gtime }] }
      let s := { s with grids := Tab.set [] s.grids pod (gs.set k g) }
      if g.children.length = 96 then s.flushGrid pod k else some s
  | _, _ => none

/-- A new grid for a kernel, or the report of a child whose kernel object fails (R286). -/
def Iss.childOpen (x : Iss) (s : State) (kaddr : DWord) : Option State :=
  let pod := podOf x.core
  match s.readKObj x.ctx kaddr.toNat with
  | .error _ => none
  | .ok k =>
    if k.cx * k.cy ≠ 1 then none
    else
      let gs := Tab.get [] s.grids pod
      some { s with grids := Tab.set [] s.grids pod (gs ++ [{ ctx := x.ctx, kaddr := kaddr, kobj := k, children := [], first := s.gtime }]) }

/-- The open grid of a kernel flushed where it is due, before another child comes; none while there is no room for its table (R286, R287). -/
def State.flushDue (s : State) (pod c : Nat) (kaddr : DWord) : Option State :=
  match s.gridOf pod c kaddr with
  | none => some s
  | some k => match (Tab.get [] s.grids pod)[k]? with
    | none => some s
    | some g => if s.gridDue g then s.flushGrid pod k else some s

/-- `claunch` (R208, R285). -/
def execClaunch (a : BitVec 6) (s : State) : Host.Outcome State Fault Refusal :=
  word (.claunch a) s fun x s => do
    if x.act = 0 then return s
    let (b, s) ← x.launchRecord s
    let kaddr := BitVec.ofNat 64 (field b 0 8)
    let pod := podOf x.core
    x.reach s (s.vaReady ioCore x.ctx .r kaddr.toNat 64 && match (s.ctx x.ctx).childTake 64 with
      | some (pos, _) => s.vaTables x.core x.ctx .w ((s.ctx x.ctx).childAddr pos) 64
      | none => true)
    let some s₁ := s.flushDue pod x.ctx kaddr | throw (x.stall s)
    match s₁.gridOf pod x.ctx kaddr with
    | some k => match x.childJoin s₁ k b with
      | some s => return s
      | none => throw (x.stall s)
    | none =>
      let some s₂ := (if 8 ≤ (Tab.get [] s₁.grids pod).length then s₁.flushGrid pod 0 else some s₁) | throw (x.stall s)
      let n := (Tab.get [] s₂.grids pod).length
      if 8 ≤ n then throw (x.stall s)
      match x.childOpen s₂ kaddr with
      | none => return s₂.hostFault { source := 6, ctx := x.ctx, core := x.core, who := x.T.teamn, lid := x.T.lid, pc := x.pc.toNat, addr := kaddr.toNat }
      | some s₃ => match x.childJoin s₃ n b with
        | some s => return s
        | none => throw (x.stall s)

/-- CHILD_GRID_TIMER_FLUSH (R286): 4,096 ticks after its first child, or what has made a flush due before and found no room. -/
def execChildGridTimerFlush (pod k : Nat) (s : State) : Host.Outcome State Fault Refusal :=
  event (match (Tab.get [] s.grids pod)[k]? with
    | none => s
    | some g => if s.gridDue g then (s.flushGrid pod k).getD s else s)

/-! ## Dispatch (R279, R283) -/

/-- A launch is succ-ready: every team has executed `succ` or ended. -/
def Launch.succReady (l : Launch) : Bool := decide (l.total ≤ l.succs + l.ended)

/-- The predecessors found at the take allow the launch's teams, and a child grid's table and blocks are written. -/
def State.eligible (s : State) (l : Launch) : Bool :=
  (l.table = 0 || s.srcIdle (.child l.ctx)) && l.waits.all fun p => s.launches.all fun q => q.order ≠ p || q.succReady

/-- The cores form the rectangle of a cluster in one pod, in order of rank (R22). -/
def rectangle (cx cy : Nat) (cores : List Nat) : Bool :=
  match cores with
  | [] => false
  | c :: _ =>
    let col := c % 16 % 4
    let row := c % 16 / 4
    decide (col + cx ≤ 4) && decide (row + cy ≤ 4) && cores = (List.range (cx * cy)).map fun r => c + r % cx + 4 * (r / cx)

/-- The parameter block of team `n` (R276, R288). -/
def State.paramOf (s : State) (l : Launch) (n : Nat) : DWord :=
  match l.blocks[n]? with
  | some p => BitVec.ofNat 64 ((s.ctx l.ctx).childAddr p)
  | none => l.param

/-- Identity of team `n` with rank `r` in its cluster (R37, R233). -/
def State.identOf (s : State) (l : Launch) (n r : Nat) : Ident :=
  let w := BitVec.ofNat 32
  { teamx := w (n % dim l.gx), teamy := w (n / dim l.gx % dim l.gy), teamz := w (n / dim l.gx / dim l.gy), gridx := w l.gx, gridy := w l.gy, gridz := w l.gz,
    teamn := w n, clusx := BitVec.ofNat 2 (r % l.kobj.cx), clusy := BitVec.ofNat 2 (r / l.kobj.cx), param := s.paramOf l n, teamg := BitVec.ofNat 5 l.kobj.teamg,
    width := BitVec.ofNat 4 l.kobj.cx, height := BitVec.ofNat 4 l.kobj.cy }

/-- Team `n` of a launch made resident on a core. -/
def State.dispatchTeam (s : State) (l : Launch) (n r core : Nat) : State :=
  let id := s.identOf l n r
  let T : Team := { ctx := l.ctx, lid := l.lid, kobj := l.kobj, cluster := n / (l.kobj.cx * l.kobj.cy), rank := r, groups := teamGroups l.kobj id }
  s.place core T

/-- The cores of a cluster's rectangle from its first core. -/
def rectCores (k : KObj) (c : Nat) : List Nat := (List.range (k.cx * k.cy)).map fun r => c + r % k.cx + 4 * (r / k.cx)

/-- The ranks of a launch's next cluster that still stand. -/
def Launch.liveRanks (l : Launch) : List Nat := (List.range (l.kobj.cx * l.kobj.cy)).filter fun r => !l.goneTeams.contains (l.nextTeam + r)

/-- The launch's next team or cluster can be placed on some cores now: it is eligible, and they have room (R279). -/
def State.canPlace (s : State) (l : Launch) (cores : List Nat) : Bool :=
  decide (l.nextTeam < l.total) && s.eligible l && rectangle l.kobj.cx l.kobj.cy cores && (cores.all fun c => podAllowed l.pods (podOf c)) &&
  l.liveRanks.all fun r => s.fits (cores.getD r 0) l.ctx l.kobj l.kobj.teamg

/-- A launch is offered room before another of its context: a higher kernel PRIO, or the same and the older take (R279). -/
def Launch.first (m l : Launch) : Bool := m.ctx = l.ctx && (decide (l.kobj.prio < m.kobj.prio) || (m.kobj.prio = l.kobj.prio && decide (m.order < l.order)))

/-- No launch that is offered room before this one finds any. -/
def State.offered (s : State) (l : Launch) : Bool :=
  s.launches.all fun m => !m.first l || (List.range Config.cores).all fun c => !s.canPlace m (rectCores m.kobj c)

/-- TEAM_DISPATCH (R279): the launch's next team or cluster becomes resident whole, on cores with room that its pod mask allows;
a team killed before its dispatch takes no core. The launches of a context are offered room by PRIO and age. -/
def execTeamDispatch (ctx lid : Nat) (cores : List Nat) (s : State) : Host.Outcome State Fault Refusal :=
  event (match s.launch ctx lid with
    | none => s
    | some l =>
      let size := l.kobj.cx * l.kobj.cy
      let base := l.nextTeam
      if !s.canPlace l cores ∨ !s.offered l then s
      else
        let s := s.modLaunch ctx lid fun l => { l with nextTeam := base + size }
        l.liveRanks.foldl (fun s r => s.dispatchTeam l (base + r) r (cores.getD r 0)) s)

/-! ## Flush points (R154, R211, R48) -/

/-- HAMPER_RECORD_HANDOFF (R211): a record leaves its core's hamper for its home, or for the spill log where that has room,
within a flush point: its group waits at `drain` or `gsync`, has ended, or is gone (R154). -/
def execHamperRecordHandoff (k : Nat) (spill : Bool) (s : State) : Host.Outcome State Fault Refusal :=
  event (match s.hamper[k]? with
    | none => s
    | some r => match r.loc with
      | .core _ =>
        let flush := match s.grp r.team r.gint with
          | some g => g.run = .ended || g.waits.any fun w => w.span = 3 || w.span = 4
          | none => true
        if !flush then s
        else if spill then
          if s.spillRoom r.ctx = 0 then s
          else ({ s with hamper := s.hamper.set k { r with loc := .spill } } : State).spillOne r
        else if !s.takes r.pa then s
        else { s with hamper := s.hamper.set k { r with loc := .home } }
      | _ => s)

/-- A group is past an epoch: it has ended, its count is above, or it has arrived at the `gsync` that ends it. -/
def Grp.past (g : Grp) (n : Nat) : Bool :=
  g.run = .ended || decide (n < g.epoch) || (decide (n = g.epoch) && g.waits.any fun w => w.span = 3 && w.arrived)

/-- Every team of a launch, dispatched or not, is past an epoch. -/
def State.allPast (s : State) (l : Launch) (n : Nat) : Bool :=
  let here := fun (T : Team) => T.kind = .team && T.ctx = l.ctx && T.lid = l.lid
  decide (l.total ≤ l.nextTeam) && (s.teams.all fun (_, T) => !here T || T.groups.all fun e => e.2.past n) &&
  (s.ctx l.ctx).saved.all fun v => !here v.team || v.team.groups.all fun e => e.2.past n

/-- The order of application within an epoch (R48). -/
def HRec.before (a b : HRec) : Bool :=
  decide (a.teamn < b.teamn) || (decide (a.teamn = b.teamn) && (decide (a.gint < b.gint) || (decide (a.gint = b.gint) &&
    (decide (a.lane < b.lane) || (decide (a.lane = b.lane) && decide (a.prog ≤ b.prog))))))

def insertRec (a : HRec) : List HRec → List HRec
  | [] => [a]
  | b :: t => if a.before b then a :: b :: t else b :: insertRec a t

/-- One record applied at its home; the write is complete once the leases out on its line have run off (R157, R370). -/
def State.applyRec (s : State) (r : HRec) : State :=
  let old := BitVec.ofNat 64 (leNat (s.cohRead r.pa 4))
  let wct := s.wctFor (lineOf r.pa) (dieOf ioCore)
  let s := s.modLaunch r.ctx r.lid fun l => { l with hwct := max l.hwct wct }
  (s.staleHome r.team r.pa 4).cohWriteLine r.pa (leBytes 4 (atomApply r.k old r.value 0).toNat)

/-- The records listed applied in the order of R48 and their spill space freed. -/
def State.applyRecs (s : State) (c : Nat) (l : List HRec) : State :=
  let s := { s with hamper := s.hamper.filter fun r => !l.contains r }
  let s := (l.foldr insertRec []).foldl State.applyRec s
  s.modCtx c fun x => { x with hlogCons := x.hlogCons + (l.filter fun r => r.loc = HLoc.spill).length }

/-- Records of a launch for a line, or for every line. -/
def State.recsOf (s : State) (c lid : Nat) (line : Option Nat) : List HRec :=
  s.hamper.filter fun r => r.ctx = c && r.lid = lid && (line = none || line = some (lineOf r.pa))

/-- The lowest epoch of some records. -/
def lowestEpoch : List HRec → Option Nat
  | [] => none
  | r :: t => match lowestEpoch t with
    | none => some r.epoch
    | some n => some (min r.epoch n)

/-- The line can take a drain now: no pin and no page lock, and its home takes requests. -/
def State.drainable (s : State) (ln : Nat) : Bool := (s.line ln).pins = 0 && !s.pageLocked ln && s.takes (ln * 128)

/-- What a record knows of its page. -/
def HRec.dirt (r : HRec) : Dirt := { ctx := r.ctx, core := (match r.loc with | .core c => c | _ => ioCore), leaf := r.leaf, d := r.dset, ipa := r.ipa, lsz := r.lsz }

/-- D set for the pages of some records, as far as the log has room (R316). -/
def State.markRecs (s : State) (l : List HRec) : State :=
  l.foldl (fun s r => match s.lineDirt (lineOf r.pa) (some r.dirt) with
    | some d => s.markDirty d
    | none => s) s

/-- Some records may be applied as far as dirty tracking goes. -/
def State.recsClear (s : State) (l : List HRec) : Bool :=
  l.all fun r => match s.lineDirt (lineOf r.pa) (some r.dirt) with
    | some d => s.dirtyDone d
    | none => true

/-- HAMPER_EPOCH_APPLY (R211): the records of a line's lowest epoch, once every team is past it and all have left the cores. -/
def execHamperEpochApply (ctx lid line : Nat) (s : State) : Host.Outcome State Fault Refusal :=
  event (match s.launch ctx lid, lowestEpoch (s.recsOf ctx lid (some line)) with
    | some l, some n =>
      let recs := (s.recsOf ctx lid (some line)).filter fun r => r.epoch = n
      if !s.allPast l n ∨ (recs.any fun r => match r.loc with | .core _ => true | _ => false) ∨ !s.drainable line then s
      else
        let s := s.markRecs recs
        if s.recsClear recs then s.applyRecs ctx recs else s
    | _, _ => s)

/-- Every remaining epoch of a launch, lowest first. -/
def State.applyEpochs (s : State) (c lid : Nat) : Nat → State
  | 0 => s
  | fuel + 1 => match lowestEpoch (s.recsOf c lid none) with
    | none => s
    | some n => (s.applyRecs c ((s.recsOf c lid none).filter fun r => r.epoch = n)).applyEpochs c lid fuel

/-! ## Completion (R280, R400) -/

/-- The device configuration that measurement 4 covers, as bytes in a layout of the model's own (R399). -/
def State.configBytes (s : State) : List Byte :=
  ((List.range Config.cores).flatMap fun c => leBytes 4 (s.core c).cfg.toNat) ++ ((List.range 128).flatMap fun q => (s.queue q).bytes) ++
  (s.peers.flatMap fun (i, p) => leBytes 1 i ++ leBytes 2 p.ports.toNat ++ leBytes 1 p.source.toNat ++ digestBytes p.identity) ++ leBytes 4 s.powerCap

/-- Measurements 1 to 5 (Table 17-5). -/
def State.measurement (s : State) (i : Nat) : List Byte :=
  match i with
  | 1 => digestBytes Config.bootDigest
  | 2 => digestBytes (sha512 s.firmware.image)
  | 3 => leBytes 4 s.firmware.serial.toNat
  | 4 => digestBytes (Config.configDigest s.configBytes)
  | _ => zeros 64

/-- The manifest of a DETERMINISTIC launch. -/
def State.manifest (s : State) (l : Launch) : List Byte :=
  leBytes 4 l.ctx ++ leBytes 4 l.lid ++ digestBytes (sha512 l.kobj.bytes) ++ digestBytes (sha512 l.paramBytes) ++
  ((List.range 4).flatMap fun i => digestBytes (Tab.get 0 l.digests i)) ++
  digestBytes (sha512 ([1, 2, 3, 4, 5].flatMap s.measurement)) ++ leBytes 4 (1 + 2 * l.mred.toNat + 4 * l.foreign.toNat) ++ zeros 52

/-- The last steps of a launch's completion: the manifest kept, the table entry and a child grid's table given back, and the
record. -/
def State.completeLaunch (s : State) (l : Launch) : State :=
  let s := if l.kobj.mode = 2 then s.modCtx l.ctx fun x => { x with manifests := ({ lid := l.lid, bytes := s.manifest l } :: x.manifests).take 16 } else s
  let s := if l.table = 0 then s else s.modCtx l.ctx fun x => x.childGive l.tpos 768
  let s := { s with launches := s.launches.filter fun m => m.order ≠ l.order }
  s.doneRecord l.ctx l.lid l.done 0 (if l.killed then 3 else 1)

/-- LAUNCH_COMPLETE (R280): teams and tasks have ended and the context's counts are performed (R346); the last epochs are applied
first, and the launch completes once every write is complete. -/
def execLaunchComplete (ctx lid : Nat) (s : State) : Host.Outcome State Fault Refusal :=
  event (match s.launch ctx lid with
    | none => s
    | some l =>
      if l.ended < l.total ∨ l.tasks ≠ 0 ∨ s.gtime < l.wct ∨ !s.doneReady ctx l.done ∨ (s.counts.any fun a => a.ctx = ctx) ∨
          !((s.recsOf ctx lid none).all fun r => s.drainable (lineOf r.pa)) then s
      else
        let recs := s.recsOf ctx lid none
        let s := s.markRecs recs
        if !s.recsClear recs then s else
        let s := s.applyEpochs ctx lid (s.hamper.length + 1)
        match s.launch ctx lid with
        | none => s
        | some l => if s.gtime < l.hwct then s else s.completeLaunch l)

end Sys2Proof.Machine
end

