-- ==== Sys2Proof/Machine/Windows.lean ====
section
/-! DEFINITION. Stash windows (R148 to R150) and the cache functions `cflush` and `cinv` (R218). -/

namespace Sys2Proof.Machine

/-- Two ranges share a byte. -/
def overlap (a n b m : Nat) : Bool := decide (a < b + m) && decide (b < a + n)

/-- STASH_RANGE of `stmap` (R148 check 3). -/
def Team.windowBad (T : Team) (base off len : Nat) : Bool :=
  len = 0 || decide (T.kobj.stash < (off + len) * 1024) || decide (16 ≤ T.wins.length) || T.overBar (off * 1024) (len * 1024) ||
  T.wins.any fun (_, w) => overlap off len w.off w.len || overlap base (len * 1024) w.base.toNat (w.len * 1024)

/-- `stmap` (R148, R255). -/
def execStmap (d a b : BitVec 6) (s : State) : Host.Outcome State Fault Refusal :=
  word (.stmap d a b) s fun x s => do
    let base := x.g.spair x.a
    let v := x.g.sreg x.b
    let off := (v.extractLsb' 0 16).toNat
    let len := (v.extractLsb' 16 16).toNat
    if base.toNat % 1024 ≠ 0 then throw (x.raiseAt s .align base.toNat)
    if !vaOk base.toNat then throw (x.raiseAt s .address base.toNat)
    if x.T.windowBad base.toNat off len then throw (x.raise s .stashRange)
    if !s.vaTables x.core x.ctx .r base.toNat (len * 1024) then throw (x.hold s)
    match s.checkLocal x.core x.ctx .r base.toNat (len * 1024) with
    | .error (f, va) => throw (x.raiseAt s f va)
    | .ok _ =>
      let n := (Tab.free x.T.wins 0 16).getD 0
      let s := s.modTeam x.t fun T => { T with wins := Tab.put T.wins n { base := base, off := off, len := len } }
      return x.setS s x.d (BitVec.ofNat 32 n)

/-- The write-back of a window by `stflush` and `stunmap` (R150). -/
def Iss.flushWindow (x : Iss) (s : State) (v : Word) : Except State State :=
  if (Tab.find x.T.wins v.toNat).isNone then .error (x.raise s .stashRange)
  else if !x.allPerformed s || s.winHeld x.t v.toNat then .error (x.hold s)
  else match s.flushWin x.t v.toNat with
    | .error (f, a, s) => .error (x.raise s f v (BitVec.ofNat 64 a) a)
    | .ok s => .ok s

/-- `stflush` (R150). -/
def execStflush (a : BitVec 6) (s : State) : Host.Outcome State Fault Refusal :=
  word (.stflush a) s fun x s => x.flushWindow s (x.g.sreg x.a)

/-- `stunmap` (R150): then the lines are released and the number is free. -/
def execStunmap (a : BitVec 6) (s : State) : Host.Outcome State Fault Refusal :=
  word (.stunmap a) s fun x s => (x.flushWindow s (x.g.sreg x.a)).map fun s => s.dropWin x.t (x.g.sreg x.a).toNat

/-! ## `cflush` and `cinv` -/

/-- The lines that overlap a range of virtual addresses, by the address of each. -/
def linesOver (va n : Nat) : List Nat :=
  if n = 0 then [] else (List.range ((va + n - 1) / 128 - va / 128 + 1)).map fun i => (va / 128 + i) * 128

/-- One line of `cflush`: a dirty window line goes back to its home, a dirty L2 copy to HBM. -/
def State.flushLine (s : State) (core c va : Nat) : Except (FCode × Nat × Nat × State) State :=
  match s.trans core c .r va with
  | .error _ => .ok s
  | .ok t =>
    let ln := lineOf t.pa
    let r := match s.ownerOf ln with
      | some o => match s.writeBack o.team o.win o.idx with
        | .error (f, a) => Except.error (f, a, o.win, s)
        | .ok s => .ok s
      | none => .ok s
    r.map fun s => (s.reportPoison ln).modLine ln fun l => { l with dirty := false }

/-- A dirty window line of a range cannot be written back now: its home holds writes to it (R34, R265). -/
def State.rangeHeld (s : State) (core c : Nat) (ls : List Nat) : Bool :=
  ls.any fun va => match s.trans core c .r va with
    | .ok t => s.recallHeld (lineOf t.pa)
    | .error _ => false

def State.flushLines (s : State) (core c : Nat) : List Nat → Except (FCode × Nat × Nat × State) State
  | [] => .ok s
  | va :: t => match s.flushLine core c va with
    | .error e => .error e
    | .ok s => s.flushLines core c t

/-- The range of `cflush` and `cinv` with its checks (R218), with no lane active too (log 59). -/
def Iss.cacheRange (x : Iss) (s : State) : Except State (List Nat) :=
  let va := (x.g.spair x.a).toNat
  let n := (x.g.sreg x.b).toNat
  if !s.vaReady x.core x.ctx .r va n then .error (x.hold s)
  else match s.checkVA x.core x.ctx .r va n with
  | .error (f, a) => .error (x.raiseAt s f a)
  | .ok _ => .ok (linesOver va n)

/-- `cflush` (R218). -/
def execCflush (a b : BitVec 6) (s : State) : Host.Outcome State Fault Refusal :=
  word (.cflush a b) s fun x s => do
    let ls ← x.cacheRange s
    if !x.allPerformed s || s.rangeHeld x.core x.ctx ls then throw (x.hold s)
    match s.flushLines x.core x.ctx ls with
    | .error (f, a, w, s) => throw (x.raise s f (BitVec.ofNat 32 w) (BitVec.ofNat 64 a) a)
    | .ok s => return s

/-- `cinv` (R218): the core's L1 copies go. -/
def execCinv (a b : BitVec 6) (s : State) : Host.Outcome State Fault Refusal :=
  word (.cinv a b) s fun x s => do
    let ls ← x.cacheRange s
    return ls.foldl (fun s va => match s.trans x.core x.ctx .r va with
      | .ok t => s.modCore x.core fun k => { k with l1 := Tab.del k.l1 (lineOf t.pa) }
      | .error _ => s) s

end Sys2Proof.Machine
end

