-- ==== Sys2Proof/Machine/Multicast.lean ====
section
/-! DEFINITION. Multicast groups: joining, requests, releases and leaving (R172 to R177, R328, R329). -/

namespace Sys2Proof.Machine

/-- The teams of a team's cluster; a task or pair group is a cluster of its own. -/
def Team.clusterSize (T : Team) : Nat := if T.kind = .team then T.kobj.cx * T.kobj.cy else 1

/-- The entry of a group number on a team's die, with its key in the table (R328). -/
def State.mcFind (s : State) (T : Team) (g : Nat) : Option (Nat × McEntry) :=
  s.mcast.find? fun (k, e) => k / 256 = dieOf T.core && e.ctx = T.ctx && e.lid = T.lid && e.cluster = T.cluster && e.g = g

/-- The entry of a group number with the team's member record. -/
def State.mcMember (s : State) (t : Nat) (T : Team) (g : Nat) : Option (Nat × McEntry × McMember) :=
  match s.mcFind T g with
  | none => none
  | some (k, e) => match Tab.find e.members T.rank with
    | none => none
    | some m => if m.team = t then some (k, e, m) else none

/-- A free entry of a die's table. -/
def State.mcFree (s : State) (die : Nat) : Option Nat := Tab.free s.mcast (256 * die) 256

/-- A descriptor outside the limits of Table 06-10 and R172 check 3. -/
def Team.mcBad (T : Team) (b : List Byte) : Bool :=
  let f := field b
  let depth := f 1 1
  let mask := f 2 2
  let ring := f 8 4
  let slot := f 12 4
  let stat := f 16 4
  depth < 2 || 16 < depth || 2 ^ 12 ≤ mask || f 4 4 = 0 || 0xFFFFFF < f 4 4 || ring % 1024 ≠ 0 || slot % 1024 ≠ 0 || slot < 1024 ||
  65536 < slot || stat % 16 ≠ 0 || (f 20 4 ≠ 0xFFFFFFFF && f 20 4 % 16 ≠ 0) || f 24 8 ≠ 0 || !bitOf mask T.rank ||
  2 ^ T.clusterSize ≤ mask || T.kobj.stash < ring + depth * slot || T.kobj.stash < stat + 8 * depth ||
  T.overBar ring (depth * slot) || T.overBar stat (8 * depth)

/-- `mcjoin` (R172, R173): statuses in the order 3, 1, 4, 2. -/
def execMcjoin (d a : BitVec 6) (s : State) : Host.Outcome State Fault Refusal :=
  word (.mcjoin d a) s fun x s => do
    let va := x.g.spair x.a
    if x.act = 0 then return s
    if va.toNat % 32 ≠ 0 then throw (x.raiseAt s .align va.toNat)
    let (b, s) ← x.record s va.toNat 32
    if x.T.mcBad b then throw (x.raise s .mcast)
    let f := field b
    let m : McMember := { team := x.t, stashid := x.T.stashid, ring := f 8 4, depth := f 1 1, stat := f 16 4,
                          bar := if f 20 4 = 0xFFFFFFFF then none else some (f 20 4) }
    match s.mcFind x.T (f 0 1) with
    | some (k, e) =>
      if (Tab.find e.members x.T.rank).isSome then return x.setS s x.d 3
      if e.mask ≠ f 2 2 ∨ e.timer ≠ f 4 4 ∨ e.slot ≠ f 12 4 then return x.setS s x.d 1
      if e.deliv then return x.setS s x.d 4
      return x.setS { s with mcast := Tab.put s.mcast k { e with members := Tab.put e.members x.T.rank m, joinAt := some s.gtime } } x.d 0
    | none => match s.mcFree (dieOf x.core) with
      | none => return x.setS s x.d 2
      | some k =>
        let e : McEntry := { ctx := x.ctx, lid := x.T.lid, cluster := x.T.cluster, g := f 0 1, mask := f 2 2, timer := f 4 4,
                             slot := f 12 4, members := [(x.T.rank, m)], joinAt := some s.gtime }
        return x.setS { s with mcast := Tab.put s.mcast k e } x.d 0

/-- `mcleave` (R177), with no lane active too (log 59). A withdrawal comes before a delivery of the same tick (Table 13-9): the word waits for the tick after one. -/
def execMcleave (a : BitVec 6) (s : State) : Host.Outcome State Fault Refusal :=
  word (.mcleave a) s fun x s =>
    match s.mcMember x.t x.T (x.g.sreg x.a).toNat with
    | none => .error (x.raise s .mcast)
    | some (k, _, m) => if m.lastAt = some s.gtime then .error (x.hold s) else .ok (s.mcWithdraw k x.T.rank)

/-- Physical addresses of the 64-byte sectors of a range. -/
def State.sectorPAs (s : State) (core c va len : Nat) : List Nat :=
  (List.range (len / 64)).map fun i => match s.trans core c .r (va + 64 * i) with
    | .ok t => t.pa
    | .error _ => 0

/-- A sequence record. -/
def McEntry.seq (e : McEntry) (n : Nat) : Option McSeq := e.seqs.find? fun q => q.n = n

def McEntry.setSeq (e : McEntry) (q : McSeq) : McEntry := { e with seqs := e.seqs.map fun r => if r.n = q.n then q else r }

/-- The slot status bits of a team at a sequence (Table 06-11). -/
def State.slotStatus (s : State) (t : Nat) (m : McMember) (n : Nat) : List Byte := s.locRead (.st t (m.stat + 8 * (n % m.depth))) 8

/-- A late request with another range sets MISMATCH while the slot still holds the sequence (R329). -/
def State.lateRequest (s : State) (t : Nat) (m : McMember) (n addr len : Nat) : State :=
  let st := s.slotStatus t m n
  match m.got.find? fun e => e.1 = n with
  | some (_, a, l) =>
    if (a ≠ addr ∨ l ≠ len) ∧ field st 4 4 = n % 2 ^ 32 then
      s.locPut (.st t (m.stat + 8 * (n % m.depth))) (setField st 0 4 (field st 0 4 ||| 8))
    else s
  | none => s

/-- A request of a member that asks for a sequence not yet delivered to it: IFC2 rises, and the entry records it. -/
def Iss.mcAsk (x : Iss) (s : State) (k : Nat) (e : McEntry) (m : McMember) (n addr len : Nat) : State :=
  let m := { m with nreq := m.nreq + 1, reqs := m.reqs ++ [(n, x.k)] }
  let e := match e.seq n with
    | some q =>
      let q := { q with asked := if q.asked.contains x.T.rank then q.asked else q.asked ++ [x.T.rank]
                        mism := if q.addr ≠ addr ∨ q.len ≠ len then q.mism ++ [x.T.rank] else q.mism }
      e.setSeq q
    | none =>
      let q : McSeq := { n := n, addr := addr, len := len, pas := s.sectorPAs x.core x.ctx addr len, asked := [x.T.rank], t0 := s.ctime x.ctx x.core }
      { e with seqs := e.seqs ++ [q] }
  let s := { s with mcast := Tab.put s.mcast k { e with members := Tab.put e.members x.T.rank m } }
  s.modGrp x.t x.k fun g => { g with ifc2 := g.ifc2 + 1 }

/-- The sequence has been delivered to the member already, or its delivery was dropped. -/
def McEntry.past (e : McEntry) (rank n : Nat) : Bool :=
  decide (n < e.released) && match e.seq n with
    | some q => !q.due.contains rank
    | none => true

/-- `mcload` (R174, R329). With no lane active it makes check 1, which depends on no lane, and asks for nothing (R38, log 59). -/
def execMcload (a b : BitVec 6) (s : State) : Host.Outcome State Fault Refusal :=
  word (.mcload a b) s fun x s => do
    let addr := x.g.spair x.a
    let len := (x.g.sreg (x.a + 2)).toNat
    let n := (x.g.sreg (x.a + 3)).toNat
    match s.mcMember x.t x.T (x.g.sreg x.b).toNat with
    | none => throw (x.raise s .mcast)
    | some (k, e, m) =>
      if n ≠ m.nreq % 2 ^ 32 ∨ len = 0 ∨ len % 64 ≠ 0 ∨ e.slot < len then throw (x.raise s .mcast)
      if x.act = 0 then return s
      if addr.toNat % 64 ≠ 0 then throw (x.raiseAt s .align addr.toNat)
      if !s.vaTables x.core x.ctx .r addr.toNat len then throw (x.hold s)
      match s.checkLocal x.core x.ctx .r addr.toNat len with
      | .error (f, va) => throw (x.raiseAt s f va)
      | .ok _ =>
        if e.past x.T.rank m.nreq then
          let s ← match s.readyStash x.t (m.stat + 8 * (m.nreq % m.depth)) 8 with
            | none => throw (x.hold s)
            | some s => pure s
          let s := s.lateRequest x.t m m.nreq addr.toNat len
          return { s with mcast := Tab.put s.mcast k { e with members := Tab.put e.members x.T.rank { m with nreq := m.nreq + 1 } } }
        if (e.seq m.nreq).isNone && 32 ≤ e.seqs.length then throw (x.stall s)
        if 1024 ≤ x.g.ifc2 then throw (x.hold s)
        return x.mcAsk s k e m m.nreq addr.toNat len

/-- `mcrel` (R176): the slot's line is filled before its status is read, and only a release that passes the checks marks it dirty. With no
lane active the checks on its operands are made, and the status is neither read nor written (R38, log 59). -/
def execMcrel (a b : BitVec 6) (s : State) : Host.Outcome State Fault Refusal :=
  word (.mcrel a b) s fun x s =>
    match s.mcMember x.t x.T (x.g.sreg x.a).toNat with
    | none => .error (x.raise s .mcast)
    | some (k, e, m) =>
      let n := (x.g.sreg x.b).toNat
      let at_ := m.stat + 8 * (n % m.depth)
      if n ≠ m.nrel % 2 ^ 32 then .error (x.raise s .mcast)
      else if x.act = 0 then .ok s
      else match s.touchStash x.t at_ 8 with
      | none => .error (x.hold s)
      | some s =>
        let st := s.slotStatus x.t m n
        if field st 4 4 ≠ n ∨ !bitOf (field st 0 4) 0 then .error (x.raise s .mcast)
        else
          let s := s.markStash x.t at_ 8
          if !s.stashMayDirty x.t at_ 8 then .error (x.hold s)
          else
            let s := s.locPut (.st x.t at_) (setField st 0 4 (field st 0 4 - 1))
            .ok { s with mcast := Tab.put s.mcast k { e with members := Tab.put e.members x.T.rank { m with nrel := m.nrel + 1 } } }

end Sys2Proof.Machine
end

