-- ==== Sys2Proof/Machine/Matrix.lean ====
section
/-! DEFINITION. The matrix engine: issue with its checks and the party (R183 to R191), operand fetch with the tag checks (R115,
R190), the product (R185 to R187), batches and deferred faults (R194 to R197). -/

namespace Sys2Proof.Machine

/-! ## Issue -/

/-- Groups that a PARTY value lists. -/
def partyOf (m : BitVec 16) : List Nat := (List.range 16).filter fun j => m.getLsbD j

/-- The operation that an `mma` describes; all six scalars, and MRED of the core, are read now (R183, R242). -/
def Iss.matOp (x : Iss) (mred : Bool) (c : BitVec 7) (a b : BitVec 6) (r z : BitVec 1) (p q : BitVec 2) (i : BitVec 1) : MatOp :=
  { batch := x.g.bopen, idx := x.g.bops, acc := c.toNat, red := r = 1 || mred, z := z = 1, int := i = 1, asrc := p = 1, bsrc := q = 1,
    ovr := BitVec.ofNat 4 x.g.hints.format, abase := x.g.spair a.toNat, apitch := x.g.sreg (a.toNat + 2),
    bbase := x.g.spair b.toNat, bpitch := x.g.sreg (b.toNat + 2), members := x.g.members, lanes := x.en }

/-- PARTY is invalid (R188 check 2). -/
def Iss.partyBad (x : Iss) : Bool :=
  let l := partyOf x.g.members
  2 ≤ l.length && (6 < l.length || !l.contains x.k || (l.any fun j => (Tab.find x.T.groups j).isNone) || x.T.kind ≠ .team)

/-- The name of row or column `i` of an operand: a virtual address, or a stash address. -/
def rowName (stash : Bool) (base : DWord) (pitch : Word) (i : Nat) : Nat :=
  if stash then (base.setWidth 32 + BitVec.ofNat 32 i * pitch : Word).toNat else (base + BitVec.ofNat 64 i * pitch.setWidth 64).toNat

/-- Where the rows of an operand lie, or the first fault of check 6 with its address. -/
def State.rowLocs (s : State) (t : Nat) (T : Team) (stash : Bool) (name : Nat → Nat) : List Nat → Except (FCode × Nat) (List Nat)
  | [] => .ok []
  | i :: is =>
    let a := name i
    let here : Except (FCode × Nat) Nat :=
      if stash then match s.stashRef t T a 512 with
        | none => .error (.stashRange, a)
        | some (u, off) => .ok (packStash u off)
      else if !vaOk a then .error (.address, a)
      else match s.trans T.core T.ctx .r a with
        | .error f => .error (f, a)
        | .ok tr => if isLocal tr.pa then .ok tr.pa else .error (.address, a)
    match here, s.rowLocs t T stash name is with
    | .error e, _ => .error e
    | .ok _, .error e => .error e
    | .ok l, .ok ls => .ok (l :: ls)

/-- A base or pitch that is not a multiple of 512 (R188 check 5). -/
def MatOp.misaligned (o : MatOp) : Bool :=
  let bad := fun (stash : Bool) (base : DWord) (pitch : Word) => (if stash then base.toNat % 2 ^ 32 else base.toNat) % 512 ≠ 0 || pitch.toNat % 512 ≠ 0
  bad o.asrc o.abase o.apitch || bad o.bsrc o.bbase o.bpitch

/-- Checks 5 and 6 of R188: the operation with its rows and columns found, or the fault with FAUX and FADDR. -/
def State.matCheck (s : State) (t : Nat) (T : Team) (o : MatOp) : Except (FCode × Word × Nat) MatOp :=
  if o.misaligned then .error (.align, 0, 0)
  else match s.rowLocs t T o.asrc (rowName o.asrc o.abase o.apitch) (List.range 32) with
    | .error (f, a) => .error (f, 0, a)
    | .ok la => match s.rowLocs t T o.bsrc (rowName o.bsrc o.bbase o.bpitch) (List.range 96) with
      | .error (f, a) => .error (f, 1, a)
      | .ok lb => .ok { o with alocs := la, blocs := lb }

/-- An operation starts: it joins the open batch and NEXTOP advances; while a failure is pending it is discarded at once
(R189, R196). -/
def Grp.startMma (g : Grp) (o : MatOp) : Grp :=
  { g with mops := g.mops ++ [{ o with batch := g.bopen, idx := g.bops, st := if g.defer.isSome then .discarded else .issued }]
           bops := g.bops + 1, nextop := g.nextop + 1 }

/-- Two members' operations differ where the latch compares them (R189). -/
def MatOp.differs (o p : MatOp) : Bool :=
  o.bsrc ≠ p.bsrc || o.red ≠ p.red || o.int ≠ p.int || o.members ≠ p.members || o.bpitch ≠ p.bpitch ||
  (if o.bsrc then o.bbase.setWidth 32 ≠ (p.bbase.setWidth 32 : Word) else o.bbase ≠ p.bbase)

/-- The latch's contents for the groups listed, where every one has arrived with the same number. -/
def State.mustered (s : State) (t : Nat) (num : BitVec 16) : List Nat → Option (List (Nat × Muster))
  | [] => some []
  | j :: js => match (s.grp t j).bind Grp.muster, s.mustered t num js with
    | some m, some l => if m.num = num then some ((j, m) :: l) else none
    | _, _ => none

/-- A fault of a member at its latched word. -/
def State.faultMember (s : State) (t : Nat) (e : Nat × Muster) (f : FCode) (faux : Word) (faddr : Nat) : State :=
  let fq := match s.grp t e.1 with | some g => g.quadsAt e.2.pc | none => []
  s.faultGrp t e.1 f e.2.pc faux (BitVec.ofNat 64 faddr) (fragBits fq)

/-- A member's operation starts, and its fragment leaves the latch. -/
def Grp.leaveLatch (g : Grp) (pc : DWord) (o : MatOp) : Grp :=
  let g := { g.startMma o with muster := none }
  match g.waits.find? fun w => w.pc = pc with
  | some w => g.release w
  | none => g

/-- Every listed group has arrived: comparison, then checks 5 and 6 of every member, then all start (R189). The last to arrive has
aged its quads as its wait began. -/
def Iss.party (x : Iss) (s : State) (l : List (Nat × Muster)) : State :=
  if l.any fun e => l.any fun f => e.2.op.differs f.2.op then l.foldl (fun s e => s.faultMember x.t e .party 1 0) s
  else
    let r := l.map fun e => (e, s.matCheck x.t x.T e.2.op)
    let bad := r.filterMap fun (e, c) => match c with
      | .error f => some (e, f)
      | .ok _ => none
    if bad.isEmpty then
      let s := r.foldl (fun s (e, c) => match c with
        | .ok o => s.modGrp x.t e.1 fun g => g.leaveLatch e.2.pc { o with party := some s.order }
        | .error _ => s) s
      (({ s with order := s.order + 1 } : State).modGrp x.t x.k fun g => { g with waits := x.waitNow s :: g.waits }).retire x false
    else bad.foldl (fun s (e, f) => s.faultMember x.t e f.1 f.2.1 f.2.2) s

/-- `mma` (R183, R188, R189, R191). -/
def execMma (c : BitVec 7) (a b : BitVec 6) (r z : BitVec 1) (p q : BitVec 2) (i : BitVec 1) (s : State) :
    Host.Outcome State Fault Refusal :=
  word (.mma c a b r z p q i) s fun x s =>
    let o := x.matOp ((s.core x.core).cfg.getLsbD 1) c a b r z p q i
    if 256 ≤ x.g.bops then .error (x.raise s .batch)
    else if x.partyBad then .error (x.raise s .party 3)
    else
      let l := partyOf x.g.members
      if l.length < 2 then
        match s.matCheck x.t x.T o with
        | .error (f, faux, a) => .error (x.raise s f faux (BitVec.ofNat 64 a) a)
        | .ok o => .ok (s.modGrp x.t x.k fun g => g.startMma o)
      else if (l.any fun j => (Tab.find x.T.groups j).any fun g => g.run = .ended) then
        .error (x.raise s .party 2)
      else if x.g.muster.any fun m => m.pc ≠ x.pc then .error (x.stall s)
      else
        let m := x.g.muster.getD { pc := x.pc, num := x.g.nextop, op := o }
        let s := (x.stall s).modGrp x.t x.k fun g => { g with muster := some m }
        match s.mustered x.t m.num l with
        | none => .error s
        | some l => .error (x.party s l)

/-! ## Operand fetch (R115, R184, R190, R193) -/

/-- A format code as a format. -/
def fmtOf (c : Nat) : Option NFmt :=
  match c with
  | 1 => some .e2m1
  | 2 => some .e4m3
  | 3 => some .e5m2
  | 4 => some .int8
  | 5 => some .int4
  | 6 => some .bf16
  | 7 => some .fp16
  | 8 => some .fp32
  | _ => none

/-- The combinations of Table 07-1. -/
def comboOk (int : Bool) (a b : Nat) : Bool :=
  if int then (a = 4 && b = 4) || (a = 5 && b = 5)
  else (1 ≤ a && a ≤ 3 && 1 ≤ b && b ≤ 3) || (a = 6 && b = 6) || (a = 7 && b = 7)

/-- Sectors consumed of a row or column of the first format beside the second: 4 where only the first is E2M1 beside an 8-bit
format, else 8. A combination that Table 07-1 does not list counts all 8 (DESIGN CHOICE, log 50). -/
def consumed (a b : Nat) : Nat := if a = 1 && (b = 2 || b = 3) then 4 else 8

/-- Elements multiplied along a row (Table 07-1). -/
def depthOf (a b : Nat) : Nat :=
  if (a = 1 && b = 1) || a = 5 then 1024 else if a = 6 || a = 7 then 256 else 512

def tagCode (t : Tag) : Nat := t.toNat % 256

def tagScale (t : Tag) : Nat := t.toNat / 256

/-- Sectors of a scale group (Table 05-4). -/
def groupSectors (c : Nat) : Nat :=
  match c with
  | 1 | 5 => 2
  | 2 | 3 | 4 => 4
  | 6 | 7 => 8
  | _ => 1

/-- Sector `j` of a row fails a check of R115; `first` is the operand's first code, or `ovr` an override applies. Of a scale group with
unequal tags, the sectors that differ from the group's first sector fail (DESIGN CHOICE, log 50). -/
def sectorBad (ovr : Bool) (first : Nat) (row : List Tag) (j : Nat) : Bool :=
  let t := row.getD j 0
  let c := tagCode t
  if ovr then c ≠ 0
  else
    let h := row.getD (j - j % groupSectors c) 0
    9 ≤ c || c = 0 || (if c ≤ 5 then h ≠ t else tagCode h ≠ c) || c ≠ first

/-- The first failing sector of an operand: row and sector, rows ascending. -/
def tagFail (n : Nat) (bad : List Tag → Nat → Bool) (rows : List (List Tag)) : Option (Nat × Nat) :=
  (List.range rows.length).findSome? fun i =>
    ((List.range n).find? fun j => bad (rows.getD i []) j).map fun j => (i, j)

/-- The location of a row as a place. -/
def rowLoc (stash : Bool) (l : Nat) : Loc := if stash then unpackStash l else .pa l

/-- A location moved by some bytes. -/
def Loc.plus (l : Loc) (n : Nat) : Loc :=
  match l with
  | .pa a => .pa (a + n)
  | .st t off => .st t (off + n)

/-- Bytes of the rows of an operand. -/
def State.rowBytes (s : State) (stash : Bool) (ls : List Nat) : List (BitVec 4096) :=
  ls.map fun l => BitVec.ofNat 4096 (leNat (s.locRead (rowLoc stash l) 512))

/-- Tags of the rows of an operand. -/
def State.rowTags (s : State) (stash : Bool) (ls : List Nat) : List (List Tag) :=
  ls.map fun l => (List.range 8).map fun j => s.locTag ((rowLoc stash l).plus (64 * j))

/-- The first poisoned sector of an operand's rows. -/
def State.rowPoison (s : State) (stash : Bool) (ls : List Nat) : Option (Nat × Nat) :=
  (List.range ls.length).findSome? fun i =>
    ((List.range 8).find? fun j => s.locPoisoned ((rowLoc stash (ls.getD i 0)).plus (64 * j))).map fun j => (i, j)

/-- A stash row lies in a window line that no touch has filled. -/
def State.rowAbsent (s : State) (stash : Bool) (ls : List Nat) : Bool :=
  stash && ls.any fun l => match unpackStash l with
    | .st t off => match s.team t with
      | some T => (List.range 4).any fun j => T.absent (off + 128 * j)
      | none => false
    | .pa _ => false

/-- A failure found after issue (R196): it is recorded, and its operation and every later one of the group are discarded. -/
def Grp.matFail (g : Grp) (gint k : Nat) (code : FCode) (block : BitVec 2) (faddr : Nat) : Grp :=
  match g.mops[k]? with
  | none => g
  | some o =>
    let faux := BitVec.ofNat 32 (2 ^ 31 + gint * 2 ^ 27 + block.toNat * 2 ^ 24 + o.idx % 256 * 2 ^ 16 + o.batch.toNat)
    { g with defer := some { code := code, faux := faux, faddr := BitVec.ofNat 64 faddr }
             mops := (g.mops.take k) ++ (g.mops.drop k).map fun m => { m with st := .discarded } }

/-- Format of an operand and whether the override applies (R184). -/
def operandFmt (ovr : Nat) (tags : List (List Tag)) : Nat × Bool :=
  let c := tagCode ((tags.getD 0 []).getD 0 0)
  if ovr ≠ 0 ∧ c = 0 then (ovr, true) else (c, false)

/-- The TAG_FORMAT failure of fetched operands, as an address (R190). -/
def MatOp.tagFault (o : MatOp) : Option Nat :=
  let (fa, va) := operandFmt o.ovr.toNat o.atags
  let (fb, vb) := operandFmt o.ovr.toNat o.btags
  let aAt := fun (e : Nat × Nat) => rowName o.asrc o.abase o.apitch e.1 + 64 * e.2
  let bAt := fun (e : Nat × Nat) => rowName o.bsrc o.bbase o.bpitch e.1 + 64 * e.2
  let na := consumed fa fb
  let nb := consumed fb fa
  let scaleBad := fun (v : Bool) (row : List Tag) (j : Nat) => !v && tagScale (row.getD j 0) ≠ 127
  match tagFail na (sectorBad va fa) o.atags with
  | some e => some (aAt e)
  | none => match tagFail nb (sectorBad vb fb) o.btags with
    | some e => some (bAt e)
    | none =>
      if !comboOk o.int fa fb then some (aAt (0, 0))
      else if !o.int then none
      else match tagFail na (scaleBad va) o.atags with
        | some e => some (aAt e)
        | none => (tagFail nb (scaleBad vb) o.btags).map bAt

/-- A line can be pinned in its set: 8 ways at most are pinned, and a fetch beyond them waits for an unpin (R265, log 48). -/
def State.pinRoom (s : State) (new : List Nat) (ln : Nat) : Bool :=
  let others := ((s.setLines ln).filter fun e => e.2.pins ≠ 0).length
  let own := (new.filter fun n => n % 1024 = ln % 1024 && s.home (n * 128) = s.home (ln * 128)).length
  decide (others + own ≤ 8)

/-- Lines pinned once each, those that L2 lacks filled first; none where a set has no room. -/
def State.pinLines (s : State) (die : Nat) : List Nat → Option State
  | [] => some s
  | ln :: t =>
    if !(s.line ln).present && s.setFull ln then none
    else
      let s := if (s.line ln).present then s else s.fillLine ln 0 0 die
      (s.modLine ln fun l => { l with pins := l.pins + 1 }).pinLines die t

/-- The operations of a party that have not read B yet: GINT and place in the group's list (R189). -/
def Team.sharers (T : Team) (p : Nat) : List (Nat × Nat) :=
  T.groups.flatMap fun (k, g) => ((List.range g.mops.length).filter fun n => (g.mops[n]?).any fun o => o.party = some p && !o.bread && o.st = .issued).map fun n => (k, n)

/-- B as it was read for an operation, with its lines pinned for it. -/
def MatOp.withB (o : MatOp) (bytes : List (BitVec 4096)) (tags : List (List Tag)) (bad : Option Nat) (lines : List Nat) : MatOp :=
  { o with bbytes := bytes, btags := tags, bread := true, bbad := bad, pins := o.pins ++ lines.filter fun n => !o.pins.contains n }

def Grp.modMop (g : Grp) (n : Nat) (f : MatOp → MatOp) : Grp :=
  match g.mops[n]? with
  | some o => { g with mops := g.mops.set n (f o) }
  | none => g

/-- B of an operation read for it, or once for its whole party; none while a line cannot be pinned (R189, R265). -/
def State.fetchB (s : State) (team gint k : Nat) (T : Team) (o : MatOp) : Option State :=
  if o.bread then some s
  else
    let lines := (rowLines o.bsrc o.blocs).eraseDups
    let who := match o.party with
      | some p => T.sharers p
      | none => [(gint, k)]
    let new := lines.filter fun n => (s.line n).pins = 0
    if !(new.all (s.pinRoom new)) || !(lines.all fun n => s.takes (n * 128)) then none
    else match who.foldl (fun (r : Option State) _ => r.bind fun s => s.pinLines (dieOf T.core) lines) (some s) with
      | none => none
      | some u =>
        let bad := (s.rowPoison o.bsrc o.blocs).map fun e => rowName o.bsrc o.bbase o.bpitch e.1 + 64 * e.2
        let u := lines.foldl (fun s ln => s.modLine ln Line.served) u
        some (who.foldl (fun u w => u.modGrp team w.1 fun g => g.modMop w.2 fun m => m.withB (s.rowBytes o.bsrc o.blocs) (s.rowTags o.bsrc o.blocs) bad lines) u)

/-- A of an operation read, with its tags checked: the operation's fetch is done. Of an operand with both, a poisoned sector anywhere in its 512 bytes
of a row comes before a sector that fails a check, A before B (log 63). -/
def State.fetchA (s : State) (team gint k : Nat) (T : Team) (o : MatOp) : Option State :=
  let lines := (rowLines o.asrc o.alocs).eraseDups.filter fun n => !o.pins.contains n
  let new := lines.filter fun n => (s.line n).pins = 0
  if !(new.all (s.pinRoom new)) || !(lines.all fun n => s.takes (n * 128)) then none
  else (s.pinLines (dieOf T.core) lines).map fun u =>
    let o := { o with abytes := s.rowBytes o.asrc o.alocs, atags := s.rowTags o.asrc o.alocs, pins := o.pins ++ lines, st := .fetched }
    let o := { o with afmt := (operandFmt o.ovr.toNat o.atags).1, bfmt := (operandFmt o.ovr.toNat o.btags).1 }
    let poison := match s.rowPoison o.asrc o.alocs with
      | some e => some (rowName o.asrc o.abase o.apitch e.1 + 64 * e.2)
      | none => o.bbad
    let u := (rowLines o.asrc o.alocs).eraseDups.foldl (fun s ln => s.modLine ln Line.served) u
    u.modGrp team gint fun g =>
      let g := { g with mops := g.mops.set k o }
      match poison, o.tagFault with
      | some a, _ => g.matFail gint k .uncorrectable 0 (a / 128 * 128)
      | none, some a => g.matFail gint k .tagFormat 0 a
      | none, none => g

/-- MMA_OPERAND_FETCH (R193): the operands of operation `k` are read, B once for a party, their lines pinned and their tags checked.
Not enabled for an operation that is not waiting for its operands, while a stash row is not filled, while a line cannot be
pinned, or while the home of one takes no request (R325, R402). -/
def execMmaOperandFetch (team gint k : Nat) (s : State) : Host.Outcome State Fault Refusal :=
  event (match s.team team, (s.grp team gint).bind fun g => g.mops[k]? with
    | some T, some o =>
      if o.st ≠ .issued || s.rowAbsent o.asrc o.alocs || s.rowAbsent o.bsrc o.blocs then s
      else match s.fetchB team gint k T o with
        | none => s
        | some u => match (u.grp team gint).bind fun g => g.mops[k]? with
          | none => s
          | some o => (u.fetchA team gint k T o).getD s
    | _, _ => s)

/-! ## The product (R185 to R187) -/

/-- Element `k` of width `w` of a row. -/
def rowElem (w k : Nat) (b : BitVec 4096) : Word := (b.extractLsb' (w * k) w).setWidth 32

/-- Scale byte of the sector that holds element `k`; 127 for 16-bit formats and under an override (R185). -/
def rowScale (f : Nat) (ovr : Bool) (w k : Nat) (tags : List Tag) : Nat :=
  if ovr || 6 ≤ f then 127 else tagScale (tags.getD (w * k / 512) 0)

/-- One block of 32 elements: its value rounded to FP32, with flags; under a scale of 0xFF every element is a quiet NaN (R114,
R185, R186). -/
def blockValue (fa fb : NFmt) (sa sb : Nat) (ea eb : List Word) : Word × Flags :=
  let va := ea.map fa.value
  let vb := eb.map fb.value
  let all := va ++ vb
  if all.any FVal.isNan || sa = 255 || sb = 255 then
    (NFmt.fp32.nan, snans ((if sa = 255 then [] else va) ++ if sb = 255 then [] else vb))
  else
    let ps := List.zipWith FVal.mul va vb
    if ps.any fun p => p.1.isNan then (NFmt.fp32.nan, fNV)
    else
      let sc := fun (v : FVal) => match v with
        | .fin n m e => FVal.fin n m (e + (sa : Int) - 127 + (sb : Int) - 127)
        | v => v
      match (ps.map Prod.fst).filter FVal.isInf with
      | [] => NFmt.fp32.finish .rne (sc (exactSum (ps.map Prod.fst)))
      | i :: rest => if rest.all (fun j => j.sign = i.sign) then (NFmt.fp32.infinity i.sign, 0) else (NFmt.fp32.nan, fNV)

/-- One element of the tile, blocks ascending. -/
def tileFloat (o : MatOp) (fa fb : NFmt) (va vb : Bool) (i l : Nat) (c : Word) : Word × Flags :=
  let ab := o.abytes.getD i 0
  let bb := o.bbytes.getD l 0
  let ta := o.atags.getD i []
  let tb := o.btags.getD l []
  (List.range (depthOf o.afmt o.bfmt / 32)).foldl (fun (acc : Word × Flags) blk =>
    let ks := (List.range 32).map (32 * blk + ·)
    let (v, f) := blockValue fa fb (rowScale o.afmt va fa.width (32 * blk) ta) (rowScale o.bfmt vb fb.width (32 * blk) tb)
      (ks.map fun k => rowElem fa.width k ab) (ks.map fun k => rowElem fb.width k bb)
    let (r, f') := NFmt.fp32.addOp .rne acc.1 v
    (r, acc.2 ||| f ||| f')) (c, 0)

/-- One element of an integer tile (R187). -/
def tileInt (o : MatOp) (w : Nat) (i l : Nat) (c : Word) : Word × Flags :=
  let ab := o.abytes.getD i 0
  let bb := o.bbytes.getD l 0
  let sum := (List.range (depthOf o.afmt o.bfmt)).foldl (fun (t : Int) k => t + sval w (rowElem w k ab) * sval w (rowElem w k bb)) c.toInt
  (BitVec.ofInt 32 sum, flagIf (!(decide (-2147483648 ≤ sum) && decide (sum ≤ 2147483647))) fOV)

/-- One element of an operation's tile from the accumulator's value. -/
def MatOp.tile (o : MatOp) (i l : Nat) (c : Word) : Word × Flags :=
  let c := if o.z then 0 else c
  match fmtOf o.afmt, fmtOf o.bfmt with
  | some fa, some fb =>
    if o.int then tileInt o fa.width i l c
    else tileFloat o fa fb (operandFmt o.ovr.toNat o.atags).2 (operandFmt o.ovr.toNat o.btags).2 i l c
  | _, _ => (c, 0)

/-- The rows of an operation's tile in some of its 8-row blocks. -/
def rowsIn (blocks : BitVec 4) : List Nat := (List.range 32).filter fun i => blocks.getLsbD (i / 8)

/-- The accumulators of an operation written in some of its blocks, and its flags with those of the blocks done before. -/
def Grp.runBlocks (g : Grp) (o : MatOp) (blocks : BitVec 4) : Tab Word × Flags :=
  (lanesOf o.lanes).foldl (fun acc l =>
    (rowsIn blocks).foldl (fun (acc : Tab Word × Flags) i =>
      let (r, f) := o.tile i l (Tab.get 0 g.v (96 * (o.acc + i) + l))
      (Tab.set 0 acc.1 (96 * (o.acc + i) + l) r, acc.2 ||| f)) acc) (g.v, o.flags)

/-- The accumulators of an operation written in the blocks that are not done, and its flags. -/
def Grp.runMma (g : Grp) (o : MatOp) : Tab Word × Flags := g.runBlocks o (~~~o.blocks)

/-- The accumulators of an operation whose operand bytes were overwritten: free values, and free flags (R193, R5). -/
def Grp.freeMma (g : Grp) (o : MatOp) (ctr : Nat) : Tab Word × Flags :=
  ((lanesOf o.lanes).foldl (fun v l => (List.range 32).foldl (fun v i =>
      Tab.set 0 v (96 * (o.acc + i) + l) ((Config.freeBits (ctr + 32 * l + i)).setWidth 32)) v) g.v,
    (Config.freeBits (ctr + 3072)).setWidth 5)

/-- MMA_COMPLETE (R192, R193): operation `k`, the first of the group not yet complete, writes its accumulators. In redundant
mode the row units may disagree on a block: then it fails instead. -/
def execMmaComplete (team gint k : Nat) (mismatch : Option (BitVec 2)) (s : State) : Host.Outcome State Fault Refusal :=
  event (match s.team team, s.grp team gint with
    | some _, some g => match g.mops[k]? with
      | none => s
      | some o =>
        let first := (g.mops.take k).all fun m => m.st = .complete || m.st = .discarded
        if o.st ≠ .fetched || !first then s
        else match mismatch with
          | some blk =>
            if o.red then s.modGrp team gint fun g => g.matFail gint k .matrixMismatch blk 0 else s
          | none =>
            let key := (team, gint, o.batch, o.idx)
            let (v, f) := if s.stale.contains key then g.freeMma o s.freeCtr else g.runMma o
            let s := if s.stale.contains key then { s with stale := s.stale.filter (· ≠ key), freeCtr := s.freeCtr + 3073 } else s
            s.modGrp team gint fun g => { g with v := v, mops := g.mops.set k { o with st := .complete, flags := f } }
    | _, _ => s)

/-! ## Batches (R194 to R196) -/

/-- A pending deferred fault, raised by `mfence` or `mwait` (R196). -/
def Iss.raiseDefer (x : Iss) (s : State) (f : DefFault) : State :=
  x.raise (s.modGrp x.t x.k fun g => { g with defer := none }) f.code f.faux f.faddr

/-- `mfence` (R194). -/
def execMfence (d : BitVec 6) (s : State) : Host.Outcome State Fault Refusal :=
  word (.mfence d) s fun x s =>
    match x.g.defer with
    | some f => .error (x.raiseDefer s f)
    | none =>
      if 16 ≤ x.g.closed.length then .error (x.stall s)
      else
        let s := s.modGrp x.t x.k fun g => { g with closed := g.closed ++ [g.bopen], bopen := g.bopen + 1, bops := 0 }
        .ok (x.setS s x.d (x.g.bopen.setWidth 32))

/-- `mwait` (R195). -/
def execMwait (a : BitVec 6) (s : State) : Host.Outcome State Fault Refusal :=
  word (.mwait a) s fun x s =>
    match x.waitChecks s with
    | .error s => .error s
    | .ok s => match x.g.defer with
      | some f => .error (x.raiseDefer s f)
      | none =>
        let n := (x.g.sreg x.a).extractLsb' 0 16
        let d := (x.g.bopen - n).toNat
        if d = 0 ∨ 32768 < d then .error (x.raise s .batch)
        else if x.g.closed.contains n then .error (x.stall s)
        else .ok s

/-- BATCH_DRAIN (R194): the oldest closed batch drains once its operations are complete or discarded: its operands are
released, and its flags enter GFLAGS, where no lane traps for them, lane-precise NV included (DEDUCED, log 51). -/
def execBatchDrain (team gint : Nat) (s : State) : Host.Outcome State Fault Refusal :=
  event (match s.grp team gint with
    | none => s
    | some g => match g.closed with
      | [] => s
      | n :: rest =>
        let ops := g.mops.filter fun m => m.batch = n
        if ops.all fun m => m.st = .complete || m.st = .discarded then
          (s.unpin (ops.flatMap (·.pins))).modGrp team gint fun g =>
            { g with closed := rest, mops := g.mops.filter fun m => m.batch ≠ n, gflags := ops.foldl (fun f m => f ||| m.flags) g.gflags }
        else s)

end Sys2Proof.Machine
end

