-- ==== Sys2Proof/Machine/Pairs.lean ====
section
/-! DEFINITION. The pair engine: launching (R198, R296), binning and testing (R297 to R302, R332), pair groups (R303), emitting
and adding (R199, R200), finalizing and reading (R201, R202), and completion (R310). -/

namespace Sys2Proof.Machine

/-! ## The descriptor (Table 12-1) -/

/-- FP32 value of a pattern. -/
def fp (w : Word) : FVal := NFmt.fp32.value w

/-- A finite FP32 pattern. -/
def finite (w : Word) : Bool := w.toNat / 2 ^ 23 % 256 ≠ 255

/-- A finite FP32 pattern in units of 2^−149. -/
def fixed (w : Word) : Int := (fp w).scaled (-149)

def addRne (a b : Word) : Word := (NFmt.fp32.addOp .rne a b).1

def subRne (a b : Word) : Word := (NFmt.fp32.addOp .rne a (b ^^^ 0x80000000)).1

def mulRne (a b : Word) : Word := (NFmt.fp32.mulOp .rne a b).1

def pow2Size (n : Nat) : Bool := (List.range 15).any fun i => n = 2 ^ (6 + i)

/-- A set's fields from an offset: each with the offset it stands at. -/
def setChecks (b : List Byte) (o : Nat) : List (Nat × Bool) :=
  let f := field b
  [(o, f o 8 % 4 = 0), (o + 8, 1 ≤ f (o + 8) 4 && f (o + 8) 4 ≤ 2 ^ 28),
   (o + 12, f (o + 12) 4 % 4 = 0 && 12 ≤ f (o + 12) 4 && f (o + 12) 4 ≤ 65536),
   (o + 16, f (o + 16) 4 % 4 = 0 && f (o + 16) 4 + 12 ≤ f (o + 12) 4), (o + 20, f (o + 20) 4 = 0)]

/-- Sets A and B have equal fields. -/
def sameSets (b : List Byte) : Bool := field b 0 20 = field b 24 20

/-- A box length: finite and at least twice the cutoff, rounded. -/
def boxOk (cut w : Word) : Bool :=
  finite w && match (fp w).compare (fp (addRne cut cut)) with
    | .lt => false
    | _ => true

/-- The limits of Table 12-1 that `plaunch` checks, by offset. -/
def pairChecks (b : List Byte) : List (Nat × Bool) :=
  let f := field b
  let w := fun o => BitVec.ofNat 32 (f o 4)
  let list := f 48 1 = 2
  let box := bitOf (f 49 1) 0
  setChecks b 0 ++ setChecks b 24 ++
  [(48, f 48 1 ≤ 2 && (f 48 1 ≠ 1 || sameSets b)), (49, f 49 1 < 128 && (!bitOf (f 49 1) 1 || list)), (50, 1 ≤ f 50 1 && f 50 1 ≤ 8),
   (51, 192 ≤ f 51 1 || f 51 1 ≤ 31), (52, finite (w 52) && decide (0 < fixed (w 52))),
   (56, finite (w 56) && decide (0 ≤ fixed (w 56)) && decide (fixed (w 56) < fixed (w 52))), (60, f 60 4 = 0),
   (64, !box || boxOk (w 52) (w 64)), (68, !box || boxOk (w 52) (w 68)), (72, !box || boxOk (w 52) (w 72)), (76, f 76 4 = 0),
   (80, f 80 8 % 8 = 0), (88, f 88 8 % 4 = 0 && decide (f 88 8 < 2 ^ 60)), (96, f 96 8 % 4096 = 0),
   (104, 8 ≤ f 104 1 && f 104 1 ≤ 96 && f 104 1 % 8 = 0), (105, f 105 3 = 0), (108, f 108 4 < 2 ^ 24), (112, f 112 8 % 16 = 0),
   (120, f 120 8 % 4 = 0 && (f 120 8 ≠ 0 || !bitOf (f 49 1) 2)), (128, !list || f 128 8 % 8 = 0),
   (136, if list then 1 ≤ f 136 4 && f 136 4 ≤ 2 ^ 28 else f 136 4 = 0), (140, f 140 4 = 0), (144, f 144 8 % 64 = 0), (152, pow2Size (f 152 4)),
   (156, f 156 4 = 0), (160, f 160 8 % 64 = 0), (168, pow2Size (f 168 4)), (172, f 172 52 = 0)]

/-- Offset of the first field that breaks its limits. -/
def pairBad (b : List Byte) : Option Nat := ((pairChecks b).find? fun c => !c.2).map Prod.fst

/-- Checks 1 to 3 of R198, with the descriptor's bytes. -/
def Iss.pairDesc (x : Iss) (s : State) : Except State (List Byte × State) := do
  let va := x.g.spair x.a
  if va.toNat % 256 ≠ 0 then throw (x.raiseAt s .align va.toNat)
  let (b, s) ← x.record s va.toNat 256
  match pairBad b with
  | some off => throw (x.raise s .operand (BitVec.ofNat 32 off))
  | none => return (b, s)

/-! ## Accumulators (R199) -/

/-- Channels, exponent, and the slot offset N of set B. -/
def pairK (b : List Byte) : Nat := field b 50 1

def pairE (b : List Byte) : Int := let n := field b 51 1; if 128 ≤ n then (n : Int) - 256 else n

def pairN (b : List Byte) : Nat := if field b 0 12 = field b 24 12 then 0 else field b 8 4

/-- Slots of the array. -/
def pairSlots (b : List Byte) : Nat := field b 8 4 + (if pairN b = 0 then 0 else field b 32 4)

/-- RINT: the nearest integer to x · 2^(−E), ties to even; none for a NaN or an infinity (R200). -/
def rint (e0 : Int) (w : Word) : Option Int :=
  match fp w with
  | .nan _ | .inf _ => none
  | .zero _ => some 0
  | .fin n m e =>
    let k : Nat := if e0 ≤ e then m * 2 ^ (e - e0).toNat
      else
        let d := 2 ^ (e0 - e).toNat
        let q := m / d
        let r := m % d
        if d < 2 * r ∨ (2 * r = d ∧ q % 2 = 1) then q + 1 else q
    some (if n then -(k : Int) else k)

/-- The output of one accumulator (R201). -/
def pairOut (e0 : Int) (v : Nat) : Word :=
  let n : Nat := v % 2 ^ 96
  let x : Int := if 2 ^ 95 ≤ n then (n : Int) - 2 ^ 96 else (n : Int)
  if v / 2 ^ 113 % 2 = 1 then 0x7FC00000
  else if x = 0 then 0
  else (NFmt.fp32.finish .rne (.fin (decide (x < 0)) x.natAbs e0)).1

/-! ## `plaunch`, `pfin`, `pread` -/

/-- Pair launches of a context in flight. -/
def State.pairsOf (s : State) (c : Nat) : List PairLaunch := s.pairLaunches.filter fun p => p.ctx = c

/-- Physical pieces of a virtual range, page by page, as far as it translates. -/
def State.pieces (s : State) (core c va n : Nat) : List (Nat × Nat) :=
  (List.range (n / 4096 + 2)).filterMap fun i =>
    let lo := max va (va / 4096 * 4096 + 4096 * i)
    let hi := min (va + n) (va / 4096 * 4096 + 4096 * (i + 1))
    if hi ≤ lo then none else match s.trans core c .r lo with
      | .ok t => some (t.pa, hi - lo)
      | .error _ => none

/-- Bytes of the exclusion table of a descriptor: its headers and the entries that they name (R301). -/
def State.exclBytes (s : State) (core c : Nat) (b : List Byte) : Nat :=
  let n := field b 8 4
  8 * n + 4 * (List.range n).foldl (fun m i => match s.readLocal core c (field b 80 8 + 8 * i) 8 with
    | .ok h => max m (field h 0 4 + field h 4 4 % 64)
    | .error _ => m) 0

/-- Pieces of a virtual range, each with its offset there. -/
def State.pagesOf (s : State) (core c : Nat) (k : PKind) (va n : Nat) : List PPage :=
  (List.range (n / 4096 + 2)).filterMap fun i =>
    let lo := max va (va / 4096 * 4096 + 4096 * i)
    let hi := min (va + n) (va / 4096 * 4096 + 4096 * (i + 1))
    if hi ≤ lo then none else match s.trans core c .r lo with
      | .ok t => some { kind := k, pa := t.pa, len := hi - lo, off := lo - va }
      | .error _ => none

/-- What a pair launch reads: its sets, its exclusion table, and the context's scratch area (R304, R333). -/
def State.pairPages (s : State) (core c : Nat) (b : List Byte) : List PPage :=
  let x := s.ctx c
  s.pagesOf core c .a (field b 0 8) (field b 8 4 * field b 12 4) ++ s.pagesOf core c .b (field b 24 8) (field b 32 4 * field b 36 4) ++
  (if field b 80 8 = 0 then [] else s.pagesOf core c .excl (field b 80 8) (s.exclBytes core c b)) ++ s.pagesOf core c .scratch x.pscr.toNat x.pscrl.toNat

/-- The common parts of two lists of ranges. -/
def overlaps (l m : List (Nat × Nat)) : List (Nat × Nat) :=
  l.flatMap fun e => m.filterMap fun f => if max e.1 f.1 < min (e.1 + e.2) (f.1 + f.2) then some (max e.1 f.1, min (e.1 + e.2) (f.1 + f.2) - max e.1 f.1) else none

/-- A pair launch enters the flight: it and each launch there keep what their fault rings share (R309). -/
def State.enterPairs (s : State) (p : PairLaunch) : State :=
  let shared := s.pairLaunches.flatMap fun q => overlaps p.ring q.ring
  { s with pairLaunches := (s.pairLaunches.map fun q => { q with shared := q.shared ++ overlaps q.ring p.ring }) ++ [{ p with shared := p.shared ++ shared }] }

/-- `plaunch` (R198): an implied `fence.rel device`, then the launch; it waits while 16 of its context are in flight. -/
def execPlaunch (d a : BitVec 6) (s : State) : Host.Outcome State Fault Refusal :=
  word (.plaunch d a) s fun x s => do
    if x.act = 0 then return s
    let (b, s) ← x.pairDesc s
    if !s.doneBefore x.owner s.nextOp 3 then throw (x.hold s)
    if 16 ≤ (s.pairsOf x.ctx).length then throw (x.stall s)
    let lid := (s.ctx x.ctx).nextPair
    let s := s.modCtx x.ctx fun c => { c with nextPair := if lid + 1 = 2 ^ 32 then 1 else lid + 1 }
    let p : PairLaunch := { ctx := x.ctx, lid := lid, daddr := x.g.spair x.a, desc := b, pages := s.pairPages x.core x.ctx b, ring := s.pieces x.core x.ctx (field b 160 8) (field b 168 4) }
    return x.setS (s.enterPairs p) x.d (BitVec.ofNat 32 lid)

/-- Lines of a virtual range that translate, in local memory. -/
def State.rangeLines (s : State) (core c va n : Nat) : List Nat :=
  (linesOver va n).filterMap fun a => match s.trans core c .w a with
    | .ok t => some (lineOf t.pa)
    | .error _ => none

/-- What a write of each line of a virtual range must know of its page. -/
def State.rangeDirt (s : State) (core c va n : Nat) : List Dirt :=
  (linesOver va n).filterMap fun a => match s.trans core c .w a with
    | .ok t => s.lineDirt (lineOf t.pa) (some (t.dirt c core))
    | .error _ => none

/-- D set for the pages of an output array, as far as the log has room (R316). -/
def State.outMark (s : State) (core c va n : Nat) : State := (s.rangeDirt core c va n).foldl State.markDirty s

/-- An output array can be written with every value complete at once: its homes take requests, no line is held or leased, D is set for its
pages, and what the dirty log received is complete. -/
def State.outReady (s : State) (core c va n : Nat) : Bool :=
  s.vaReady core c .w va n && (!(s.ctx c).dlog || s.srcIdle (.dlog c)) && ((s.rangeDirt core c va n).all fun d => !s.tracks d || !s.clean d) &&
  (s.rangeLines core c va n).all fun ln => !s.lineHeld ln && !s.anyHeld ln && decide ((s.line ln).horizon ≤ s.homeNow ln)

/-- Value `i` of the output array: read its channel of the accumulator and write its output, with the troubles met: code and address.
A slot whose accumulator meets poison gives the NaN for each of its channels (R201). -/
def State.finOne (s : State) (core c : Nat) (b : List Byte) (i : Nat) : State × List (FCode × Nat) :=
  let acc := (field b 112 8 + 16 * i) % 2 ^ 64
  let out := (field b 120 8 + 4 * i) % 2 ^ 64
  let (w, bad) := match s.readLocal core c acc 16 with
    | .error (f, a) => ((0x7FC00000 : Word), [(f, a)])
    | .ok v =>
      let k := pairK b
      if (s.poisonVA core c ((field b 112 8 + 16 * k * (i / k)) % 2 ^ 64) (16 * k)).isSome then (0x7FC00000, [(FCode.uncorrectable, acc)]) else (pairOut (pairE b) (leNat v), [])
  match s.writeLocal core c out (leBytes 4 w.toNat) with
  | .error (f, a) => (s, bad ++ [(f, a)])
  | .ok s => (s, bad)

/-- Every output written, ascending, with the troubles by value number. -/
def State.finAll (s : State) (core c : Nat) (b : List Byte) : List Nat → State × List (Nat × FCode × Nat)
  | [] => (s, [])
  | i :: is =>
    let (s, bad) := s.finOne core c b i
    let (s, rest) := s.finAll core c b is
    (s, bad.map (fun e => (i, e)) ++ rest)

/-- `pfin` (R201). With no lane active it does nothing, and makes no check (R38, log 59). -/
def execPfin (a : BitVec 6) (s : State) : Host.Outcome State Fault Refusal :=
  word (.pfin a) s fun x s => do
    if x.act = 0 then return s
    let (b, s) ← x.pairDesc s
    if (s.pairsOf x.ctx).any fun p => p.daddr = x.g.spair x.a then throw (x.stall s fun w => { w with timed := false })
    let n := pairSlots b * pairK b
    x.reach s (s.vaReady x.core x.ctx .r (field b 112 8) (16 * n) && s.vaTables x.core x.ctx .w (field b 120 8) (4 * n))
    match s.checkLocal x.core x.ctx .r (field b 112 8) (16 * n) with
    | .error (f, va) => throw (x.raiseAt s f va)
    | .ok _ => match s.checkLocal x.core x.ctx .w (field b 120 8) (4 * n) with
      | .error (f, va) => throw (x.raiseAt s f va)
      | .ok _ =>
        let s := s.outMark x.core x.ctx (field b 120 8) (4 * n)
        if !s.outReady x.core x.ctx (field b 120 8) (4 * n) then throw (x.stall s fun w => { w with timed := false })
        let s := s.countVA x.core x.ctx .r (field b 112 8) (16 * n)
        let (s, bad) := s.finAll x.core x.ctx b (List.range n)
        let s := s.staleVA x.t x.core x.ctx (field b 120 8) (4 * n)
        match bad with
        | [] => return s
        | (_, _, va) :: _ => return s.modGrp x.t x.k fun g => { g with soft := some (BitVec.ofNat 64 va, x.pc.setWidth 32), softLanes := (List.range 96).map fun l => (l, va / 128 * 128) }

/-- `pread` (R202): one load served at the home. -/
def execPread (d a b : BitVec 6) (s : State) : Host.Outcome State Fault Refusal :=
  word (.pread d a b) s fun x s => do
    let ch := (x.g.sreg x.b).toNat
    let base := x.g.spair x.a
    if 7 < ch then throw (x.raise s .operand)
    if x.act = 0 then return s
    if base.toNat % 16 ≠ 0 then throw (x.raiseAt s .align base.toNat)
    let va := (base.toNat + 16 * ch) % 2 ^ 64
    match s.checkLocal x.core x.ctx .r va 16 with
    | .error (f, a) => throw (x.raiseAt s f a)
    | .ok _ =>
      let t ← x.one s 16 .r va
      let p := { s.homePart t with lanes := [{ lane := 0, name := va, addr := t.pa }] }
      x.issueOp s { x.op .pread 16 [p] with dst := .scal x.d 4 }

/-! ## `pemit` -/

/-- Contributions of one lane: slot, channel and value, in the order of R200. `one` emits to record i alone; `two` takes record
j's values from the next k registers; otherwise record j receives the negated value. -/
def emitLane (b : List Byte) (one two : Bool) (r : Nat → Word) (p : PairLane) : List (Nat × Nat × Option Int) :=
  (List.range (pairK b)).flatMap fun c =>
    let q := rint (pairE b) (r c)
    let j := p.j.toNat + pairN b
    (p.i.toNat, c, q) :: (if one then [] else if two then [(j, c, rint (pairE b) (r (pairK b + c)))] else [(j, c, q.map fun v => -v)])

/-- A lane's pair. -/
def Iss.pairOf (x : Iss) (l : Nat) : PairLane := (x.g.pairs[l]?).getD { i := 0, j := 0, cls := 0 }

/-- The value of register `r` of a lane as it is emitted: a free value where what its pair depends on was written while the launch was in
flight (R198, R304, R5). -/
def Iss.emits (x : Iss) (raced : Bool) (ctr l r : Nat) : Word :=
  if raced then (Config.freeBits (ctr + 16 * l + r)).setWidth 32 else x.g.code (x.a + r) l

/-- The additions of the lanes listed, numbered as parts of operation `mop`; `raced` says which lanes emit free values. -/
def Iss.additions (x : Iss) (b : List Byte) (one two : Bool) (raced : Nat → Bool) (ctr mop : Nat) : List PairAdd :=
  let all := (lanesOf x.act).flatMap fun l => (emitLane b one two (x.emits (raced l) ctr l) (x.pairOf l)).map fun e => (l, e)
  (List.range all.length).filterMap fun n => (all[n]?).map fun (l, slot, c, q) =>
    { ctx := x.ctx, lid := x.T.lid, va := BitVec.ofNat 64 (field b 112 8 + 16 * (pairK b * slot + c)), chan := c, q := q, i := (x.pairOf l).i, j := (x.pairOf l).j,
      cls := (x.pairOf l).cls, core := x.core, pc := x.pc, mop := mop, part := n, loose := raced l }

/-- The checks and the effect of R200: the additions leave for their homes, and the lanes have emitted. The registers that a REP'd
word reads are checked for every repetition before the first (R64). -/
def Iss.pemit (x : Iss) (s : State) (one two : Bool) : Except State State := do
  match s.pairLaunch x.ctx x.T.lid with
  | none => throw (x.raise s .illegal)
  | some p =>
    if x.T.kind ≠ .pair then throw (x.raise s .illegal)
    let top := (if two then 2 else 1) * pairK p.desc - 1
    let later := if x.rep = 0 then (List.range x.g.hints.count).map fun i => x.a + i * repStep (x.g.hints.rep.getD 0) 1 else [x.a]
    if later.any fun a => decide (x.T.kobj.regs ≤ a + top) then throw (x.raise s .operand)
    let (x, s) ← x.laneFaults s .pairEmit (x.failing (fun _ => 0) fun l => x.g.emitted.getLsbD l)
    let raced := fun (l : Nat) => s.pairRaced p (x.pairOf l).i.toNat (x.pairOf l).j.toNat
    let adds := x.additions p.desc one two raced s.freeCtr s.nextOp
    let s := if (s.racesOf x.ctx x.T.lid).isEmpty then s else { s with freeCtr := s.freeCtr + 1536 }
    if adds.isEmpty then return s
    let parts := adds.map fun _ => ({ place := .home, sector := 0, lanes := [] } : Part)
    let s ← x.issueOp s { x.op .padd 16 parts with ifc := some 3 }
    return { s.modGrp x.t x.k fun g => { g with emitted := g.emitted ||| x.act } with padds := s.padds ++ adds }

/-- `pemit.sym` (R200). -/
def execPemitSym (g : BitVec 3) (a : BitVec 7) (s : State) : Host.Outcome State Fault Refusal :=
  word (.pemitSym g a) s fun x s => x.pemit s false false

/-- `pemit.one` (R200). -/
def execPemitOne (g : BitVec 3) (a : BitVec 7) (s : State) : Host.Outcome State Fault Refusal :=
  word (.pemitOne g a) s fun x s => x.pemit s true false

/-- `pemit.two` (R200). -/
def execPemitTwo (g : BitVec 3) (a : BitVec 7) (s : State) : Host.Outcome State Fault Refusal :=
  word (.pemitTwo g a) s fun x s => x.pemit s false true

/-! ## Undefined contributions (R198, R304, R333) -/

/-- A free 96-bit value, or a value that is not finite. -/
def State.freeQ (s : State) : Option Int × State :=
  let (v, s) := s.free
  (if v.getLsbD 127 then none else some (v.extractLsb' 0 96).toInt, s)

/-- The accumulator at an address gets a free VALUE and marks; its COUNT stands. -/
def State.freeSum (s : State) (c va : Nat) : State :=
  match s.trans ioCore c .rw va with
  | .error _ => s
  | .ok t =>
    let (v, s) := s.free
    s.cohWrite t.pa (leBytes 12 v.toNat ++ (s.cohRead (t.pa + 12) 2) ++ [v.extractLsb' 112 8, v.extractLsb' 120 8])

/-- Additions on their way that depend on what was written get free values. -/
def State.freeAdds (s : State) (p : PairLaunch) : List PairAdd → State × List PairAdd
  | [] => (s, [])
  | a :: l =>
    let (s, a) := if a.ctx = p.ctx && a.lid = p.lid && !a.loose && s.pairRaced p a.i.toNat a.j.toNat then
        let (q, s) := s.freeQ
        (s, { a with q := q, loose := true })
      else (s, a)
    let (s, l) := s.freeAdds p l
    (s, a :: l)

/-- Before a row of a launch acts, every contribution of it that depends on what was written in the meantime becomes a free value, those
performed already among them. -/
def State.settleRace (s : State) (p : PairLaunch) : State :=
  if (s.racesOf p.ctx p.lid).isEmpty then s
  else
    let (s, l) := s.freeAdds p s.padds
    let hit := p.sums.filter fun e => s.pairRaced p e.2.1 e.2.2
    let s := ((hit.map fun e => e.1).eraseDups).foldl (fun s va => s.freeSum p.ctx va) { s with padds := l }
    s.modPairLaunch p.ctx p.lid fun p => { p with sums := p.sums.filter fun e => !hit.contains e }

/-- An addition's launch with its undefined contributions settled. -/
def State.settleAdd (s : State) (k : Nat) : State :=
  match (s.padds[k]?).bind fun a => s.pairLaunch a.ctx a.lid with
  | some p => s.settleRace p
  | none => s

/-- PAIR_ADD (R200, R305, R316): addition `k` is performed at its home; a held line or a full dirty log holds it. The one that turned D of
its page waits until the log's entry and PROD are complete. -/
def execPairAdd (k : Nat) (s : State) : Host.Outcome State Fault Refusal :=
  let s := s.settleAdd k
  event (match s.padds[k]? with
    | none => s
    | some a =>
      let go := fun (s : State) => ({ s with padds := s.padds.eraseIdx k } : State).applyAdd a
      if !s.vaTables a.core a.ctx .rw a.va.toNat 16 then s
      else match s.trans a.core a.ctx .rw a.va.toNat with
      | .error _ => go s
      | .ok t =>
        if !s.takes t.pa || s.lineHeld (lineOf t.pa) || s.anyHeld (lineOf t.pa) then s
        else
          let mine := match a.dirt with
            | some d => if d.leaf = t.leaf then d else t.dirt a.ctx a.core
            | none => t.dirt a.ctx a.core
          match s.lineDirt (lineOf t.pa) (some mine) with
          | none => go s
          | some d =>
            let s := s.markDirty d
            if s.dirtyDone d then go s else { s with padds := s.padds.set k { a with dirt := some mine } })

/-! ## Positions and the grid (R297, R299, R332) -/

def PairLaunch.w (p : PairLaunch) (off : Nat) : Word := BitVec.ofNat 32 (p.f off 4)

def PairLaunch.mode (p : PairLaunch) : Nat := p.f 48 1

def PairLaunch.box (p : PairLaunch) : Bool := bitOf (p.f 49 1) 0

/-- A local range read by a pairing unit; poison fails it. -/
def State.unitLoad (s : State) (c va n : Nat) : Except (FCode × Nat) (List Byte) :=
  match s.readLocal ioCore c va n with
  | .error e => .error e
  | .ok b => match s.poisonVA ioCore c va n with
    | some a => .error (.uncorrectable, a)
    | none => .ok b

/-- The position of a record: x, y, z. -/
def State.position (s : State) (p : PairLaunch) (setB : Bool) (i : Nat) : Except (FCode × Nat) (List Word) :=
  match s.unitLoad p.ctx (p.posAddr setB i) 12 with
  | .error e => .error e
  | .ok b => .ok ((List.range 3).map fun k => BitVec.ofNat 32 (field b (4 * k) 4))

/-- A trouble that a pairing unit meets (R307). -/
def State.unitFault (s : State) (p : PairLaunch) (f : FCode) (i j info : Nat) : State :=
  s.pairFault p.ctx p.lid { code := f.code, flags := 0, i := i, j := j, info := info }

/-- A record with a position that is not finite is counted once (R297). -/
def State.countNan (s : State) (p : PairLaunch) (setB : Bool) (i : Nat) : State :=
  let key := (setB && !sameSets p.desc, i)
  s.modPairLaunch p.ctx p.lid fun p => if p.nanpos.contains key then p else { p with nanpos := key :: p.nanpos }

/-- The finite positions of set B in units of 2^−149, ascending; the others counted and reported. -/
def State.binPoints (s : State) (p : PairLaunch) (first : Bool) : List Nat → State × List (Nat × List Int)
  | [] => (s, [])
  | j :: js =>
    match s.position p true j with
    | .error (f, a) => (if first then s.unitFault p f 0xFFFFFFFF j a else s).binPoints p first js
    | .ok q =>
      if q.all finite then
        let (s, ps) := s.binPoints p first js
        (s, (j, q.map fixed) :: ps)
      else (s.countNan p true j).binPoints p first js

/-- Box lengths in units of 2^−149. -/
def PairLaunch.boxes (p : PairLaunch) : List Int := [fixed (p.w 64), fixed (p.w 68), fixed (p.w 72)]

/-- Cells on an axis for an edge h (R332). -/
def axisCells (box : Option Int) (lo hi : Int) (h : Nat) : Nat :=
  match box with
  | none => ((hi - lo) * 4096 / (h * 4097)).toNat + 1
  | some l => max 1 (l * 4096 / (h * 4097)).toNat

/-- Cell of a position on an axis: −1 or n beyond the extent. -/
def axisCell (box : Option Int) (lo hi : Int) (h n : Nat) (x : Int) : Int :=
  match box with
  | none => if x < lo then -1 else if hi < x then n else min ((x - lo) * 4096 / (h * 4097)) (n - 1)
  | some l => x % l * n / l

/-- Box of axis `k`, where the launch has one. -/
def PairLaunch.boxOf (p : PairLaunch) (k : Nat) : Option Int := if p.box then some (p.boxes.getD k 1) else none

def PairLaunch.axes (p : PairLaunch) (lo hi : List Int) (h : Nat) : List Nat :=
  (List.range 3).map fun k => axisCells (p.boxOf k) (lo.getD k 0) (hi.getD k 0) h

/-- Cells of a grid. -/
def cellCount (n : List Nat) : Nat := n.foldl (· * ·) 1

/-- Bytes of the cell start array (R333). -/
def startBytes (cells : Nat) : Nat := 4 * (cells + 1)

/-- The edge doubled while the grid would exceed 2^21 cells, or while its start array does not fit the unit's part of the scratch
area; one cell is the least (R332, R333). -/
def PairLaunch.fitEdge (p : PairLaunch) (part : Nat) (lo hi : List Int) (h : Nat) : Nat → Nat
  | 0 => h
  | fuel + 1 =>
    let n := cellCount (p.axes lo hi h)
    if 2 ^ 21 < n ∨ (part < startBytes n ∧ 1 < n) then p.fitEdge part lo hi (2 * h) fuel else h

/-- Cell coordinates of a position. -/
def PairLaunch.cellOf (p : PairLaunch) (lo hi : List Int) (h : Nat) (n : List Nat) (x : List Int) : List Int :=
  (List.range 3).map fun k => axisCell (p.boxOf k) (lo.getD k 0) (hi.getD k 0) h (n.getD k 1) (x.getD k 0)

/-- Number of a cell with coordinates in the grid. -/
def cellKey (n : List Nat) (c : List Int) : Nat := (c.getD 0 0).toNat + n.getD 0 1 * ((c.getD 1 0).toNat + n.getD 1 1 * (c.getD 2 0).toNat)

/-- Set B by cell. -/
def PairLaunch.fillCells (p : PairLaunch) (lo hi : List Int) (h : Nat) (n : List Nat) (pts : List (Nat × List Int)) : Tab (List Nat) :=
  pts.foldr (fun e t =>
    let k := cellKey n (p.cellOf lo hi h n e.2)
    Tab.set [] t k (e.1 :: Tab.get [] t k)) []

/-- The grid of a launch: edge and cells, with the coarsenings made (R299). -/
def PairLaunch.grid (p : PairLaunch) (part : Nat) (lo hi : List Int) (pts : List (Nat × List Int)) (h c : Nat) : Nat → Nat × Nat × Tab (List Nat)
  | 0 => (h, c, [])
  | fuel + 1 =>
    let h := p.fitEdge part lo hi h 600
    let n := p.axes lo hi h
    let t := p.fillCells lo hi h n pts
    if (t.any fun e => decide (255 < e.2.length)) && n ≠ [1, 1, 1] then p.grid part lo hi pts (2 * h) (c + 1) fuel else (h, c, t)

/-- Least and greatest finite position on each axis; 0 without one. -/
def extent (pts : List (Nat × List Int)) (pick : Int → Int → Int) : List Int :=
  (List.range 3).map fun k => match pts with
    | [] => 0
    | e :: rest => rest.foldl (fun m f => pick m (f.2.getD k 0)) (e.2.getD k 0)

def PairLaunch.share (p : PairLaunch) (pod : Nat) : Option Share := p.shares.find? fun h => h.pod = pod

def PairLaunch.setShare (p : PairLaunch) (h : Share) : PairLaunch :=
  { p with shares := if (p.share h.pod).isSome then p.shares.map fun g => if g.pod = h.pod then h else g else p.shares ++ [h] }

def State.setShare (s : State) (c lid : Nat) (h : Share) : State := s.modPairLaunch c lid fun p => p.setShare h

/-- The cell start array: for each cell the number of records in the cells before it, and the total. -/
def cellStarts (t : Tab (List Nat)) : Nat → Nat → Nat → List Byte
  | 0, _, acc => leBytes 4 acc
  | n + 1, k, acc => leBytes 4 acc ++ cellStarts t n (k + 1) (acc + (Tab.get [] t k).length)

/-- The arrays of a grid as a unit holds them in its part of the scratch area: the start array, then the sorted records (log 56). -/
def gridBytes (cells : Nat) (t : Tab (List Nat)) : List Byte := cellStarts t cells 0 0 ++ t.flatMap fun e => e.2.flatMap fun j => leBytes 4 j

/-- A unit writes its context's scratch area, which races with no launch of the context (R333). -/
def State.writeScratch (s : State) (c va : Nat) (bs : List Byte) : Except (FCode × Nat) State :=
  let bare := { s with pairLaunches := s.pairLaunches.map fun (q : PairLaunch) => if q.ctx = c then { q with pages := q.pages.filter fun (e : PPage) => e.kind ≠ PKind.scratch } else q }
  (bare.writeVA ioCore c va bs).map fun t => { t with pairLaunches := s.pairLaunches }

/-- A unit's grid written to its part of the scratch area, whose bytes it reads and writes as its own; a part that cannot be written
is reported. None while the writes would wait. -/
def State.putGrid (s : State) (p : PairLaunch) (at_ room cells : Nat) (t : Tab (List Nat)) : Option (State × Bool) :=
  if room < startBytes cells + 4 * p.f 32 4 then some (s.unitFault p .operand 0xFFFFFFFF 0xFFFFFFFF 0, false)
  else match s.checkLocal ioCore p.ctx .rw at_ (startBytes cells + 4 * p.f 32 4) with
    | .error (f, a) => some (s.unitFault p f 0xFFFFFFFF 0xFFFFFFFF a, false)
    | .ok _ => match s.writeScratch p.ctx at_ (gridBytes cells t) with
      | .error (f, a) => some (s.unitFault p f 0xFFFFFFFF 0xFFFFFFFF a, false)
      | .ok s' => if s.posted.length < s'.posted.length then none else some (s', true)

/-- The places of the positions of set B. -/
def PairLaunch.binReads (p : PairLaunch) : List (Nat × Nat) := (List.range (p.f 32 4)).map fun j => (p.posAddr true j, 12)

/-- Every place that a unit is to read can be reached (R325, R402), and the fault ring's tables. -/
def State.unitReady (s : State) (p : PairLaunch) (l : List (Nat × Nat)) : Bool :=
  s.vaTables ioCore p.ctx .w (p.f 160 8) (p.f 168 4) && l.all fun e => s.vaReady ioCore p.ctx .r e.1 e.2

/-- Reads of a unit on a die counted at their pages (R327). -/
def State.unitCount (s : State) (p : PairLaunch) (die : Nat) (l : List (Nat × Nat)) : State :=
  l.foldl (fun s e => match s.trans ioCore p.ctx .r e.1 with
    | .ok t => s.hbmReads t.pa e.2 die
    | .error _ => s) s

/-- A unit can bin: set B, its part of the scratch area and the tables can be reached. -/
def State.binReady (s : State) (p : PairLaunch) (pod : Nat) : Bool :=
  let part := (s.ctx p.ctx).pscrl.toNat / 24
  s.unitReady p p.binReads && s.vaReady ioCore p.ctx .rw ((s.ctx p.ctx).pscr.toNat + pod * part) part

/-- The reads of a unit that bins. -/
def State.binCount (s : State) (p : PairLaunch) (die : Nat) : State := s.unitCount p die p.binReads

/-- PAIR_BIN (R299, R333): a unit of an allowed pod bins set B. The first to bin counts the coarsenings and reports bad records. A unit
without room for its grid reports that, and its share of set A forms no pair. -/
def execPairBin (pod ctx lid : Nat) (s0 : State) : Host.Outcome State Fault Refusal :=
  event (match s0.pairLaunch ctx lid with
    | none => s0
    | some p =>
      let s := s0
      if p.mode = 2 ∨ !podAllowed (p.f 108 4) pod ∨ ((p.share pod).any fun h => h.binned) ∨ !s.binReady p pod then s
      else
        let s := s.binCount p (pod / 6)
        let first := !(p.shares.any fun h => h.binned)
        let (s, pts) := s.binPoints p (first && !sameSets p.desc) (List.range (p.f 32 4))
        let lo := extent pts min
        let hi := extent pts max
        let part := (s.ctx ctx).pscrl.toNat / 24
        let (h, c, t) := p.grid part lo hi pts (fixed (p.w 52)).toNat 0 600
        let n := p.axes lo hi h
        match s.putGrid p ((s.ctx ctx).pscr.toNat + pod * part) part (cellCount n) t with
        | none => s0
        | some (s, fits) =>
        let s := if first then
            let s := s.modPairLaunch ctx lid fun p => { p with coarsen := c, edge := (NFmt.fp32.finish .rne (.fin false h (-149))).1 }
            (List.range c).foldl (fun s _ => s.countEvent ctx 0x028) s
          else s
        s.setShare ctx lid { pod := pod, binned := true, lo := lo, hi := hi, edge := h, cellsOn := n, cells := if fits then t else [] })

/-! ## Candidates (R297, R298, R300, R301) -/

/-- Displacement on one axis, with the minimum image where there is a box. -/
def PairLaunch.delta (p : PairLaunch) (k : Nat) (a b : Word) : Word :=
  let d := subRne b a
  if p.box then
    let l := p.w (64 + 4 * k)
    let n := (integralOp .rne (divOp .rne d l).1).1
    (NFmt.fp32.fmaOp .rne (n ^^^ 0x80000000) l d).1
  else d

/-- dx, dy, dz and the squared distance of a candidate. -/
def PairLaunch.geometry (p : PairLaunch) (a b : List Word) : List Word :=
  let d := (List.range 3).map fun k => p.delta k (a.getD k 0) (b.getD k 0)
  let q := d.map fun x => mulRne x x
  d ++ [addRne (addRne (q.getD 0 0) (q.getD 1 0)) (q.getD 2 0)]

/-- In range (R297). -/
def PairLaunch.inRange (p : PairLaunch) (r2 : Word) : Bool :=
  let v := fp r2
  let lo := fp (mulRne (p.w 56) (p.w 56))
  let hi := fp (mulRne (p.w 52) (p.w 52))
  !v.isNan && v.compare lo ≠ .lt && v.compare hi = .lt

/-- The cells scanned on an axis around a cell: three, wrapped once each in a box, else those that exist. -/
def axisScan (box : Bool) (n : Nat) (c : Int) : List Int :=
  let l := [c - 1, c, c + 1]
  if box then (l.map fun x => x % (n : Int)).eraseDups else l.filter fun x => decide (0 ≤ x) && decide (x < n)

/-- The candidates of A record `i` at a position, in the order of R300. -/
def Share.near (h : Share) (p : PairLaunch) (i : Nat) (pos : List Word) : List Nat :=
  let c := p.cellOf h.lo h.hi h.edge h.cellsOn (pos.map fixed)
  let ax := fun k => axisScan p.box (h.cellsOn.getD k 1) (c.getD k 0)
  let js := (ax 2).flatMap fun z => (ax 1).flatMap fun y => (ax 0).flatMap fun x => Tab.get [] h.cells (cellKey h.cellsOn [x, y, z])
  if p.mode = 1 then js.filter fun j => decide (i < j) else js

/-- The candidates that a unit looks at: once the scratch area was written, any record of set B may follow (R333). -/
def State.candidates (s : State) (p : PairLaunch) (h : Share) (i : Nat) (pos : List Word) : List Nat :=
  let l := h.near p i pos
  if s.scratched p then l ++ (List.range (p.f 32 4)).filter fun j => !l.contains j else l

/-- What the exclusion table says of a pair: its class, or the fault met with its address. -/
def State.excluded (s : State) (p : PairLaunch) (i j : Nat) : Except (FCode × Nat) (Option Nat) :=
  let base := p.f 80 8
  if base = 0 then .ok none
  else
    let ha := base + 8 * i
    match s.unitLoad p.ctx ha 8 with
    | .error e => .error e
    | .ok h =>
      let count := field h 4 4
      let ea := base + 8 * p.f 8 4 + 4 * field h 0 4
      if 32 < count then .error (.operand, ha)
      else if count = 0 then .ok none
      else match s.unitLoad p.ctx ea (4 * count) with
        | .error e => .error e
        | .ok b =>
          let es := (List.range count).map fun k => field b (4 * k) 4
          match (List.range count).find? fun k => decide (2 ^ 30 ≤ es.getD k 0) || (decide (k ≠ 0) && decide (es.getD k 0 % 2 ^ 28 ≤ es.getD (k - 1) 0 % 2 ^ 28)) with
          | some k => .error (.operand, ea + 4 * k)
          | none => .ok ((es.find? fun e => e % 2 ^ 28 = j).map fun e => e / 2 ^ 28 % 4)

/-- An accepted pair enters a unit's basket (R302). -/
def State.accept (s : State) (p : PairLaunch) (h : Share) (i j cls : Nat) (g : List Word) : State :=
  let e : BasketPair := { i := BitVec.ofNat 32 i, j := BitVec.ofNat 32 j, dx := g.getD 0 0, dy := g.getD 1 0, dz := g.getD 2 0, r2 := g.getD 3 0, cls := BitVec.ofNat 2 cls }
  let h := { h with basketAt := if h.basket.isEmpty then s.gtime else h.basketAt, basket := h.basket ++ [e] }
  (s.modPairLaunch p.ctx p.lid fun p => { p with pairs := p.pairs + 1 }).setShare p.ctx p.lid { h with flush := h.flush || decide (96 ≤ h.basket.length) }

/-- What the exclusion table says, or a free answer where it was written in the meantime (R333). -/
def State.tableSays (s : State) (p : PairLaunch) (i j : Nat) : Except (FCode × Nat) (Option Nat) × State :=
  if (s.racesOf p.ctx p.lid).any (Race.onRow s p i) then
    let (v, s) := s.free
    (.ok (if v.getLsbD 2 then none else some (v.extractLsb' 0 2).toNat), s)
  else (s.excluded p i j, s)

/-- An in-range candidate meets the exclusions: accepted, excluded and counted, or its record given up with a report. -/
def State.meetTable (s : State) (p : PairLaunch) (h : Share) (i j : Nat) (g : List Word) : State :=
  let (r, s) := s.tableSays p i j
  match r with
  | .error (f, a) => (s.unitFault p f i 0xFFFFFFFF a).setShare p.ctx p.lid { h with cur := none, index := 0 }
  | .ok (some 0) => (s.modPairLaunch p.ctx p.lid fun p => { p with excluded := p.excluded + 1 }).setShare p.ctx p.lid h
  | .ok cls => s.accept p h i j (cls.getD 0) g

/-- The displacement of a candidate and whether it is in range; free values where what it depends on was written while the launch was in
flight (R198, R304, R333). -/
def State.judge (s : State) (p : PairLaunch) (i j : Nat) (a b : List Word) : List Word × Bool × State :=
  if s.pairRaced p i j then
    let (v, s) := s.free
    let (w, s) := s.free
    ((List.range 4).map (wordAt v), w.getLsbD 0, s)
  else
    let g := p.geometry a b
    (g, p.inRange (g.getD 3 0), s)

/-- One candidate of a record that the unit matches (R297, R298). -/
def State.testPair (s : State) (p : PairLaunch) (h : Share) (i j : Nat) (a : List Word) : State :=
  match s.position p true j with
  | .error (f, at_) => (s.unitFault p f 0xFFFFFFFF j at_).setShare p.ctx p.lid h
  | .ok b =>
    let (g, near, s) := s.judge p i j a b
    let s := s.modPairLaunch p.ctx p.lid fun p => { p with tests := p.tests + 1 }
    if near then s.meetTable p h i j g else s.setShare p.ctx p.lid h

/-- One entry of the list (R298). -/
def State.listPair (s : State) (p : PairLaunch) (h : Share) (e : Nat) : State :=
  match s.unitLoad p.ctx (p.f 128 8 + 8 * e) 8 with
  | .error (f, a) => s.unitFault p f 0xFFFFFFFF 0xFFFFFFFF a
  | .ok b =>
    let i := field b 0 4
    let j := field b 4 4
    if p.f 8 4 ≤ i ∨ p.f 32 4 ≤ j then s.unitFault p .operand i j e
    else match s.position p false i, s.position p true j with
      | .error (f, a), _ => s.unitFault p f i 0xFFFFFFFF a
      | _, .error (f, a) => s.unitFault p f 0xFFFFFFFF j a
      | .ok a, .ok b =>
        let (g, near, s) := s.judge p i j a b
        if bitOf (p.f 49 1) 1 then
          let s := s.modPairLaunch p.ctx p.lid fun p => { p with tests := p.tests + 1 }
          if near then s.meetTable p h i j g else s
        else if s.scratched p && !near then s
        else s.accept p h i j 0 g

/-- A unit takes the next A record, in ascending order (R300, R31). -/
def State.takeRecord (s : State) (p : PairLaunch) (h : Share) : State :=
  let i := p.nextA
  let s := s.modPairLaunch p.ctx p.lid fun p => { p with nextA := i + 1 }
  match s.position p false i with
  | .error (f, a) => s.unitFault p f i 0xFFFFFFFF a
  | .ok q => if q.all finite then s.setShare p.ctx p.lid { h with cur := some i, index := 0 } else s.countNan p false i

/-- Records of set A, or entries of the list: what the units take. -/
def PairLaunch.taken (p : PairLaunch) : Nat := if p.mode = 2 then p.f 136 4 else p.f 8 4

/-- A unit without a record: it takes one, or has finished and flushes its basket (R302). -/
def State.nextRecord (s : State) (p : PairLaunch) (h : Share) : State :=
  let total := p.taken
  if total ≤ p.nextA then s.setShare p.ctx p.lid { h with flush := !h.basket.isEmpty }
  else if p.mode = 2 then
    ((s.setShare p.ctx p.lid h).modPairLaunch p.ctx p.lid fun p => { p with nextA := p.nextA + 1 }).listPair p h p.nextA
  else s.takeRecord p h

/-- The places of the exclusion table that a pair's test reads: the header, and the entries that it names. -/
def State.exclReads (s : State) (p : PairLaunch) (i : Nat) : List (Nat × Nat) :=
  if p.f 80 8 = 0 then []
  else
    let r := s.rowOf p i
    [(p.f 80 8 + 8 * i, 8), (p.f 80 8 + 8 * p.f 8 4 + 4 * r.1, if 32 < r.2 then 0 else 4 * r.2)]

/-- The places that a pair's test reads besides the record that the unit holds. -/
def State.pairReads (s : State) (p : PairLaunch) (i j : Nat) : List (Nat × Nat) := (p.posAddr true j, 12) :: s.exclReads p i

/-- What the next row of a unit reads: its next record, or an entry of the list with what that names, or the next candidate. -/
def State.unitReads (s : State) (p : PairLaunch) (h : Share) : List (Nat × Nat) :=
  match h.cur with
  | none =>
    if p.taken ≤ p.nextA then []
    else if p.mode ≠ 2 then [(p.posAddr false p.nextA, 12)]
    else (p.f 128 8 + 8 * p.nextA, 8) :: match s.readVA ioCore p.ctx (p.f 128 8 + 8 * p.nextA) 8 with
      | .ok b =>
        let i := field b 0 4
        if p.f 8 4 ≤ i ∨ p.f 32 4 ≤ field b 4 4 then [] else (p.posAddr false i, 12) :: s.pairReads p i (field b 4 4)
      | .error _ => []
  | some i => match s.position p false i with
    | .error _ => []
    | .ok a => match (s.candidates p h i a)[h.index]? with
      | none => if p.taken ≤ p.nextA then [] else [(p.posAddr false p.nextA, 12)]
      | some j => s.pairReads p i j

/-- PAIR_CANDIDATE_TEST (R297, R300): a unit of an allowed pod tests its next candidate, or takes its next record; not enabled
while its basket waits for a group. -/
def execPairCandidateTest (pod ctx lid : Nat) (s : State) : Host.Outcome State Fault Refusal :=
  event (match s.pairLaunch ctx lid with
    | none => s
    | some p =>
      let h := (p.share pod).getD { pod := pod }
      if !podAllowed (p.f 108 4) pod ∨ h.flush ∨ (p.mode ≠ 2 ∧ !h.binned) ∨ !s.unitReady p (s.unitReads p h) then s
      else
      let s := (s.settleRace p).unitCount p (pod / 6) (s.unitReads p h)
      match h.cur with
        | none => s.nextRecord p h
        | some i => match s.position p false i with
          | .error (f, at_) => (s.unitFault p f i 0xFFFFFFFF at_).setShare ctx lid { h with cur := none, index := 0 }
          | .ok a => match (s.candidates p h i a)[h.index]? with
            | none => s.nextRecord p { h with cur := none, index := 0 }
            | some j => s.testPair p { h with index := h.index + 1 } i j a)

/-- BASKET_TIMER_FLUSH (R302): 256 fabric cycles of 1.8 GHz after the first pair entered. -/
def execBasketTimerFlush (pod ctx lid : Nat) (s : State) : Host.Outcome State Fault Refusal :=
  event (match (s.pairLaunch ctx lid).bind fun p => p.share pod with
    | none => s
    | some h => if !h.basket.isEmpty && decide (256 * 10 ≤ (s.gtime - h.basketAt) * 18) then s.setShare ctx lid { h with flush := true } else s)

/-! ## Pair groups (R303) -/

/-- Vector registers of a lane's pair (Table 08-2). -/
def pairVecs (l : Nat) (e : BasketPair) (v : Tab Word) : Tab Word :=
  let put := fun (v : Tab Word) (r : Nat) (x : Word) => Tab.set 0 v (96 * r + l) x
  put (put (put (put (put (put (put v 0 e.i) 1 e.j) 2 e.dx) 3 e.dy) 4 e.dz) 5 e.r2) 6 (e.cls.setWidth 32)

/-- The kernel object that stands for a pair group. -/
def PairLaunch.kobj (p : PairLaunch) : KObj :=
  { entry := BitVec.ofNat 64 (p.f 88 8), dict := BitVec.ofNat 64 (p.f 96 8), regs := p.f 104 1, teamg := 1, hbind := bitOf (p.f 49 1) 6 }

/-- The team of one group of a basket (R303, Table 08-2). -/
def PairLaunch.team (p : PairLaunch) (es : List BasketPair) (uid : Nat) : Team :=
  let n := es.length
  let live : LaneMask := BitVec.ofNat 96 (2 ^ n - 1)
  let sc := scalarPair (scalarPair [] 0 (BitVec.ofNat 64 (p.f 0 8))) 2 (BitVec.ofNat 64 (p.f 24 8))
  let sc := Tab.set 0 (Tab.set 0 (Tab.set 0 (Tab.set 0 sc 4 (p.w 12)) 5 (p.w 36)) 6 (BitVec.ofNat 32 (p.f 50 1))) 7 (BitVec.ofNat 32 p.lid)
  let id : Ident := { gridx := 1, gridy := 1, gridz := 1, param := p.daddr, gkind := 2 }
  let g := startGrp (BitVec.ofNat 64 (p.f 88 8)) live sc id
  let v := (List.range n).foldl (fun v l => match es[l]? with
    | some e => pairVecs l e v
    | none => v) ([] : Tab Word)
  let g := { g with v := v, pairs := es.map fun e => { i := e.i, j := e.j, cls := e.cls } }
  { ctx := p.ctx, lid := p.lid, kind := .pair, kobj := p.kobj, cluster := 2 ^ 40 + uid, groups := [(0, g)] }

/-- PAIR_GROUP_START (R303): a flushed basket's group starts on a core of its unit's pod with room. -/
def execPairGroupStart (pod ctx lid core : Nat) (s : State) : Host.Outcome State Fault Refusal :=
  event (match s.pairLaunch ctx lid with
    | none => s
    | some p => match p.share pod with
      | none => s
      | some h =>
        if !h.flush ∨ h.basket.isEmpty ∨ podOf core ≠ pod ∨ !s.fits core ctx p.kobj 1 then s
        else
          let s := (s.setShare ctx lid { h with basket := [], flush := false }).modPairLaunch ctx lid fun p => { p with groups := p.groups + 1, live := p.live + 1 }
          s.place core (p.team h.basket s.nextUid))

/-! ## Completion (R310) -/

/-- Every unit has finished matching. -/
def PairLaunch.matched (p : PairLaunch) : Bool :=
  decide (p.taken ≤ p.nextA) && p.shares.all fun h => h.cur.isNone && h.basket.isEmpty

/-- The record of Table 12-5. -/
def PairLaunch.record (p : PairLaunch) (now : Nat) : List Byte :=
  leBytes 4 p.lid ++ leBytes 4 (if p.faults = 0 && p.lost = 0 && p.killed = 0 then 1 else 3) ++ leBytes 8 p.pairs ++ leBytes 8 p.tests ++
  leBytes 4 p.groups ++ leBytes 4 p.faults ++ leBytes 4 p.lost ++ leBytes 4 p.killed ++ leBytes 4 p.coarsen ++ leBytes 4 p.edge.toNat ++
  leBytes 4 (if p.mode = 2 then 0 else p.nanpos.length) ++ leBytes 4 p.excluded ++ leBytes 4 now ++ leBytes 4 p.lid

/-- The accumulators of a launch whose scratch area was written while it was in flight hold undefined sums (R333). -/
def State.freeSums (s : State) (p : PairLaunch) : State :=
  if !s.scratched p then s
  else
    let (bs, s) := s.freeRun (pairSlots p.desc * pairK p.desc)
    match s.writeLocal ioCore p.ctx (p.f 112 8) bs with
    | .ok s => s
    | .error _ => s

/-- What a launch leaves where its fault ring overlaps that of another that was in flight beside it is undefined (R309). -/
def State.freeOverlap (s : State) (p : PairLaunch) : State :=
  p.shared.foldl (fun s e =>
    let (bs, t) := s.ringBytes p.ctx p.lid e.1 (s.cohRead e.1 e.2) s
    if s.freeCtr = t.freeCtr then s else t.post .loose e.1 bs) s

/-- The FINAL step, with its troubles in the fault ring (R307). -/
def State.finalStep (s : State) (p : PairLaunch) : State :=
  let s := ((s.settleRace p).freeSums p).modPairLaunch p.ctx p.lid fun p => { p with final := true }
  if !bitOf (p.f 49 1) 2 then s
  else
    let k := pairK p.desc
    let (s, bad) := s.finAll ioCore p.ctx p.desc (List.range (pairSlots p.desc * k))
    bad.foldl (fun s (i, f, a) => s.pairFault p.ctx p.lid { code := f.code, flags := 0, chan := i % k, i := i / k, info := a }) s

/-- The last step of a launch: its record, and its place in the table given up. -/
def State.finishPairs (s : State) (p : PairLaunch) : State :=
  let a := p.f 144 8 + 64 * ((p.lid - 1) % (p.f 152 4 / 64))
  let s := match (s.freeOverlap p).writeLocal ioCore p.ctx a (p.record s.gtime) with
    | .ok s => s
    | .error (f, _) => s.hostFault { source := 9, fcode := f.code, reason := 2, ctx := p.ctx, lid := p.lid, addr := a }
  { s with pairLaunches := s.pairLaunches.filter fun q => !(q.ctx = p.ctx && q.lid = p.lid)
           raced := s.raced.filter fun e => !(e.1 = p.ctx && e.2.1 = p.lid) }

/-- Matching is over, the groups have ended, the additions are complete and the context's counts are performed (R310 steps 1 and 2,
R346). -/
def State.pairsDone (s : State) (p : PairLaunch) : Bool :=
  p.matched && decide (p.live = 0) && !(s.padds.any fun a => a.ctx = p.ctx && a.lid = p.lid) && decide (p.wct ≤ s.gtime) && !(s.counts.any fun a => a.ctx = p.ctx)

/-- The tables of the completion ring and of the fault ring can be read. -/
def State.endReady (s : State) (p : PairLaunch) : Bool :=
  s.vaTables ioCore p.ctx .w (p.f 144 8) (p.f 152 4) && s.vaTables ioCore p.ctx .w (p.f 160 8) (p.f 168 4)

/-- PAIR_LAUNCH_COMPLETE (R310): the FINAL step once, and the record once every fault-ring entry is complete. -/
def execPairLaunchComplete (ctx lid : Nat) (s : State) : Host.Outcome State Fault Refusal :=
  event (match s.pairLaunch ctx lid with
    | none => s
    | some p =>
      let n := pairSlots p.desc * pairK p.desc
      let fin := !p.final && bitOf (p.f 49 1) 2
      let s := if s.pairsDone p && fin then s.outMark ioCore ctx (p.f 120 8) (4 * n) else s
      if !s.pairsDone p || !s.endReady p || (fin && !(s.vaReady ioCore ctx .r (p.f 112 8) (16 * n) && s.outReady ioCore ctx (p.f 120 8) (4 * n))) then s
      else
        let s := if p.final then s else s.finalStep p
        match s.pairLaunch ctx lid with
        | none => s
        | some p => if s.srcIdle (.pairs ctx lid) then s.finishPairs p else s)

end Sys2Proof.Machine
end

