-- ==== Sys2Proof/Machine/Search.lean ====
section
/-! DEFINITION. Search: tasks in the pods' heaps (R203 to R205, R289 to R291), the incumbent unit and its shadows (R206, R207,
R246 to R250). -/

namespace Sys2Proof.Machine

/-! ## Incumbent slots -/

def State.slotAt (s : State) (n : Nat) : Slot := Tab.get {} s.slots n

/-- The slot belongs to a context. -/
def State.slotOwned (s : State) (n c : Nat) : Bool := (s.slotAt n).owned && (s.slotAt n).owner.toNat = c

/-- The broadcast value of a slot. -/
def Slot.shadow (t : Slot) : Shadow := { key := t.key, sense := t.sense, owner := t.owner, owned := t.owned, serial := t.serial }

def State.setShadow (s : State) (pod n : Nat) (h : Shadow) : State := { s with shadows := Tab.set {} s.shadows (8 * pod + n) h }

/-- A slot is set (R247): every field at once, and every pod's shadow before the write completes. -/
def State.setSlot (s : State) (n : Nat) (ctl : Word) : State :=
  let t := s.slotAt n
  let t := { t with key := t.stageKey, payload := t.stagePay, owned := ctl.getLsbD 31, owner := ctl.extractLsb' 8 6, sense := ctl.getLsbD 0, serial := 0 }
  let s := { s with slots := Tab.set {} s.slots n t
                    broadcasts := s.broadcasts.map fun (p, l) => (p, l.filter fun b => b.1 ≠ n) }
  (List.range 24).foldl (fun s p => s.setShadow p n t.shadow) s

/-- The group's registers that an engine owes are no longer owed. -/
def Grp.paid (g : Grp) (sd : Nat) : Grp := { g with owed := g.owed.filter fun e => e.1 ≠ sd }

/-- An answer of the incumbent unit to its group. -/
def State.incAnswer (s : State) (r : IncReq) (ws : List Word) : State :=
  match r.who with
  | .grp t k => s.modGrp t k fun g => (g.setSs r.sd ws).paid r.sd
  | .courier _ => s

/-- A request of the issuing group to the incumbent unit, its registers owed. -/
def Iss.incAsk (x : Iss) (s : State) (r : IncReq) (n : Nat) : State :=
  { s.modGrp x.t x.k fun g => { g with owed := g.owed ++ [(r.sd, n)] } with increqs := s.increqs ++ [r] }

/-- `imprv` (R206): an implied `fence.rel device`, then the candidate leaves for the unit, with no lane active too (log 59). -/
def execImprv (d a b : BitVec 6) (s : State) : Host.Outcome State Fault Refusal :=
  word (.imprv d a b) s fun x s => do
    let n := (x.g.sreg x.b).toNat
    if 7 < n || !s.slotOwned n x.ctx then throw (x.raise s .operand)
    if !s.doneBefore x.owner s.nextOp 3 then throw (x.hold s)
    return x.incAsk s { who := x.who, slot := n, read := false, sd := x.d, key := x.g.spair x.a, payload := x.g.spair (x.a + 2) } 1

/-- `incrd` (R207), with no lane active too (log 59). -/
def execIncrd (d b : BitVec 6) (s : State) : Host.Outcome State Fault Refusal :=
  word (.incrd d b) s fun x s =>
    let n := (x.g.sreg x.b).toNat
    if 7 < n || !s.slotOwned n x.ctx then .error (x.raise s .operand)
    else .ok (x.incAsk s { who := x.who, slot := n, read := true, sd := x.d } 4)

/-- A candidate is better than a slot (R206). -/
def Slot.better (t : Slot) (key payload : DWord) : Bool :=
  (t.sense && decide (t.key.toNat < key.toNat)) || (!t.sense && decide (key.toNat < t.key.toNat)) ||
  (key = t.key && decide (payload.toNat < t.payload.toNat))

/-- The 32-bit words of 64-bit values, low word first. -/
def dwords (l : List DWord) : List Word := l.flatMap fun v => [v.extractLsb' 0 32, v.extractLsb' 32 32]

/-- One request decided: an accepted candidate is broadcast to every pod. -/
def State.incDecide (s : State) (r : IncReq) : State :=
  let t := s.slotAt r.slot
  if r.read then s.incAnswer r (dwords [t.key, t.payload])
  else if t.better r.key r.payload then
    let t := { t with key := r.key, payload := r.payload, serial := t.serial + 1 }
    let s := { s with slots := Tab.set {} s.slots r.slot t
                      broadcasts := (List.range 24).foldl (fun b p => Tab.set [] b p (Tab.get [] b p ++ [(r.slot, t.shadow, s.gtime)])) s.broadcasts }
    s.incAnswer r [(t.serial ++ (1 : BitVec 1) : Word)]
  else s.incAnswer r [(t.serial ++ (0 : BitVec 1) : Word)]

/-- INCUMBENT_DECISION (R206, R248): request `k` reaches the unit; those of one group in their order. -/
def execIncumbentDecision (k : Nat) (s : State) : Host.Outcome State Fault Refusal :=
  event (match s.increqs[k]? with
    | none => s
    | some r =>
      if (s.increqs.take k).any fun q => q.who = r.who then s
      else ({ s with increqs := s.increqs.eraseIdx k } : State).incDecide r)

/-- The oldest pending broadcast of a slot taken by a pod's shadow. -/
def State.takeBroadcast (s : State) (pod slot : Nat) : State :=
  let l := Tab.get [] s.broadcasts pod
  match l.find? fun b => b.1 = slot with
  | none => s
  | some b => ({ s with broadcasts := Tab.set [] s.broadcasts pod (l.erase b) } : State).setShadow pod slot b.2.1

/-- SHADOW_UPDATE (R249). -/
def execShadowUpdate (pod slot : Nat) (s : State) : Host.Outcome State Fault Refusal := event (s.takeBroadcast pod slot)

/-! ## Tasks -/

/-- Tasks of a launch counted. -/
def State.taskCount (s : State) (c lid : Nat) (f : Nat → Nat) : State := s.modLaunch c lid fun l => { l with tasks := f l.tasks }

/-- The bytes of a task record (Table 07-5). -/
def Task.bytes (k : Task) : List Byte :=
  (k.payload.flatMap fun w => leBytes 4 w.toNat) ++ leBytes 8 k.bound.toNat ++ leBytes 8 k.entry.toNat ++ leBytes 4 k.slot ++ zeros 4

/-- A task as its spilled record stands in memory. -/
def Task.reread (k : Task) (b : List Byte) : Task :=
  { k with payload := (List.range 10).map fun i => BitVec.ofNat 32 (field b (4 * i) 4)
           bound := BitVec.ofNat 64 (field b 40 8), entry := BitVec.ofNat 64 (field b 48 8), slot := field b 56 4 % 8 }

/-- Records of one pod's part of a context's spill area (Table 16-1). -/
def Ctx.spillSize (x : Ctx) : Nat := x.tspilll.toNat / 1536

/-- Address of spilled record `n` of a pod. -/
def Ctx.spillAddr (x : Ctx) (pod n : Nat) : Nat := x.tspill.toNat + 64 * (pod * x.spillSize + n % x.spillSize)

/-- Spilled tasks of a context in a pod, oldest first; `order` holds each one's record number. -/
def State.spilledOf (s : State) (c pod : Nat) : List Task := Tab.get [] s.spilled (24 * c + pod)

def State.setSpilled (s : State) (c pod : Nat) (l : List Task) : State := { s with spilled := Tab.set [] s.spilled (24 * c + pod) l }

/-- The pod's part has room for a record (R290). -/
def State.spillFree (s : State) (c pod : Nat) : Bool :=
  let x := s.ctx c
  match s.spilledOf c pod with
  | [] => decide (0 < x.spillSize)
  | k :: _ => decide (Tab.get 0 x.spillHead pod - k.order < x.spillSize)

/-- A task enters its pod's heap, or the spill area where the heap is full; none while that is full too. -/
def State.enterTask (s : State) (core : Nat) (k : Task) : Option State :=
  let pod := podOf core
  let heap := Tab.get [] s.heaps pod
  if heap.length < 4096 then
    some { s with heaps := Tab.set [] s.heaps pod (heap ++ [{ k with order := s.order }]), order := s.order + 1 }
  else if !s.spillFree k.ctx pod || !s.vaTables core k.ctx .w ((s.ctx k.ctx).spillAddr pod (Tab.get 0 (s.ctx k.ctx).spillHead pod)) 64 then none
  else
    let x := s.ctx k.ctx
    let n := Tab.get 0 x.spillHead pod
    let s := match s.writeVA core k.ctx (x.spillAddr pod n) k.bytes with
      | .ok s => s
      | .error _ => s
    some ((s.setSpilled k.ctx pod (s.spilledOf k.ctx pod ++ [{ k with order := n }])).modCtx k.ctx fun y => { y with spillHead := Tab.put y.spillHead pod (n + 1) })

/-- The launch that a task counts in; tasks of pair groups count in none. -/
def Team.taskLid (T : Team) : Nat := if T.kind = .pair then 2 ^ 33 + T.lid else T.lid

/-- `tspawn` (R203): checks, the kill at spawn, and the heap. -/
def execTspawn (a : BitVec 6) (s : State) : Host.Outcome State Fault Refusal :=
  word (.tspawn a) s fun x s => do
    let w := fun i => x.g.sreg (x.a + i)
    let bound := x.g.spair (x.a + 10)
    let entry := x.g.spair (x.a + 12)
    let slot := (w 14).toNat
    if 8 ≤ slot || w 15 ≠ 0 || !s.slotOwned slot x.ctx then throw (x.raise s .operand)
    if entry.toNat % 4 ≠ 0 then throw (x.raise s .align)
    if !vaOk entry.toNat then throw (x.raise s .address)
    let h := s.shadow (podOf x.core) slot
    if worse h.sense bound h.key then return s.countEvent x.ctx 0x010
    let k : Task := { ctx := x.ctx, lid := x.T.taskLid, payload := (List.range 10).map w, bound := bound, entry := entry, slot := slot,
                      kobj := x.T.kobj, id := x.g.id, order := 0 }
    match s.enterTask x.core k with
    | none => throw (x.stall s)
    | some s => return s.taskCount x.ctx x.T.taskLid (· + 1)

/-- `tchk` (R205): a task group with a bound strictly worse than its shadow ends. -/
def execTchk (s : State) : Host.Outcome State Fault Refusal :=
  word .tchk s fun x s => if s.taskDead x.T x.g then .error (s.killTask x.t x.T) else .ok s

/-- Best bound first, then order of entry (R289). -/
def Task.before (max : Bool) (a b : Task) : Bool :=
  if a.bound = b.bound then decide (a.order < b.order) else worse max b.bound a.bound

/-- The task of a slot that a heap offers first. -/
def bestTask (max : Bool) : List Task → Option Task
  | [] => none
  | a :: t => match bestTask max t with
    | none => some a
    | some b => some (if a.before max b then a else b)

/-- The slot whose turn it is: the next after the last served that holds tasks. -/
def turnSlot (last : Nat) (heap : List Task) : Option Nat :=
  ((List.range 8).map fun i => (last + 1 + i) % 8).find? fun n => heap.any fun k => k.slot = n

/-- The team of a dispatched task (R204, Table 08-2). -/
def Task.team (k : Task) (uid : Nat) : Team :=
  let id : Ident := { k.id with gint := 0, clusx := 0, clusy := 0, stashid := 0, teamg := 1, width := 1, height := 1, gkind := 1 }
  let sc := (List.range 10).foldl (fun t i => Tab.set 0 t i (k.payload.getD i 0)) ([] : Tab Word)
  let g := startGrp k.entry (BitVec.allOnes 96) sc id
  { ctx := k.ctx, lid := k.lid, kind := .task, kobj := { k.kobj with teamg := 1, cx := 1, cy := 1, stash := 0 }, cluster := 2 ^ 40 + uid
    groups := [(0, { g with tbound := k.bound, tslot := BitVec.ofNat 3 k.slot })] }

/-- A dropped task: counted as a dispatch kill, and no longer a task of its launch. -/
def State.dropTask (s : State) (k : Task) : State := (s.countEvent k.ctx 0x018).taskCount k.ctx k.lid (· - 1)

/-- TASK_DISPATCH (R291): the heap offers its next task; it is dropped, or starts on a core of the pod with room. -/
def execTaskDispatch (pod core : Nat) (s : State) : Host.Outcome State Fault Refusal :=
  let heap := Tab.get [] s.heaps pod
  event (match turnSlot (Tab.get 7 s.heapTurn pod) heap with
    | none => s
    | some n =>
      let h := s.shadow pod n
      match bestTask h.sense (heap.filter fun k => k.slot = n) with
      | none => s
      | some k =>
        let out := { s with heaps := Tab.set [] s.heaps pod (heap.erase k), heapTurn := Tab.put s.heapTurn pod n }
        if worse h.sense k.bound h.key then out.dropTask k
        else if !(h.owned && h.owner.toNat = k.ctx) then
          (out.hostFault { source := 7, reason := n, ctx := k.ctx, lid := k.lid % 2 ^ 32 }).dropTask k
        else if podOf core ≠ pod ∨ !s.fits core k.ctx { k.kobj with stash := 0 } 1 then s
        else out.place core (k.team s.nextUid))

/-- TASK_SWEEP (R291): every queued or spilled task of the slot that is strictly worse than the shadow is dropped. -/
def execTaskSweep (pod slot : Nat) (s : State) : Host.Outcome State Fault Refusal :=
  let h := s.shadow pod slot
  let bad := fun (k : Task) => k.slot = slot && worse h.sense k.bound h.key
  let heap := Tab.get [] s.heaps pod
  let lost := heap.filter bad ++ ((s.spilled.filter fun e => e.1 % 24 = pod).flatMap Prod.snd).filter bad
  let s := { s with heaps := Tab.set [] s.heaps pod (heap.filter fun k => !bad k)
                    spilled := s.spilled.filterMap fun (i, l) =>
                      if i % 24 = pod then (if (l.filter fun k => !bad k).isEmpty then none else some (i, l.filter fun k => !bad k)) else some (i, l) }
  event (lost.foldl State.dropTask s)

/-- A spilled record can be read back: the write that spilled it is performed, and its home takes requests (R290). -/
def State.spillSettled (s : State) (ctx addr : Nat) : Bool :=
  s.vaReady ioCore ctx .r addr 64 && match s.trans ioCore ctx .r addr with
  | .ok t => s.settledAt t.pa 64
  | .error _ => true

/-- Spilled records taken back in the order they were written. -/
def State.refill (s : State) (pod ctx : Nat) : Nat → State
  | 0 => s
  | fuel + 1 =>
    let heap := Tab.get [] s.heaps pod
    match s.spilledOf ctx pod with
    | [] => s
    | k :: rest =>
      if 4096 ≤ heap.length || !s.spillSettled ctx ((s.ctx ctx).spillAddr pod k.order) then s
      else
        let k' := match s.readVA ioCore ctx ((s.ctx ctx).spillAddr pod k.order) 64 with
          | .ok b => k.reread b
          | .error _ => k
        (({ s with heaps := Tab.set [] s.heaps pod (heap ++ [{ k' with order := s.order }]), order := s.order + 1 } : State).setSpilled ctx pod rest).refill pod ctx fuel

/-- TASK_SPILL_REFILL (R290): while the heap holds fewer than 3,072 records. -/
def execTaskSpillRefill (pod ctx : Nat) (s : State) : Host.Outcome State Fault Refusal :=
  event (if (Tab.get [] s.heaps pod).length < 3072 then s.refill pod ctx 4096 else s)

end Sys2Proof.Machine
end

