-- ==== Sys2Proof/Machine/System.lean ====
section
/-! DEFINITION. Special registers (R215, R223 to R250), `kteam` (R214), `tlbinv` (R216) and `sevent` (R217). -/

namespace Sys2Proof.Machine

/-! ## Reading special registers -/

/-- A field of `n` bits at a place of a register. -/
def bits (v n at_ : Nat) : Nat := v % 2 ^ n * 2 ^ at_

/-- BATCH (Table 08-7). -/
def Grp.batch (g : Grp) : Nat :=
  bits g.defer.isSome.toNat 1 31 + bits g.closed.length 5 26 + bits g.bops 9 17 + g.bopen.toNat

/-- QPC of a quad (R231). -/
def Grp.qpc (g : Grp) (q : Nat) : Nat :=
  match (Tab.get {} g.quads q).path with
  | some p => if p.mask = 0 then 0 else bits p.mask.toNat 4 28 + p.pc.toNat % 2 ^ 28
  | none => 0

/-- The identity register at 0x040 + `n` (Table 08-16). -/
def Ident.reg (d : Ident) (n : Nat) : Nat :=
  match n with
  | 0 => d.teamx.toNat
  | 1 => d.teamy.toNat
  | 2 => d.teamz.toNat
  | 3 => d.gridx.toNat
  | 4 => d.gridy.toNat
  | 5 => d.gridz.toNat
  | 6 => d.gint.toNat
  | 7 => d.teamn.toNat
  | 8 => d.clusx.toNat
  | 9 => d.clusy.toNat
  | 10 => d.param.toNat % 2 ^ 32
  | 11 => d.param.toNat / 2 ^ 32
  | 12 => d.stashid.toNat
  | 13 => d.teamg.toNat
  | 14 => bits d.height.toNat 4 4 + d.width.toNat
  | _ => d.gkind.toNat

/-- FSKID (Table 08-17). -/
def Grp.fskid (g : Grp) : Nat := bits g.fhalt.toNat 1 4 + g.skid.toNat

/-- HSTAT of a core (Table 09-8). -/
def State.hstat (s : State) (c : Nat) : Nat :=
  let k := s.core c
  let stop := match k.courier with | some y => y.stopped | none => false
  let wait := match k.courier with | some y => y.wait.isSome | none => false
  let hrun := s.teams.any fun (_, T) => T.core = c && T.groups.any fun e => e.2.frame.isSome && e.2.run ≠ .ended
  bits k.ctx.isSome.toNat 1 31 + bits stop.toNat 1 30 + bits wait.toNat 1 29 + bits hrun.toNat 1 28 + bits k.pre.toNat 1 27 + bits k.thr.toNat 1 26 +
  bits k.nmem 5 21 + bits k.dicts.length 3 18 + bits k.slots.length 5 13 + bits (s.liveOn c) 5 8

/-- CSID of a pair of slots (Table 09-4). -/
def State.csid (s : State) (c m : Nat) : Nat :=
  let id := fun n => match (Tab.find (s.core c).slots n).bind s.team with | some T => T.stashid.toNat | none => 0
  bits (id (2 * m + 1)) 16 16 + id (2 * m)

/-- The resident context's value of a register of Table 09-10, 0 while none is resident (R244). -/
def State.ctxReg (s : State) (c : Nat) (f : Nat → Ctx → Nat) : Nat :=
  match (s.core c).ctx with
  | some x => f x (s.ctx x)
  | none => 0

/-- The low number of a 64-bit register's high number (R224, R237). -/
def srLow (n : Nat) : Option Nat :=
  if [0x11, 0x15, 0x17, 0x19, 0x62, 0x64, 0x103, 0x109, 0x10B, 0x10D, 0x111, 0x201, 0x203].contains n || (0x210 ≤ n && n ≤ 0x23F && n % 2 = 1) then some (n - 1)
  else none

/-- The low number names a 64-bit register. -/
def srWide (n : Nat) : Bool := srLow (n + 1) = some n

/-- INCCTL and INCCTLH as one value (Table 09-14). -/
def Slot.ctl (t : Slot) : Nat := bits t.owned.toNat 1 31 + bits t.owner.toNat 6 8 + t.sense.toNat + t.serial.toNat * 2 ^ 32

/-- The whole value of a special register, 64 bits where it has a high number; HINTST and REPST read 0 (R230). -/
def Iss.sr (x : Iss) (s : State) (n : Nat) : Nat :=
  if n = 0x000 then x.g.nmode.toNat
  else if n = 0x001 then x.g.gflags.toNat
  else if n = 0x002 then x.g.garm.toNat
  else if n = 0x003 then bits x.g.nextop.toNat 16 16 + x.g.members.toNat
  else if n = 0x004 then x.g.batch
  else if 0x008 ≤ n ∧ n ≤ 0x00B then x.g.ifc (n - 8)
  else if n = 0x010 then x.g.tbound.toNat
  else if n = 0x012 then x.g.tslot.toNat
  else if n = 0x014 then x.g.gtcmp.toNat
  else if n = 0x016 then s.ctime x.ctx x.core
  else if n = 0x018 then x.T.ccyc
  else if 0x020 ≤ n ∧ n ≤ 0x037 then x.g.qpc (n - 0x20)
  else if 0x040 ≤ n ∧ n ≤ 0x04F then x.g.id.reg (n - 0x40)
  else if n = 0x060 then x.g.fcode.toNat
  else if n = 0x061 then x.g.fpc.toNat
  else if n = 0x063 then x.g.faddr.toNat
  else if n = 0x065 then x.g.fskid
  else if n = 0x066 then x.g.faux.toNat
  else if n = 0x100 then (s.core x.core).cfg.toNat
  else if n = 0x101 then s.hstat x.core
  else if n = 0x102 then (s.core x.core).cyc
  else if n = 0x104 then s.ctxReg x.core fun _ c => c.quant
  else if n = 0x105 then s.ctxReg x.core fun _ c => c.wdog
  else if n = 0x106 then s.ctxReg x.core fun i c => bits c.priv.toNat 1 31 + i % 64
  else if n = 0x108 then s.ctxReg x.core fun _ c => c.handler.toNat
  else if n = 0x10A then s.ctxReg x.core fun _ c => c.s1root.toNat
  else if n = 0x10C then s.ctxReg x.core fun _ c => c.s2root.toNat
  else if n = 0x110 then (match (s.core x.core).courier with | some y => (cpcBits y.cpc).toNat | none => 0)
  else if n = 0x200 then s.dieNow (dieOf x.core)
  else if n = 0x202 then s.ready.toNat
  else if n = 0x204 then s.smapsn.toNat
  else if 0x210 ≤ n ∧ n ≤ 0x21F then (s.slotAt ((n - 0x210) / 2)).key.toNat
  else if 0x220 ≤ n ∧ n ≤ 0x22F then (s.slotAt ((n - 0x220) / 2)).payload.toNat
  else if 0x230 ≤ n ∧ n ≤ 0x23F then (s.slotAt ((n - 0x230) / 2)).ctl
  else if 0x300 ≤ n ∧ n ≤ 0x307 then s.csid x.core (n - 0x300)
  else 0

/-- The issuing agent's read latch set to a register and its high word (R224, R237). -/
def Iss.setLatch (x : Iss) (s : State) (n : Nat) (w : Word) : State :=
  match x.who with
  | .grp t k => s.modGrp t k fun g => { g with latch := some (n, w) }
  | .courier c => s.modCore c fun k => { k with courier := k.courier.map fun (y : Courier) => { y with latch := some (n, w) } }

/-- `mfsr` (R215, R224): a high number returns the latch where the last low number read named the same register. -/
def execMfsr (d : BitVec 6) (r : BitVec 12) (s : State) : Host.Outcome State Fault Refusal :=
  word (.mfsr d r) s fun x s =>
    let n := r.toNat
    match srLow n with
    | some l =>
      let high := BitVec.ofNat 32 (x.sr s l / 2 ^ 32)
      .ok (x.setS s x.d (match x.g.latch with | some (m, w) => if m = l then w else high | none => high))
    | none =>
      let v := x.sr s n
      let s := if srWide n then x.setLatch s n (BitVec.ofNat 32 (v / 2 ^ 32)) else s
      .ok (x.setS s x.d (BitVec.ofNat 32 v))

/-! ## Writing special registers -/

/-- A 64-bit value with its low or its high word replaced. -/
def setHalf (v : DWord) (high : Bool) (w : Word) : DWord :=
  if high then w ++ v.extractLsb' 0 32 else v.extractLsb' 32 32 ++ w

/-- CORECFG written (R242, Table 09-7): bits [7:4] and [2:0] are kept; the throttle never allows fewer than NFLOOR + 1 groups,
and it is off where THROT is 0 (R294). -/
def Core.setCfg (k : Core) (w : Word) : Core :=
  let k := { k with cfg := w &&& 0xF7, nmem := max k.nmem ((w.extractLsb' 4 4).toNat + 1) }
  if w.getLsbD 0 then k else { k with thr := false, nmem := 16, admitted := [] }

/-- A write of an INCK or INCP number goes to the slot's stage (R246). -/
def Slot.stageWrite (t : Slot) (n : Nat) (w : Word) : Slot :=
  if n < 0x220 then { t with stageKey := setHalf t.stageKey (n % 2 = 1) w } else { t with stagePay := setHalf t.stagePay (n % 2 = 1) w }

/-- `mtsr` of a register without a row of its own (R215, R224): a read-only register or field is unchanged (R10); FPC is
written only in a handler (R235). -/
def execMtsr (d : BitVec 6) (r : BitVec 12) (s : State) : Host.Outcome State Fault Refusal :=
  word (.mtsr d r) s fun x s =>
    let n := r.toNat
    let w := x.g.sreg x.a
    let grp := fun (f : Grp → Grp) => s.modGrp x.t x.k f
    if n = 0x000 then .ok (grp fun g => { g with nmode := w &&& 0x1FFFFF })
    else if n = 0x002 then .ok (grp fun g => { g with garm := w.setWidth 5 })
    else if n = 0x061 ∨ n = 0x062 then
      .ok (if x.g.frame.isSome then grp fun g => { g with fpc := setHalf g.fpc (n = 0x062) w } else s)
    else if n = 0x100 then .ok ((s.modCore x.core fun k => k.setCfg w).noteMred x.core)
    else if 0x210 ≤ n ∧ n ≤ 0x22F then
      let i := n % 16 / 2
      .ok { s with slots := Tab.set {} s.slots i ((s.slotAt i).stageWrite n w) }
    else .ok s

/-- `mtsr GFLAGS` (R120): every earlier instruction of the model's group has merged its flags when this one issues. -/
def execMtsrGflags (d : BitVec 6) (s : State) : Host.Outcome State Fault Refusal :=
  word (.mtsrGflags d) s fun x s => .ok (s.modGrp x.t x.k fun g => { g with gflags := (x.g.sreg x.a).setWidth 5 })

/-- `mtsr PARTY` (R225): waits while the group's latch holds an `mma`. -/
def execMtsrParty (d : BitVec 6) (s : State) : Host.Outcome State Fault Refusal :=
  word (.mtsrParty d) s fun x s =>
    if x.g.muster.isSome then .error (x.stall s)
    else .ok (s.modGrp x.t x.k fun g => { g with members := (x.g.sreg x.a).setWidth 16, nextop := 0 })

/-- `mtsr GTCMP` (R229): the low word is staged and the timer disarmed. -/
def execMtsrGtcmp (d : BitVec 6) (s : State) : Host.Outcome State Fault Refusal :=
  word (.mtsrGtcmp d) s fun x s => .ok (s.modGrp x.t x.k fun g => { g with stage := x.g.sreg x.a, gtcmp := 0 })

/-- `mtsr GTCMPH` (R229): the timer takes the high word and the staged low word, armed unless it is 0. -/
def execMtsrGtcmph (d : BitVec 6) (s : State) : Host.Outcome State Fault Refusal :=
  word (.mtsrGtcmph d) s fun x s => .ok (s.modGrp x.t x.k fun g => { g with gtcmp := x.g.sreg x.a ++ g.stage })

/-- `mtsr INCCTLn` (R247): the slot is set. -/
def execMtsrIncctl (d : BitVec 6) (n : BitVec 3) (s : State) : Host.Outcome State Fault Refusal :=
  word (.mtsrIncctl d n) s fun x s => .ok (s.setSlot n.toNat (x.g.sreg x.a))

/-! ## `kteam`, `tlbinv`, `sevent` -/

/-- `kteam` (R214): the issuing group's team is killed at once. -/
def execKteam (s : State) : Host.Outcome State Fault Refusal := word .kteam s fun x s => .error (s.endTeam x.t)

/-- What in-flight writes of a context hold of D is forgotten: each looks at its leaf anew when it is performed (R323). -/
def State.forgetD (s : State) (c : Nat) : State :=
  { s with
    ops := s.ops.map fun (id, o) => (id, if o.ctx = c then { o with parts := o.parts.map fun p => { p with dset := false } } else o)
    hamper := s.hamper.map fun r => if r.ctx = c then { r with dset := false } else r
    posted := s.posted.map fun p => { p with dirt := p.dirt.map fun d => if d.ctx = c then { d with d := false } else d }
    teams := s.teams.map fun (t, T) => (t, if T.ctx ≠ c then T else { T with wins := T.wins.map fun (n, W) =>
      (n, { W with lines := W.lines.map fun (i, l) => (i, { l with dset := false }) }) }) }

/-- Cached translations of a context that satisfy a test dropped from every TLB of the device (R216). -/
def State.tlbDrop (s : State) (c : Nat) (p : TlbEntry → Bool) : State :=
  let s := s.forgetD c
  { s with cores := s.cores.map fun (i, k) => (i, { k with tlb := k.tlb.filter fun e => !p e })
           l2tlb := s.l2tlb.map fun (i, l) => (i, l.filter fun e => !p e) }

/-- The entries of a context that an invalidation kind drops (Table 07-6). Kinds 0 and 2 drop every entry of the largest page,
1 GiB, that may hold the address, since a leaf of any size may have held it. -/
def tlbMatches (c kind addr : Nat) (e : TlbEntry) : Bool :=
  e.ctx = c && ((kind = 1 && !e.only2) || kind = 3 || (kind = 0 && !e.only2 && e.base / 2 ^ 30 = addr / 2 ^ 30) || (kind = 2 && e.ipa / 2 ^ 30 = addr / 2 ^ 30))

/-- `tlbinv` (R216). -/
def execTlbinv (a b : BitVec 6) (s : State) : Host.Outcome State Fault Refusal :=
  word (.tlbinv a b) s fun x s => do
    let kind := (x.g.sreg x.b).toNat
    let addr := (x.g.spair x.a).toNat
    if 3 < kind || (kind % 2 = 0 && addr % 4096 ≠ 0) then throw (x.raise s .operand)
    if 2 ≤ kind && !(s.ctx x.ctx).priv then throw (x.raise s .privilege)
    return s.tlbDrop x.ctx (tlbMatches x.ctx kind addr)

/-- `sevent` (R217, R346): the counter's event with its tag and CTIME at issue. -/
def execSevent (c : BitVec 12) (s : State) : Host.Outcome State Fault Refusal :=
  word (.sevent c) s fun x s =>
    .ok (s.countEvent x.ctx (0x100 + 16 * (c.toNat % 16)) (some (c.extractLsb' 4 8, BitVec.ofNat 32 (s.ctime x.ctx x.core))))

end Sys2Proof.Machine
end

