-- ==== Sys2Proof/Machine/Dict.lean ====
section
/-! DEFINITION. Dictionary words (R66 to R68, R334): the slot that the PC names, its stored word with the offset applied, and
the step of that word in the slot; words that are no instruction (R59, R60). -/

namespace Sys2Proof.Machine

/-- A vector code moved by an offset modulo 96; any other code is unchanged (R67). -/
def offCode (off : Nat) (c : BitVec 7) : BitVec 7 := if c.toNat < 96 then BitVec.ofNat 7 ((c.toNat + 8 * off) % 96) else c

/-- The register fields of a word changed by `mv`: d, a and b where the form reads them as operand codes, and acc (R67). -/
def mapCodes (mv : BitVec 7 → BitVec 7) : Instr → Instr
  | .iadd g d a b => .iadd g (mv d) (mv a) (mv b)
  | .isub g d a b => .isub g (mv d) (mv a) (mv b)
  | .imul g d a b => .imul g (mv d) (mv a) (mv b)
  | .imad g d a b => .imad g (mv d) (mv a) (mv b)
  | .imulhI32 g d a b => .imulhI32 g (mv d) (mv a) (mv b)
  | .imulhN32 g d a b => .imulhN32 g (mv d) (mv a) (mv b)
  | .madw g d a b => .madw g (mv d) (mv a) (mv b)
  | .add64 g d a b => .add64 g (mv d) (mv a) (mv b)
  | .idivI32 g d a b => .idivI32 g (mv d) (mv a) (mv b)
  | .idivN32 g d a b => .idivN32 g (mv d) (mv a) (mv b)
  | .iremI32 g d a b => .iremI32 g (mv d) (mv a) (mv b)
  | .iremN32 g d a b => .iremN32 g (mv d) (mv a) (mv b)
  | .iminI32 g d a b => .iminI32 g (mv d) (mv a) (mv b)
  | .iminN32 g d a b => .iminN32 g (mv d) (mv a) (mv b)
  | .imaxI32 g d a b => .imaxI32 g (mv d) (mv a) (mv b)
  | .imaxN32 g d a b => .imaxN32 g (mv d) (mv a) (mv b)
  | .and g d a b => .and g (mv d) (mv a) (mv b)
  | .or g d a b => .or g (mv d) (mv a) (mv b)
  | .xor g d a b => .xor g (mv d) (mv a) (mv b)
  | .andn g d a b => .andn g (mv d) (mv a) (mv b)
  | .shl g d a b => .shl g (mv d) (mv a) (mv b)
  | .shr g d a b => .shr g (mv d) (mv a) (mv b)
  | .sar g d a b => .sar g (mv d) (mv a) (mv b)
  | .rotl g d a b => .rotl g (mv d) (mv a) (mv b)
  | .clz g d a => .clz g (mv d) (mv a)
  | .popc g d a => .popc g (mv d) (mv a)
  | .brev g d a => .brev g (mv d) (mv a)
  | .not g d a => .not g (mv d) (mv a)
  | .bfxI32 g d a b => .bfxI32 g (mv d) (mv a) (mv b)
  | .bfxN32 g d a b => .bfxN32 g (mv d) (mv a) (mv b)
  | .bfi g d a b => .bfi g (mv d) (mv a) (mv b)
  | .isel g d a b => .isel g (mv d) (mv a) (mv b)
  | .iabs g d a => .iabs g (mv d) (mv a)
  | .ineg g d a => .ineg g (mv d) (mv a)
  | .mov g d a => .mov g (mv d) (mv a)
  | .lane g d => .lane g (mv d)
  | .fadd g d a b => .fadd g (mv d) (mv a) (mv b)
  | .fsub g d a b => .fsub g (mv d) (mv a) (mv b)
  | .fmul g d a b => .fmul g (mv d) (mv a) (mv b)
  | .ffma g d a b => .ffma g (mv d) (mv a) (mv b)
  | .fmin g d a b => .fmin g (mv d) (mv a) (mv b)
  | .fmax g d a b => .fmax g (mv d) (mv a) (mv b)
  | .fabs g d a => .fabs g (mv d) (mv a)
  | .fneg g d a => .fneg g (mv d) (mv a)
  | .fdiv g d a b => .fdiv g (mv d) (mv a) (mv b)
  | .fsqrt g d a => .fsqrt g (mv d) (mv a)
  | .fscale g d a b => .fscale g (mv d) (mv a) (mv b)
  | .fcls g d a => .fcls g (mv d) (mv a)
  | .frcp g d a => .frcp g (mv d) (mv a)
  | .frsq g d a => .frsq g (mv d) (mv a)
  | .fex2 g d a => .fex2 g (mv d) (mv a)
  | .flg2 g d a => .flg2 g (mv d) (mv a)
  | .fsin g d a => .fsin g (mv d) (mv a)
  | .fcos g d a => .fcos g (mv d) (mv a)
  | .frnd g d a s => .frnd g (mv d) (mv a) s
  | .hadd2F16 g d a b => .hadd2F16 g (mv d) (mv a) (mv b)
  | .hmul2F16 g d a b => .hmul2F16 g (mv d) (mv a) (mv b)
  | .hfma2F16 g d a b => .hfma2F16 g (mv d) (mv a) (mv b)
  | .hmax2F16 g d a b => .hmax2F16 g (mv d) (mv a) (mv b)
  | .hadd2Bf16 g d a b => .hadd2Bf16 g (mv d) (mv a) (mv b)
  | .hmul2Bf16 g d a b => .hmul2Bf16 g (mv d) (mv a) (mv b)
  | .hfma2Bf16 g d a b => .hfma2Bf16 g (mv d) (mv a) (mv b)
  | .hmax2Bf16 g d a b => .hmax2Bf16 g (mv d) (mv a) (mv b)
  | .cvt g d a s => .cvt g (mv d) (mv a) s
  | .scl g d a b => .scl g (mv d) (mv a) (mv b)
  | .upk g d a s => .upk g (mv d) (mv a) s
  | .pk2 g d a b => .pk2 g (mv d) (mv a) (mv b)
  | .pk4 g d a b => .pk4 g (mv d) (mv a) (mv b)
  | .pk8 g d a b => .pk8 g (mv d) (mv a) (mv b)
  | .dot4E4m3 g d a b => .dot4E4m3 g (mv d) (mv a) (mv b)
  | .dot4E5m2 g d a b => .dot4E5m2 g (mv d) (mv a) (mv b)
  | .dot4I8 g d a b => .dot4I8 g (mv d) (mv a) (mv b)
  | .dot4N8 g d a b => .dot4N8 g (mv d) (mv a) (mv b)
  | .dot8E2m1 g d a b => .dot8E2m1 g (mv d) (mv a) (mv b)
  | .dot8I4 g d a b => .dot8I4 g (mv d) (mv a) (mv b)
  | .dot2F16 g d a b => .dot2F16 g (mv d) (mv a) (mv b)
  | .dot2Bf16 g d a b => .dot2Bf16 g (mv d) (mv a) (mv b)
  | .shflIdx g d a b => .shflIdx g (mv d) (mv a) (mv b)
  | .shflXor g d a b => .shflXor g (mv d) (mv a) (mv b)
  | .shflUp g d a b => .shflUp g (mv d) (mv a) (mv b)
  | .shflDn g d a b => .shflDn g (mv d) (mv a) (mv b)
  | .gred g d a s => .gred g (mv d) (mv a) s
  | .gscan g d a s => .gscan g (mv d) (mv a) s
  | .vote g d a s => .vote g (mv d) (mv a) s
  | .bcast g d a b => .bcast g (mv d) (mv a) (mv b)
  | .compact g d a => .compact g (mv d) (mv a)
  | .p2v g d s => .p2v g (mv d) s
  | .v2p g a s => .v2p g (mv a) s
  | .icmp g p c a b f => .icmp g p c (mv a) (mv b) f
  | .fcmp g p c a b f => .fcmp g p c (mv a) (mv b) f
  | .jmpi g d a b => .jmpi g d (mv a) (mv b)
  | .mma c a b r z p q i => .mma (mv c) a b r z p q i
  | .pemitSym g a => .pemitSym g (mv a)
  | .pemitOne g a => .pemitOne g (mv a)
  | .pemitTwo g a => .pemitTwo g (mv a)
  | .iaddi g d a i => .iaddi g (mv d) (mv a) i
  | .andi g d a i => .andi g (mv d) (mv a) i
  | .ori g d a i => .ori g (mv d) (mv a) i
  | .xori g d a i => .xori g (mv d) (mv a) i
  | .shli g d a i => .shli g (mv d) (mv a) i
  | .shri g d a i => .shri g (mv d) (mv a) i
  | .sari g d a i => .sari g (mv d) (mv a) i
  | .movi g d i => .movi g (mv d) i
  | .imuli g d a i => .imuli g (mv d) (mv a) i
  | .ld g d a z m => .ld g (mv d) (mv a) z m
  | .st g d a z m => .st g (mv d) (mv a) z m
  | .lds g d a z m => .lds g (mv d) (mv a) z m
  | .sts g d a z m => .sts g (mv d) (mv a) z m
  | .ldt g d a m => .ldt g (mv d) (mv a) m
  | .stt g d a m => .stt g (mv d) (mv a) m
  | .pf g a m => .pf g (mv a) m
  | .ldx g d a b c => .ldx g (mv d) (mv a) (mv b) c
  | .stx g d a b c => .stx g (mv d) (mv a) (mv b) c
  | .hgath g d a b c => .hgath g (mv d) (mv a) (mv b) c
  | .cpaIn g d a m => .cpaIn g (mv d) (mv a) m
  | .cpaOut g d a m => .cpaOut g (mv d) (mv a) m
  | .atomAdd g d a b t => .atomAdd g (mv d) (mv a) (mv b) t
  | .atomMin g d a b t => .atomMin g (mv d) (mv a) (mv b) t
  | .atomMax g d a b t => .atomMax g (mv d) (mv a) (mv b) t
  | .atomAnd g d a b => .atomAnd g (mv d) (mv a) (mv b)
  | .atomOr g d a b => .atomOr g (mv d) (mv a) (mv b)
  | .atomXor g d a b => .atomXor g (mv d) (mv a) (mv b)
  | .atomExch g d a b => .atomExch g (mv d) (mv a) (mv b)
  | .cas g d a b t => .cas g (mv d) (mv a) (mv b) t
  | .satom g d a b t => .satom g (mv d) (mv a) (mv b) t
  | i => i

/-- The step of a word that stands in a slot. D and H words never do (R68), and events are no words. -/
def runSlot (i : Instr) (st : State) : Host.Outcome State Fault Refusal :=
  match i with
  | .iadd g d a b => execIadd g d a b st
  | .isub g d a b => execIsub g d a b st
  | .imul g d a b => execImul g d a b st
  | .imad g d a b => execImad g d a b st
  | .imulhI32 g d a b => execImulhI32 g d a b st
  | .imulhN32 g d a b => execImulhN32 g d a b st
  | .madw g d a b => execMadw g d a b st
  | .add64 g d a b => execAdd64 g d a b st
  | .idivI32 g d a b => execIdivI32 g d a b st
  | .idivN32 g d a b => execIdivN32 g d a b st
  | .iremI32 g d a b => execIremI32 g d a b st
  | .iremN32 g d a b => execIremN32 g d a b st
  | .iminI32 g d a b => execIminI32 g d a b st
  | .iminN32 g d a b => execIminN32 g d a b st
  | .imaxI32 g d a b => execImaxI32 g d a b st
  | .imaxN32 g d a b => execImaxN32 g d a b st
  | .and g d a b => execAnd g d a b st
  | .or g d a b => execOr g d a b st
  | .xor g d a b => execXor g d a b st
  | .andn g d a b => execAndn g d a b st
  | .shl g d a b => execShl g d a b st
  | .shr g d a b => execShr g d a b st
  | .sar g d a b => execSar g d a b st
  | .rotl g d a b => execRotl g d a b st
  | .clz g d a => execClz g d a st
  | .popc g d a => execPopc g d a st
  | .brev g d a => execBrev g d a st
  | .not g d a => execNot g d a st
  | .bfxI32 g d a b => execBfxI32 g d a b st
  | .bfxN32 g d a b => execBfxN32 g d a b st
  | .bfi g d a b => execBfi g d a b st
  | .isel g d a b => execIsel g d a b st
  | .iabs g d a => execIabs g d a st
  | .ineg g d a => execIneg g d a st
  | .mov g d a => execMov g d a st
  | .lane g d => execLane g d st
  | .fadd g d a b => execFadd g d a b st
  | .fsub g d a b => execFsub g d a b st
  | .fmul g d a b => execFmul g d a b st
  | .ffma g d a b => execFfma g d a b st
  | .fmin g d a b => execFmin g d a b st
  | .fmax g d a b => execFmax g d a b st
  | .fabs g d a => execFabs g d a st
  | .fneg g d a => execFneg g d a st
  | .fdiv g d a b => execFdiv g d a b st
  | .fsqrt g d a => execFsqrt g d a st
  | .fscale g d a b => execFscale g d a b st
  | .fcls g d a => execFcls g d a st
  | .frcp g d a => execFrcp g d a st
  | .frsq g d a => execFrsq g d a st
  | .fex2 g d a => execFex2 g d a st
  | .flg2 g d a => execFlg2 g d a st
  | .fsin g d a => execFsin g d a st
  | .fcos g d a => execFcos g d a st
  | .frnd g d a s => execFrnd g d a s st
  | .hadd2F16 g d a b => execHadd2F16 g d a b st
  | .hmul2F16 g d a b => execHmul2F16 g d a b st
  | .hfma2F16 g d a b => execHfma2F16 g d a b st
  | .hmax2F16 g d a b => execHmax2F16 g d a b st
  | .hadd2Bf16 g d a b => execHadd2Bf16 g d a b st
  | .hmul2Bf16 g d a b => execHmul2Bf16 g d a b st
  | .hfma2Bf16 g d a b => execHfma2Bf16 g d a b st
  | .hmax2Bf16 g d a b => execHmax2Bf16 g d a b st
  | .cvt g d a s => execCvt g d a s st
  | .scl g d a b => execScl g d a b st
  | .upk g d a s => execUpk g d a s st
  | .pk2 g d a b => execPk2 g d a b st
  | .pk4 g d a b => execPk4 g d a b st
  | .pk8 g d a b => execPk8 g d a b st
  | .dot4E4m3 g d a b => execDot4E4m3 g d a b st
  | .dot4E5m2 g d a b => execDot4E5m2 g d a b st
  | .dot4I8 g d a b => execDot4I8 g d a b st
  | .dot4N8 g d a b => execDot4N8 g d a b st
  | .dot8E2m1 g d a b => execDot8E2m1 g d a b st
  | .dot8I4 g d a b => execDot8I4 g d a b st
  | .dot2F16 g d a b => execDot2F16 g d a b st
  | .dot2Bf16 g d a b => execDot2Bf16 g d a b st
  | .shflIdx g d a b => execShflIdx g d a b st
  | .shflXor g d a b => execShflXor g d a b st
  | .shflUp g d a b => execShflUp g d a b st
  | .shflDn g d a b => execShflDn g d a b st
  | .gred g d a s => execGred g d a s st
  | .gscan g d a s => execGscan g d a s st
  | .vote g d a s => execVote g d a s st
  | .bcast g d a b => execBcast g d a b st
  | .compact g d a => execCompact g d a st
  | .p2v g d s => execP2v g d s st
  | .v2p g a s => execV2p g a s st
  | .icmp g p c a b f => execIcmp g p c a b f st
  | .fcmp g p c a b f => execFcmp g p c a b f st
  | .pand g p q r => execPand g p q r st
  | .por g p q r => execPor g p q r st
  | .pxor g p q r => execPxor g p q r st
  | .pnot g p q => execPnot g p q st
  | .sbra s n => execSbra s n st
  | .loop s n => execLoop s n st
  | .jmpi g d a b => execJmpi g d a b st
  | .mma c a b r z p q i => execMma c a b r z p q i st
  | .pemitSym g a => execPemitSym g a st
  | .pemitOne g a => execPemitOne g a st
  | .pemitTwo g a => execPemitTwo g a st
  | .iaddi g d a i => execIaddi g d a i st
  | .andi g d a i => execAndi g d a i st
  | .ori g d a i => execOri g d a i st
  | .xori g d a i => execXori g d a i st
  | .shli g d a i => execShli g d a i st
  | .shri g d a i => execShri g d a i st
  | .sari g d a i => execSari g d a i st
  | .movi g d i => execMovi g d i st
  | .imuli g d a i => execImuli g d a i st
  | .ld g d a z m => execLd g d a z m st
  | .st g d a z m => execSt g d a z m st
  | .lds g d a z m => execLds g d a z m st
  | .sts g d a z m => execSts g d a z m st
  | .sld g d a z m => execSld g d a z m st
  | .sst g d a z m => execSst g d a z m st
  | .ldt g d a m => execLdt g d a m st
  | .stt g d a m => execStt g d a m st
  | .pf g a m => execPf g a m st
  | .ldx g d a b c => execLdx g d a b c st
  | .stx g d a b c => execStx g d a b c st
  | .hgath g d a b c => execHgath g d a b c st
  | .cpaIn g d a m => execCpaIn g d a m st
  | .cpaOut g d a m => execCpaOut g d a m st
  | .atomAdd g d a b t => execAtomAdd g d a b t st
  | .atomMin g d a b t => execAtomMin g d a b t st
  | .atomMax g d a b t => execAtomMax g d a b t st
  | .atomAnd g d a b => execAtomAnd g d a b st
  | .atomOr g d a b => execAtomOr g d a b st
  | .atomXor g d a b => execAtomXor g d a b st
  | .atomExch g d a b => execAtomExch g d a b st
  | .cas g d a b t => execCas g d a b t st
  | .satom g d a b t => execSatom g d a b t st
  | .bra g n => execBra g n st
  | .call g n => execCall g n st
  | .smovi d i => execSmovi d i st
  | .sadd d a b => execSadd d a b st
  | .ssub d a b => execSsub d a b st
  | .smul d a b => execSmul d a b st
  | .sand d a b => execSand d a b st
  | .sor d a b => execSor d a b st
  | .sxor d a b => execSxor d a b st
  | .sshl d a b => execSshl d a b st
  | .sshr d a b => execSshr d a b st
  | .ssar d a b => execSsar d a b st
  | .sminI32 d a b => execSminI32 d a b st
  | .sminN32 d a b => execSminN32 d a b st
  | .smaxI32 d a b => execSmaxI32 d a b st
  | .smaxN32 d a b => execSmaxN32 d a b st
  | .smov d a => execSmov d a st
  | .ssel d a b => execSsel d a b st
  | .scmpEq d a b => execScmpEq d a b st
  | .scmpNe d a b => execScmpNe d a b st
  | .scmpLt d a b => execScmpLt d a b st
  | .scmpLe d a b => execScmpLe d a b st
  | .scmpGt d a b => execScmpGt d a b st
  | .scmpGe d a b => execScmpGe d a b st
  | .scmpLtn d a b => execScmpLtn d a b st
  | .scmpLen d a b => execScmpLen d a b st
  | .scmpGtn d a b => execScmpGtn d a b st
  | .scmpGen d a b => execScmpGen d a b st
  | .ret => execRet st
  | .exit => execExit st
  | .regang => execRegang st
  | .yield => execYield st
  | .brk => execBrk st
  | .trap c => execTrap c st
  | .rfe => execRfe st
  | .sleep a => execSleep a st
  | .wvalue d a b => execWvalue d a b st
  | .fenceAcq a => execFenceAcq a st
  | .fenceRel a => execFenceRel a st
  | .fenceAr a => execFenceAr a st
  | .fenceNs a => execFenceNs a st
  | .wpred => execWpred st
  | .succ => execSucc st
  | .drain => execDrain st
  | .wcnt a b => execWcnt a b st
  | .tbar => execTbar st
  | .cbar => execCbar st
  | .gsync => execGsync st
  | .bini a b => execBini a b st
  | .barr a b => execBarr a b st
  | .bexp a b => execBexp a b st
  | .bwait a b => execBwait a b st
  | .stmap d a b => execStmap d a b st
  | .stunmap a => execStunmap a st
  | .stflush a => execStflush a st
  | .cflush a b => execCflush a b st
  | .cinv a b => execCinv a b st
  | .mfence d => execMfence d st
  | .mwait a => execMwait a st
  | .mcjoin d a => execMcjoin d a st
  | .mcleave a => execMcleave a st
  | .mcload a b => execMcload a b st
  | .mcrel a b => execMcrel a b st
  | .bcopy a => execBcopy a st
  | .bfill a => execBfill a st
  | .cring a b => execCring a b st
  | .plaunch d a => execPlaunch d a st
  | .pfin a => execPfin a st
  | .pread d a b => execPread d a b st
  | .tspawn a => execTspawn a st
  | .tchk => execTchk st
  | .imprv d a b => execImprv d a b st
  | .incrd d b => execIncrd d b st
  | .launch a => execLaunch a st
  | .claunch a => execClaunch a st
  | .mfsr d r => execMfsr d r st
  | .mtsr d r => execMtsr d r st
  | .mtsrGflags d => execMtsrGflags d st
  | .mtsrParty d => execMtsrParty d st
  | .mtsrGtcmp d => execMtsrGtcmp d st
  | .mtsrGtcmph d => execMtsrGtcmph d st
  | .mtsrIncctl d n => execMtsrIncctl d n st
  | .kteam => execKteam st
  | .tlbinv a b => execTlbinv a b st
  | .sevent c => execSevent c st
  | _ => .next st

/-- The word that a slot executes: the word decoded, its offset applied, and whether a zero field of it is not zero. -/
def slotWord (off : Nat) (w : Word) : Option (Instr × Bool) :=
  match decode w with
  | .ok i => some (mapCodes (offCode off) i, false)
  | .error (.reservedBits i) => some (i, true)
  | .error .illegal => none

/-- The entry of a slot runs: its own fetch fault first, then ILLEGAL, DICT for a D or H word, HINT_SEQ for any pending hint,
RESERVED_BITS, and the rest of the word's checks and its effect (R59, R64, R66, R68, R334). The ILLEGAL of a word of the courier alone is one
of the rest (log 22). -/
def Iss.slot (x : Iss) (s : State) (p : DictPlace) (idx off : Nat) (more : Bool) : Host.Outcome State Fault Refusal :=
  match Tab.find p.bad idx with
  | some c => .next (x.raise s c 0 (p.addr + BitVec.ofNat 64 (4 * idx)))
  | none => match slotWord off (p.words.getD idx 0) with
    | none => .next (x.raise s .illegal)
    | some (i, bad) =>
      if (Sys2Proof.Machine.form i).fmt = .H || (Sys2Proof.Machine.form i).fmt = .D then .next (x.raise s .dict)
      else if x.g.hints.pend ≠ 0 then .next (x.raise s .hintSeq)
      else if bad then .next (x.raise s .reservedBits)
      else runSlot i (s.modGrp x.t x.k fun g => { g with inSlot := more })

/-- `dict` (R66): slot A at the word's PC, slot B at PC + 2; DICT without a dictionary or in a handler (R271, R376), after HINT_SEQ
for a hint before a D word (R59, R64); it waits while the team's dictionary is not loaded. -/
def execDict (a : BitVec 10) (o : BitVec 3) (b : BitVec 10) (y : BitVec 3) (s : State) : Host.Outcome State Fault Refusal :=
  if !s.hasAgent then .fault .noAgent
  else match s.stand (form (.dict a o b y)) with
    | .error s => .next s
    | .ok x => match x.who with
      | .courier _ => .next (x.raise s .illegal)
      | .grp _ _ =>
        let second := x.pc.getLsbD 1
        if second && b = 1023 then .next (x.raise s .align)
        else if x.T.kobj.dict = 0 || x.g.frame.isSome then .next (x.raise s (if x.g.hints.pend ≠ 0 then .hintSeq else .dict))
        else match (s.core x.core).dicts.find? fun p => p.ctx = x.ctx && p.addr = x.T.kobj.dict with
          | none => .next (x.hold s)
          | some p => if second then x.slot s p b.toNat y.toNat false else x.slot s p a.toNat o.toNat (b ≠ 1023)

/-- The fault of a word that is no well-formed instruction (Table 03-19): ILLEGAL where the word is unassigned or outside the
courier's subset, HINT_SEQ where pending hints do not fit it, else RESERVED_BITS. A word of the courier alone that a group meets with a zero field
not zero is taken as RESERVED_BITS, and as ILLEGAL with its zero fields zero (log 22). -/
def rejected (w : Word) (courier : Bool) (h : Hints) : FCode :=
  match decode w with
  | .error (.reservedBits i) => if courier && !(form i).courier then .illegal else if hintBad h (form i) then .hintSeq else .reservedBits
  | _ => .illegal

/-- The form that a word which is no well-formed instruction has all the same: that of its encoding, where only a zero field breaks
it (R65). -/
def rejectedForm (w : Word) : Form :=
  match decode w with
  | .error (.reservedBits i) => form i
  | _ => { fmt := .S }

/-- UNASSIGNED_ENCODING (R59, R60): a word that is no well-formed instruction issues, and raises its fault. -/
def execUnassignedEncoding (w : Word) (s : State) : Host.Outcome State Fault Refusal :=
  if !s.hasAgent then .fault .noAgent
  else match s.stand { fmt := .S } with
    | .error s => .next s
    | .ok x => .next (({ x with form := rejectedForm w } : Iss).raise s (rejected w x.onCourier x.g.hints))

end Sys2Proof.Machine
end

