-- ==== Sys2Proof/Machine/Fetch.lean ====
section
/-! DEFINITION. Instruction fetch (R50, R295): the word at a PC, read with execute permission through the pod's instruction
cache, and the instruction that the current agent issues next. -/

namespace Sys2Proof.Machine

/-- The physical address of the word at an address, with X permission at both stages (R50, R320). -/
def State.codePa (s : State) (core ctx a : Nat) : Except FCode Nat :=
  if !vaOk a then .error .address
  else match s.trans core ctx .x a with
    | .error f => .error f
    | .ok t => .ok t.pa

/-- The word at a physical address, little-endian (R1). -/
def State.codeWord (s : State) (pa : Nat) : Word := BitVec.ofNat 32 (leNat (s.cohRead pa 4))

/-- The instruction that a word stands for; a word that is none is fetched as it is (R59, R60). -/
def fetched (w : Word) : Instr :=
  match decode w with
  | .ok i => i
  | .error _ => .unassignedEncoding w

/-- The word names a slot B that is not empty (R50, R66). -/
def hasSlotB : Instr → Bool
  | .dict _ _ b _ => b ≠ 1023
  | _ => false

/-- A block of code is in a pod's instruction cache. -/
def State.icached (s : State) (pod pa : Nat) : Bool := (Tab.get [] s.icache pod).contains (lineOf pa)

/-- The next instruction of a courier (R239, R320). -/
def State.fetchCourier (s : State) (c : Nat) (y : Courier) : Except State Instr :=
  if y.stopped then .error s
  else if y.cpc.toNat % 4 ≠ 0 then .error (s.faultCourier c .align y.cpc 0 0)
  else if !s.vaReady c y.ctx .x y.cpc.toNat 4 then .error s
  else match s.codePa c y.ctx y.cpc.toNat with
    | .error f => .error (s.faultCourier c f y.cpc 0 0)
    | .ok pa => .ok (fetched (s.codeWord pa))

/-- The next instruction of a group that stands before its next word: ALIGN for a PC that names no instruction, the fetch's
faults, and an instruction-cache miss, which freezes the group and counts a slip (R50, R59, R295); nothing while the code or its tables lie
on a stack that is not ready (R402). -/
def Iss.fetch (x : Iss) (s : State) : Except State Instr :=
  let pc := x.pc.toNat
  if pc % 2 = 1 then .error (x.raise s .align)
  else if !s.vaReady x.core x.ctx .x (pc / 4 * 4) 4 then .error (x.hold s)
  else match s.codePa x.core x.ctx (pc / 4 * 4) with
    | .error f => .error (x.raise s f)
    | .ok pa =>
      if !s.icached (podOf x.core) pa then
        .error ((s.countEvent x.ctx 0x000).modGrp x.t x.k fun g => { g with frozen := true })
      else
        let i := fetched (s.codeWord pa)
        if pc % 4 = 2 && !hasSlotB i then .error (x.raise s .align) else .ok i

/-- A group is ready (R293): not waiting, not frozen, and the next word of its fragment free on the scoreboard, or with a fault
or a miss to take. -/
def State.readyGrp (s : State) (t k : Nat) (g : Grp) : Bool :=
  g.canIssue && (match g.choose with | some pc => !g.waitsAt pc | none => false) &&
  match ({ s with cur := .grp t k } : State).stand { fmt := .S } with
  | .error _ => true
  | .ok x => (x.pc.toNat % 2 = 1 || s.vaReady x.core x.ctx .x (x.pc.toNat / 4 * 4) 4) && match x.fetch s with
    | .error _ => true
    | .ok i => !({ x with form := form i } : Iss).interlocked s (form i)

/-- The first of the groups to which a group has given way that is ready and has not issued since (R107). -/
def State.owedTurn (s : State) (g : Grp) : Option Agent :=
  (g.gave.find? fun (u, j, n) => (s.grp u j).any fun h => h.issues = n && s.readyGrp u j h).map fun e => .grp e.1 e.2.1

/-- The agent that takes a turn: a group that has given way lets a group go first that is ready and still owed its issue, which
may have given way in its turn; `n` bounds the hand-overs. -/
def State.givenN (s : State) : Nat → Agent → Agent
  | 0, a => a
  | n + 1, .grp t k => match (s.grp t k).bind s.owedTurn with
    | some a => s.givenN n a
    | none => .grp t k
  | _ + 1, .courier c => .courier c

/-- The hand-overs among the groups of a core, of which there are at most 16 per residency slot. -/
def State.given (s : State) (a : Agent) : Agent := s.givenN (16 * s.teams.length) a

/-- The agent whose turn it is runs: a group that is not halted, faulted, ended or frozen, or a courier that has not stopped. -/
def State.able (s : State) : Bool :=
  match s.cur with
  | .grp t k => (s.grp t k).any Grp.canIssue
  | .courier c => (s.core c).courier.any fun y => !y.stopped

/-- An agent takes its turn, a group for the fragment that waits at a PC; a `yield` hands the turn on (R107). -/
def State.turn (s : State) (a : Agent) (pc : Option DWord) : State :=
  let b := s.given a
  let s := { s with cur := b }
  match a, pc with
  | .grp t k, some pc => if b ≠ a then s else s.modGrp t k fun g => if g.waitsAt pc && g.hintPc.isNone then { g with hintPc := some pc } else g
  | _, _ => s

/-- A device, host or management event: what may stand in the agenda beside the turns of agents. -/
def isEvent (i : Instr) : Bool :=
  match i with
  | .unassignedEncoding _ => false
  | i => (form i).fmt = .event

/-- The instruction that the current agent issues now, or the state in which the step ends without one. -/
def State.fetch (s : State) : Except State Instr :=
  match s.cur with
  | .courier c => match (s.core c).courier with
    | none => .error s
    | some y => s.fetchCourier c y
  | .grp _ _ => match s.stand { fmt := .S } with
    | .error s => .error s
    | .ok x => x.fetch s

end Sys2Proof.Machine
end

