-- ==== Sys2Proof/Machine/Boot.lean ====
section
/-! DEFINITION. Placing a word where the next step fetches it: at the PC of the agent whose turn it is, or at the entry of a team
that is put on core 0 for it. From reset a program comes to run only by the host's commands and a launch (log 30); this stands
for them. -/

namespace Sys2Proof.Machine

/-- Page of code of the team that is put in place: its virtual and physical address. -/
def bootPage : Nat := 4096

/-- The cached translation of that page. -/
def bootTlb : TlbEntry :=
  { ctx := 0, base := bootPage, size := 4096, pa := bootPage, r := true, w := true, x := true, r2 := true, w2 := true, x2 := true, leaf := 0, d := true, ipa := bootPage, lsz := 4096 }

/-- A context 0 on core 0 with that page of code, every HBM stack ready. -/
def State.bootCtx (s : State) (k : Core → Core) : State :=
  let s := { s with ready := s.ready ||| BitVec.ofNat 64 (255 * 2 ^ 28), mapChange := [] }
  let s := s.modCtx 0 fun x => { x with live := true, priv := true, resident := true, gap := s.gtime }
  s.modCore 0 fun c => k { c with ctx := some 0, since := s.gtime, tlb := [bootTlb], pre := false }

/-- A team of one group with every lane at the page's first word. -/
def bootTeam : Team :=
  let k : KObj := { entry := BitVec.ofNat 64 bootPage, regs := 96 }
  { lid := 1, kobj := k, groups := teamGroups k { gridx := 1, gridy := 1, gridz := 1 } }

/-- The team on core 0, its turn next. -/
def State.bootGroup (s : State) : State :=
  let s := s.bootCtx fun c => { c with slots := [(0, s.nextUid)] }
  { s with teams := Tab.put s.teams s.nextUid bootTeam, nextUid := s.nextUid + 1, cur := .grp s.nextUid 0 }

/-- A courier on core 0 instead, for the words that only a courier executes (R71). -/
def State.bootCourier (s : State) : State :=
  { s.bootCtx fun c => { c with courier := some { ctx := 0, num := 0, cpc := BitVec.ofNat 64 bootPage } } with cur := .courier 0 }

/-- The words of R71 that only a courier executes. -/
def courierOnly (w : Word) : Bool :=
  match decode w with
  | .ok (.bcopy _) | .ok (.bfill _) | .ok (.cring _ _) => true
  | _ => false

/-- Where the agent whose turn it is fetches its next word, if it stands before one: the core's pod and the PA. -/
def State.fetchPlace (s : State) : Option (Option Nat × Nat) :=
  match s.stand { fmt := .S } with
  | .error _ => none
  | .ok x =>
    if x.pc.toNat % 4 ≠ 0 || !s.vaReady x.core x.ctx .x (x.pc.toNat / 4 * 4) 4 then none
    else match s.codePa x.core x.ctx x.pc.toNat, x.who with
      | .ok pa, .grp _ _ => some (some (podOf x.core), pa)
      | .ok pa, .courier _ => some (none, pa)
      | .error _, _ => none

/-- A state with an agent of the right kind before a word that it can fetch. -/
def State.readied (s : State) (courier : Bool) : State :=
  let mine := match s.cur with | .courier _ => true | .grp _ _ => false
  if s.able && s.fetchPlace.isSome && mine = courier then s else if courier then s.bootCourier else s.bootGroup

/-- A word written at the place, and its block in the pod's instruction cache. -/
def State.placeWord (s : State) (w : Word) : State :=
  match s.fetchPlace with
  | none => s
  | some (pod, pa) =>
    let s := s.putLine pa (wordBytes w)
    match pod with
    | some p => s.icacheAdd p (lineOf pa)
    | none => s

end Sys2Proof.Machine
end

