-- ==== Sys2Proof/Machine/Sched.lean ====
section
/-! DEFINITION. Events of groups and cores between instructions: regang releases (R102), sibling halts and handler entry (R372,
R377), timers, watchdogs and sleeps (R229, R343, R164), fence completion (R158), counter adds (R346), the throttle (R294), ticks
(R245) and core cycles (R244, R293). -/

namespace Sys2Proof.Machine

/-! ## Regang releases (R102 step 3) -/

/-- Where the lanes parked at an address go on: slot B of a D word whose slot B is not empty, else the next word. -/
def State.afterRegang (s : State) (core ctx : Nat) (a : DWord) : DWord :=
  let n := a.toNat
  let slotB := decide (n % 4 = 0) && match s.codePa core ctx n with
    | .ok pa => hasSlotB (fetched (s.codeWord pa))
    | .error _ => false
  if slotB then a + 2 else BitVec.ofNat 64 (n - n % 4 + 4)

/-- A quad's entry at an address becomes its path. -/
def Quad.unpark (q : Quad) (a next : DWord) : Quad :=
  match q.park.find? fun p => p.pc = a with
  | some p => { q with path := some { pc := next, mask := p.mask }, park := q.park.filter fun e => e.pc ≠ a, age := 0 }
  | none => q

/-- The release of the lowest park address of a group in which no quad is runnable. -/
def State.regangRelease (s : State) (t k : Nat) : State :=
  match s.team t with
  | none => s
  | some T => match Tab.find T.groups k with
    | none => s
    | some g =>
      if g.run ≠ .running || !g.runnable.isEmpty then s
      else match lowest (g.quads.flatMap fun e => e.2.park.map Path.pc) with
        | none => s
        | some a =>
          let next := s.afterRegang T.core T.ctx a
          s.modGrp t k fun g => { g with quads := g.quads.map fun (n, q) => (n, q.unpark a next) }

/-- REGANG_RELEASE (R102). -/
def execRegangRelease (team gint : Nat) (s : State) : Host.Outcome State Fault Refusal := event (s.regangRelease team gint)

/-! ## Halts and the handler -/

/-- SIBLING_HALT (R372): the halt reaches a group, which stops at this instruction boundary, its skid counted. -/
def execSiblingHalt (team gint : Nat) (s : State) : Host.Outcome State Fault Refusal :=
  event (match s.grp team gint with
    | some g => if g.run = .running && g.halting.isSome then s.modGrp team gint Grp.halt else s
    | none => s)

/-- HANDLER_ENTRY (R377): once every group of the team has stopped, the primary one enters the handler. -/
def execHandlerEntry (team : Nat) (s : State) : Host.Outcome State Fault Refusal :=
  event (match s.team team with
    | some T => if T.groups.all fun e => e.2.run ≠ .running then s.enterHandler team else s
    | none => s)

/-! ## Timers -/

/-- GROUP_TIMER_FIRE (R229): a due timer is raised at the group's issue opportunity, or ends the wait that the group is in. -/
def execGroupTimerFire (team gint : Nat) (s : State) : Host.Outcome State Fault Refusal :=
  event (match s.team team with
    | none => s
    | some T => match Tab.find T.groups gint with
      | none => s
      | some g =>
        if g.gtcmp ≠ 0 && decide (g.gtcmp.toNat ≤ s.ctime T.ctx T.core) then
          match ({ s with cur := .grp team gint } : State).stand { fmt := .S } with
          | .error s' => { s' with cur := s.cur }
          | .ok _ => s
        else s)

/-- WATCHDOG_EXPIRY (R343): a wait longer than its limit ends in WATCHDOG, unless a TIMER is due too. -/
def execWatchdogExpiry (team gint : Nat) (s : State) : Host.Outcome State Fault Refusal :=
  event (match s.team team with
    | none => s
    | some T => match Tab.find T.groups gint with
      | none => s
      | some g =>
        let now := s.ctime T.ctx T.core
        let due := g.gtcmp ≠ 0 && decide (g.gtcmp.toNat ≤ now)
        match g.waits.find? fun w => w.timed && decide (1024 * max (s.ctx T.ctx).wdog 1 < now - w.start) with
        | none => s
        | some w =>
          if due || g.run ≠ .running then s
          else s.raiseAll team gint w.pc (g.quadsAt w.pc) .watchdog (BitVec.ofNat 32 (min 0xFFFFFFFF (now - w.start))))

/-- SLEEP_EXPIRY (R164): a `sleep` whose ticks have passed is over, and its agent goes on. -/
def execSleepExpiry (who : Agent) (s : State) : Host.Outcome State Fault Refusal :=
  event (match who with
    | .grp t k => match s.team t with
      | none => s
      | some T => match (Tab.find T.groups k).bind fun g => g.waits.find? fun w => w.till.any fun n => decide (n ≤ s.ctime T.ctx T.core) with
        | none => s
        | some w => s.modGrp t k fun g => { g.release w with last := (s.core T.core).cyc }
    | .courier c => match (s.core c).courier with
      | none => s
      | some y => match y.wait with
        | some w =>
          if !y.stopped && w.till.any fun n => decide (n ≤ s.ctime y.ctx c) then
            s.modCore c fun k => { k with courier := some { y with cpc := w.next, wait := none, last := s.gtime } }
          else s
        | none => s)

/-- Loads stand behind a fence that lets them execute early (R159). -/
def Fence.early (f : Fence) : Bool := (f.kind = .acq || f.kind = .ar) && f.scope ≠ 0 && f.tried

/-- FENCE_COMPLETE (R158): the agent's first fence whose conditions hold completes. Where a load stands behind it that R159 lets execute
early, a choice other than 0 says that one had done so and failed the test: the results discarded leave nothing but the count of the
rollback (log 18). -/
def execFenceComplete (who : Agent) (s : State) : Host.Outcome State Fault Refusal :=
  event (match who with
    | .grp t k => match s.team t with
      | none => s
      | some T => match Tab.find T.groups k with
        | none => s
        | some g =>
          let done := g.fences.find? (s.fenceDone (.grp t k))
          let s := if s.pick ≠ 0 && done.any Fence.early then s.countEvent T.ctx 0x008 else s
          s.modGrp t k fun g => { g with fences := s.fencesLeft (.grp t k) g.fences }
    | .courier c => s.modCore c fun k => { k with courier := k.courier.map fun (y : Courier) => { y with fences := s.fencesLeft (.courier c) y.fences } })

/-! ## Event counters (R345, R346) -/

/-- One event added at its counter's home, whose window owner is recalled first; an `sevent` writes its tag and time with it. -/
def State.applyCount (s : State) (a : CountAdd) : State :=
  let base := (s.ctx a.ctx).cntblk.toNat
  if base = 0 then s
  else
    let pa := base + a.off
    let s := s.recall (lineOf pa)
    let n := (leNat (s.cohRead pa 8) + 1) % 2 ^ 64
    s.cohWrite pa (leBytes 8 n ++ match a.tag with
      | some (tag, time) => leBytes 4 tag.toNat ++ leBytes 4 time.toNat
      | none => [])

/-- The line of an event's counter can be written now, behind every write that reached it before (R34, R266, R325, R402). -/
def State.countReady (s : State) (a : CountAdd) : Bool :=
  let pa := (s.ctx a.ctx).cntblk.toNat + a.off
  (s.ctx a.ctx).cntblk = 0 || (s.takes pa && !s.lineHeld (lineOf pa) && !s.anyHeld (lineOf pa) && s.settledAt pa 16)

/-- EVENT_COUNTER_ADD (R346): event `k` on its way is added, where its line can be written now. -/
def execEventCounterAdd (k : Nat) (s : State) : Host.Outcome State Fault Refusal :=
  event (match s.counts[k]? with
    | none => s
    | some a =>
      if s.countReady a then ({ s with counts := s.counts.eraseIdx k } : State).applyCount a else s)

/-! ## The throttle (R294) -/

/-- The scores of a team's groups halved, rounding down. -/
def Team.halve (T : Team) : Team := { T with groups := T.groups.map fun (j, g) => (j, { g with score := g.score / 2 }) }

/-- THROTTLE_SCORE_HALVE (R294): at each 4,096th core cycle every score of the core halves, and the throttle disengages below half
its threshold. -/
def execThrottleScoreHalve (core : Nat) (s : State) : Host.Outcome State Fault Refusal :=
  event (if (s.core core).cyc < 4096 * ((s.core core).halvings + 1) then s
    else
      let s := { s with teams := s.teams.map fun (e : Nat × Team) => (e.1, if e.2.core = core then e.2.halve else e.2) }
      (s.modCore core fun k => { k with halvings := k.halvings + 1 }).throttleEase core)

/-- A group ranks behind another in the order of R294: a lower score, or the same one and a later slot or GINT. -/
def State.ranksBehind (s : State) (a b : Nat × Nat) : Bool :=
  let score := fun (e : Nat × Nat) => ((s.grp e.1 e.2).map Grp.score).getD 0
  let slot := fun (e : Nat × Nat) => ((s.team e.1).map Team.slot).getD 0
  decide (score a < score b) || (decide (score a = score b) && (decide (slot b < slot a) || (decide (slot a = slot b) && decide (b.2 < a.2))))

/-- The group of lowest score among those listed, the last in the order of R294. -/
def State.lowestScore (s : State) (l : List (Nat × Nat)) : Option (Nat × Nat) :=
  l.foldl (fun b e => match b with
    | none => some e
    | some c => if s.ranksBehind e c then some e else b) none

/-- The groups of a core that an engaged throttle admits (R294). -/
def State.admittedOn (s : State) (core : Nat) : List (Nat × Nat) :=
  s.teams.flatMap fun (u, T) => if T.core = core then (T.groups.map fun e => (u, e.1)).filter fun e => s.admits core e.1 e.2 else []

/-- THROTTLE_STARVATION_ADMIT (R294): a group that has held a ready memory word for 65,536 core cycles without admission takes the
place of the admitted group of lowest score: it counts among the NMEM from now on, and of the others the one that ranks last gives its place
up, whether it stood there by its score or was so admitted itself. -/
def execThrottleStarvationAdmit (team gint : Nat) (s : State) : Host.Outcome State Fault Refusal :=
  event (match s.team team with
    | none => s
    | some T => match Tab.find T.groups gint with
      | none => s
      | some g =>
        let k := s.core T.core
        if k.thr && !s.admits T.core team gint && g.denied.any fun n => decide (65536 ≤ k.cyc - n) then
          let live := k.admitted.filter fun e => (s.grp e.1 e.2).isSome
          let kept := match s.lowestScore (s.admittedOn T.core) with
            | some e => live.erase e
            | none => live
          s.modCore T.core fun k => { k with admitted := kept ++ [(team, gint)] }
        else s)

/-! ## Ticks and cycles -/

/-- Broadcasts that every shadow must hold by now (R249), oldest first. -/
def State.takeDue (s : State) : State :=
  s.broadcasts.foldl (fun s (pod, l) => (l.filter fun b => decide (b.2.2 + 256 ≤ s.gtime)).foldl (fun s b => s.takeBroadcast pod b.1) s) s

/-- Counter adds that must be performed by now, each where its line can be written (R346). -/
def State.addDue (s : State) : State :=
  (s.counts.filter fun a => decide (a.at_ + 65536 ≤ s.gtime)).foldl (fun s a =>
    if s.countReady a then ({ s with counts := s.counts.erase a } : State).applyCount a else s) s

/-- Acknowledgements of host and peer writes whose time has come (R365, R366). -/
def State.ackDue (s : State) : State :=
  { s with acks := s.acks.filter fun a => decide (s.gtime < a.wct), acked := s.acked ++ s.acks.filter fun a => decide (a.wct ≤ s.gtime) }

/-- Completion records of a context that are complete at system scope. -/
def State.recordsDone (s : State) (c : Nat) : Nat :=
  (s.ctx c).completions - (s.posted.filter fun p => p.src = .done c).length - (!s.srcReady (.done c)).toNat

/-- The condition of an interrupt source (Table 17-2): a ring's by the PROD that stands in memory, which follows its entry, and the
completions' by the records that are complete. -/
def State.irqCond (s : State) (m : Msix) : Bool :=
  match m.source with
  | 1 => s.ring.set && leNat (s.cohRead s.ring.base 8) ≠ leNat (s.cohRead (s.ring.base + 8) 8)
  | 2 => s.mgmt.done ≠ m.seen
  | 3 => let x := s.ctx m.ctx
    x.dlthr ≠ 0 && decide (x.dlthr ≤ leNat (s.cohRead x.dlogb.toNat 8) - leNat (s.cohRead (x.dlogb.toNat + 8) 8))
  | 4 => s.recordsDone m.ctx ≠ m.seen
  | 5 => s.readyEvents ≠ m.seen
  | 6 => s.powerEvents ≠ m.seen
  | _ => false

/-- A vector sends where its condition has become true and no message waits for its acknowledgement (R393). -/
def State.irqStep (s : State) (m : Msix) : Msix :=
  let c := s.irqCond m
  if c && !m.cond && !m.waiting then { m with cond := c, waiting := true, sent := m.sent + 1 } else { m with cond := c }

/-- Every bound vector looked at. -/
def State.irqScan (s : State) : State := { s with msix := s.msix.map fun (v, m) => (v, s.irqStep m) }

/-- The copies of the dies at a tick: those of the dies listed stay, unless they are 2 ticks behind already; the others show the
source's time (R340). -/
def State.nextLags (s : State) (behind : BitVec 4) : Tab Nat :=
  (List.range 4).foldl (fun t d => Tab.set 0 t d (if behind.getLsbD d then min 2 (Tab.get 0 s.lags d + 1) else 0)) []

/-- One tick passes; what must have happened by now happens, and what waited for it is tried again (R245, R249, R346, R365, R392, R393). -/
def State.tick (s : State) (behind : BitVec 4) : State :=
  ((((((({ s with gtime := s.gtime + 1, lags := s.nextLags behind } : State).takeDue).addDue).tailsDue).pump).settleEnds).ackDue).irqScan

/-- GTIME_TICK (R245, R340): the choice names the dies whose copies stay behind (log 60). -/
def execGtimeTick (s : State) : Host.Outcome State Fault Refusal := event (s.tick s.pick)

/-- The better of two candidates of a port: the last issue further back, then the lower slot, then the lower GINT. -/
def portBefore (a b : Nat × Nat × Nat × Nat) : Bool :=
  decide (a.1 < b.1) || (decide (a.1 = b.1) && (decide (a.2.1 < b.2.1) || (decide (a.2.1 = b.2.1) && decide (a.2.2.2 ≤ b.2.2.2))))

/-- The first in the order of the ports. -/
def portPick : List (Nat × Nat × Nat × Nat) → Option (Nat × Nat × Nat × Nat)
  | [] => none
  | a :: t => match portPick t with
    | none => some a
    | some b => some (if portBefore a b then a else b)

/-- The ready groups of a core that have given way to no other that is owed its issue: last issue, slot, team and GINT (R107,
R293). -/
def State.readyOn (s : State) (core : Nat) : List (Nat × Nat × Nat × Nat) :=
  s.teams.flatMap fun (u, T) => if T.core = core then T.groups.filterMap fun (j, g) =>
    if s.readyGrp u j g && (s.owedTurn g).isNone then some (g.last, T.slot, u, j) else none else []

/-- CORE_CYCLE (R244, R293, R342): CYC and the CCYC of the core's teams advance, and the two ports choose the groups that issue
next; of two groups of one team the lower GINT goes first, so that its fault of this cycle is the primary one (R373). -/
def execCoreCycle (core : Nat) (s : State) : Host.Outcome State Fault Refusal :=
  let s := if core < Config.cores then s.modCore core fun k => { k with cyc := k.cyc + 1 } else s
  let s := { s with teams := s.teams.map fun (e : Nat × Team) => (e.1, if e.2.core = core then { e.2 with ccyc := e.2.ccyc + 1 } else e.2) }
  let l := s.readyOn core
  event (match portPick l with
    | none => s
    | some a =>
      let one := [Move.issue (.grp a.2.2.1 a.2.2.2)]
      let both := match portPick (l.filter (· ≠ a)) with
        | some b => if a.2.2.1 = b.2.2.1 && decide (b.2.2.2 < a.2.2.2) then Move.issue (.grp b.2.2.1 b.2.2.2) :: one else one ++ [Move.issue (.grp b.2.2.1 b.2.2.2)]
        | none => one
      { s with agenda := both ++ s.agenda })

end Sys2Proof.Machine
end

