-- ==== Sys2Proof/Machine/Time.lean ====
section
/-! DEFINITION. Time sync (R397), the clock and link loops and the telemetry that shows them (R403). -/

namespace Sys2Proof.Machine

/-- TIME_SYNC_ADJUST (R397): the rate of GTIME, by at most 200 parts per million; never its value, and never the time source's. -/
def execTimeSyncAdjust (ppm : Int) (s : State) : Host.Outcome State Fault Refusal :=
  event (if s.timeSource || 200 < ppm.natAbs then s else { s with ppm := ppm })

/-- CLOCK_ADAPT (R403): the clock of one core. The first lowering in an interval of 2^20 ticks counts it as one of the cap intervals in which
clocks were lowered (log 31). -/
def execClockAdapt (core mhz : Nat) (s : State) : Host.Outcome State Fault Refusal :=
  event (if Config.cores ≤ core || mhz = 0 then s
    else
      let n := s.gtime / 2 ^ 20
      let t := s.modCore core fun k => { k with mhz := mhz }
      if (s.core core).mhz ≤ mhz || s.capLast = some n then t else { t with capIntervals := s.capIntervals + 1, capLast := some n })

/-- Byte `i` of a telemetry page as last updated. -/
def State.pageByte (s : State) (page i : Nat) : Byte := Tab.get 0 s.telemetry (256 * page + i)

/-- The bytes of a telemetry page (R405): the settings and the failed self-test mask of page 0 are the state's own, its bytes from 0x150 on are 0,
and the rest is what the page was last updated to. -/
def State.page (s : State) (page : Nat) : List Byte :=
  if page = 0 then
    setField (setField (setField (setField ((List.range 80).map (s.pageByte 0) ++ zeros 176) 8 4 s.powerCap) 16 4 s.powerLimit) 20 4 s.tempLimit) 24 8 s.failed.toNat
  else (List.range 256).map (s.pageByte page)

/-- A signed 4-byte value of page 0. -/
def State.signedAt (s : State) (off : Nat) : Int := (BitVec.ofNat 32 (leNat ((List.range 4).map fun i => s.pageByte 0 (off + i)))).toInt

/-- A telemetry limit that is set is passed (R403): the package power above the power limit, or a temperature of a die or a stack above the
temperature limit. A limit of 0 is not set (log 31). -/
def State.overLimit (s : State) : Bool :=
  (s.powerLimit ≠ 0 && decide (s.powerLimit < leNat ((List.range 4).map (s.pageByte 0)))) ||
  (s.tempLimit ≠ 0 && (List.range 12).any fun k => decide ((BitVec.ofNat 32 s.tempLimit).toInt < s.signedAt (32 + 4 * k)))

/-- A limit that is no longer passed may be crossed again. -/
def State.cooled (s : State) : State := { s with crossed := s.crossed && s.overLimit }

/-- The values of a page as the device has them now: the count of cap intervals of page 0 and the ports' lanes of page 4 are the state's own,
the rest is measured. -/
def State.measured (s : State) (page : Nat) (data : List Byte) : List Byte :=
  if page = 0 then setField ((data ++ zeros 256).take 256) 12 4 s.capIntervals
  else if page ≤ 3 then data.take 256
  else (List.range 16).flatMap fun p => ((List.range 8).map fun l => Tab.get 0 s.margins (8 * p + l)) ++ leBytes 4 (Tab.get 0 s.retrained p) ++ zeros 4

/-- TELEMETRY_UPDATE (R403): every 2^20 ticks, the values of a page as the device has them then. -/
def execTelemetryUpdate (page : Nat) (data : List Byte) (s : State) : Host.Outcome State Fault Refusal :=
  event (if 4 < page ∨ s.gtime % 2 ^ 20 ≠ 0 then s else ({ s with telemetry := writeBytes s.telemetry (256 * page) (s.measured page data) } : State).cooled)

/-- POWER_LIMIT_CROSSED (R403, R393): a limit is passed that was not: the power interrupt's event. -/
def execPowerLimitCrossed (s : State) : Host.Outcome State Fault Refusal :=
  event (if s.overLimit && !s.crossed then { s with powerEvents := s.powerEvents + 1, crossed := true } else s)

/-- LANE_RETRAIN (R403): a lane's margin after its retraining, counted at its port. -/
def execLaneRetrain (port lane : Nat) (margin : Byte) (s : State) : Host.Outcome State Fault Refusal :=
  event (if 16 ≤ port ∨ 8 ≤ lane then s
    else { s with margins := Tab.set 0 s.margins (8 * port + lane) margin, retrained := Tab.put s.retrained port (Tab.get 0 s.retrained port + 1) })

end Sys2Proof.Machine
end

