-- ==== Sys2Proof/Machine/Host.lean ====
section
/-! DEFINITION. The host and the peers as agents (R254, R255, R365, R366, R392) and the links to them (R245, R395 to R397). -/

namespace Sys2Proof.Machine

/-! ## Accesses from outside -/

/-- A write from outside can be performed at the line's home now: nothing holds the line, and the home takes requests. A read needs only
that (R265, R266). -/
def State.openHome (s : State) (pa : Nat) : Bool := !s.lineHeld (lineOf pa) && !s.anyHeld (lineOf pa) && s.takes pa

/-- Every line of a range is open. -/
def State.openRange (s : State) (pa n : Nat) : Bool :=
  (List.range ((pa + n - 1) / 128 + 1 - pa / 128)).all fun i => s.openHome ((pa / 128 + i) * 128)

/-- A write of another agent to a line with drained records marks their launches (R155). -/
def State.foreignLine (s : State) (ln : Nat) : State :=
  (s.hamper.filter fun r => r.loc = .home && lineOf r.pa = ln).foldl (fun s r => s.modLaunch r.ctx r.lid fun l => { l with foreign := true }) s

/-- A line made ready for a write from outside: a window that owns it is recalled (R365). -/
def State.claimLine (s : State) (ln : Nat) : State := (s.foreignLine ln).recall ln

/-- A write from outside inside one line, with the acknowledgement that waits for its completion time. -/
def State.outsideLine (s : State) (peer : Option Nat) (pa : Nat) (bs : List Byte) : State :=
  let s := s.claimLine (lineOf pa)
  let wct := s.wctFor (lineOf pa) (dieOf ioCore)
  let s := s.cohWriteLine pa bs
  { s with acks := s.acks ++ [{ peer := peer, wct := wct }] }

/-- A write from outside, line by line. -/
def State.outsideWrite (s : State) (peer : Option Nat) (pa : Nat) (bs : List Byte) : Nat → State
  | 0 => s
  | fuel + 1 =>
    if bs.isEmpty then s
    else
      let n := 128 - pa % 128
      (s.outsideLine peer pa (bs.take n)).outsideWrite peer (pa + n) (bs.drop n) fuel

/-- Poisoned sectors of a range at their homes. -/
def State.poisonIn (s : State) (pa n : Nat) : List Nat := s.poison.filter fun x => decide (pa / 64 ≤ x) && decide (x ≤ (pa + n - 1) / 64)

/-- A read from outside: the home's copy, whatever a window holds (R160, R365), marked where a sector is poisoned. -/
def State.outsideRead (s : State) (peer : Option Nat) (pa n : Nat) : State :=
  { s with replies := s.replies ++ [{ peer := peer, poisoned := !(s.poisonIn pa n).isEmpty, data := readBytes s.mem pa n }] }

/-- The poisoned sectors that the host reads, told to it (R269). -/
def State.tellPoison (s : State) (pa n : Nat) : State :=
  (s.poisonIn pa n).foldl (fun s x => s.hostFault { source := 8, fcode := FCode.uncorrectable.code, addr := x * 64 }) s

/-- The home of every line of a range takes requests. -/
def State.takesRange (s : State) (pa n : Nat) : Bool :=
  (List.range ((pa + n - 1) / 128 + 1 - pa / 128)).all fun i => s.takes ((pa / 128 + i) * 128)

/-- A range lies in the HDM window (R254). -/
def inHdm (off n : Nat) : Bool := decide (0 < n) && decide (off + n ≤ Config.localBytes)

/-- HOST_CXL_MEM_READ (R254, R269, R365): each poisoned sector read goes to the host fault ring. -/
def execHostCxlMemRead (off len : Nat) (s : State) : Host.Outcome State Fault Refusal :=
  event (if !inHdm off len || !s.takesRange off len then s else (s.tellPoison off len).outsideRead none off len)

/-- HOST_CXL_MEM_WRITE (R254, R365). A count that the host writes back may end the condition of a vector, which is looked at before and after
(R393). -/
def execHostCxlMemWrite (off : Nat) (data : List Byte) (s : State) : Host.Outcome State Fault Refusal :=
  event (if inHdm off data.length && s.openRange off data.length then (s.irqScan.outsideWrite none off data (data.length / 128 + 2)).irqScan else s)

/-! ## The tag aperture (R254) -/

/-- Byte `o` of the aperture: a byte of the tag of sector `o` div 2. -/
def State.tagByte (s : State) (o : Nat) : Byte := (Tab.get 0 s.tags (o / 2)).extractLsb' (8 * (o % 2)) 8

/-- A tag with one byte replaced. -/
def setTagByte (t : Tag) (i : Nat) (b : Byte) : Tag := if i = 0 then t.extractLsb' 8 8 ++ b else b ++ t.extractLsb' 0 8

/-- One byte of the aperture written: the sector's line is claimed, and its data is unchanged. -/
def State.putTagByte (s : State) (o : Nat) (b : Byte) : State :=
  let s := s.claimLine (o / 4)
  { s with tags := Tab.set 0 s.tags (o / 2) (setTagByte (Tab.get 0 s.tags (o / 2)) (o % 2) b) }

/-- Bytes of the aperture written from an offset. -/
def State.putTagBytes (s : State) : Nat → List Byte → State
  | _, [] => s
  | o, b :: bs => (s.putTagByte o b).putTagBytes (o + 1) bs

/-- A write of `n` bytes of the aperture is one write to each sector that it covers. -/
def State.wroteTags (s : State) (o n : Nat) : State :=
  (List.range ((o + n - 1) / 2 + 1 - o / 2)).foldl (fun s i => s.wroteLine ((o / 2 + i) / 2)) s

/-- A range lies in the tag aperture. -/
def inAperture (off n : Nat) : Bool := decide (0 < n) && decide (off + n ≤ 12000000000)

/-- The sectors whose tags a range of the aperture holds: their bytes in local memory, as address and length. -/
def tagSectors (off n : Nat) : Nat × Nat := (off / 2 * 64, ((off + n - 1) / 2 - off / 2 + 1) * 64)

/-- HOST_TAG_APERTURE_READ (R254, R269): the tag of a poisoned sector is poisoned with it. -/
def execHostTagApertureRead (off len : Nat) (s : State) : Host.Outcome State Fault Refusal :=
  let r := tagSectors off len
  event (if inAperture off len && s.takesRange r.1 r.2 then
      let t := s.tellPoison r.1 r.2
      { t with replies := t.replies ++ [{ poisoned := !(s.poisonIn r.1 r.2).isEmpty, data := (List.range len).map fun i => s.tagByte (off + i) }] }
    else s)

/-- HOST_TAG_APERTURE_WRITE (R254): one write to each sector that it covers. -/
def execHostTagApertureWrite (off : Nat) (data : List Byte) (s : State) : Host.Outcome State Fault Refusal :=
  let n := data.length
  event (if inAperture off n && s.openRange (tagSectors off n).1 (tagSectors off n).2 then
      let wct := (List.range ((off + n - 1) / 4 + 1 - off / 4)).foldl (fun m i => max m (s.wctFor (off / 4 + i) (dieOf ioCore))) s.gtime
      let s := (s.putTagBytes off data).wroteTags off n
      { s with acks := s.acks ++ [{ wct := wct }] }
    else s)

/-! ## Host memory (R255, R392) -/

/-- HOST_SNOOP (R255, R392): the host takes a host line away from its proxy home, after every access performed there, and may
have written the bytes given; the queues whose TAIL lies there see it go. -/
def execHostSnoop (pa : Nat) (data : List Byte) (s : State) : Host.Outcome State Fault Refusal :=
  event (if !isHost pa ∨ 128 < pa % 128 + data.length ∨ s.mapHeld pa then s
    else
      let s := (s.irqScan.modLine (lineOf pa) Line.left).takeTails (lineOf pa)
      (({ s with mem := writeBytes s.mem pa data } : State).observe pa data.length).irqScan)

/-- A READY bit set or cleared; a change raises the READY interrupt's event (R245, R393). -/
def State.setReady (s : State) (bit : Nat) (v : Bool) : State :=
  if s.ready.getLsbD bit = v then s
  else { s with ready := if v then s.ready ||| BitVec.ofNat 64 (2 ^ bit) else s.ready &&& ~~~ BitVec.ofNat 64 (2 ^ bit)
                readyEvents := s.readyEvents + 1 }

/-- HOST_LINK_STATE_CHANGE (R245): READYH.HOST follows the link; in recovery no bit but SECP is set (R401). -/
def execHostLinkStateChange (up : Bool) (s : State) : Host.Outcome State Fault Refusal :=
  event (if up && s.firmware.recovery then s else s.setReady 36 up)

/-! ## Peers (R366, R395, R396) -/

/-- Bytes of an atomic's operand (Table 06-5). -/
def atomBytes : AtomK → Nat
  | .addI64 | .minI64 | .maxI64 | .cas64 => 8
  | _ => 4

/-- Where a peer's request goes in local memory, and its bytes. -/
def reqRange : PeerReq → Nat × Nat
  | .load pa n => (pa, n)
  | .store pa bs => (pa, bs.length)
  | .atomic k pa _ _ => (pa, (atomBytes k))
  | .ldt pa => (pa, 1)
  | .stt pa _ => (pa, 1)

/-- A peer's request performed at its home here: a load under a lease where no window owns the line, a write with its
acknowledgement to come. -/
def State.peerPerform (s : State) (i : Nat) : PeerReq → State
  | .load pa n =>
    let s := s.outsideRead (some i) pa n
    if (s.ownerOf (lineOf pa)).isSome then s else s.modLine (lineOf pa) (Line.grant (s.homeNow (lineOf pa)))
  | .store pa bs => s.outsideLine (some i) pa bs
  | .atomic k pa x new =>
    let s := s.claimLine (lineOf pa)
    let old := readBytes s.mem pa (atomBytes k)
    let v := atomApply k (BitVec.ofNat 64 (leNat old)) x new
    let s := { s with replies := s.replies ++ [({ peer := some i, data := old } : Reply)] }
    s.outsideLine (some i) pa (leBytes (atomBytes k) v.toNat)
  | .ldt pa => { s with replies := s.replies ++ [{ peer := some i, data := leBytes 2 (Tab.get 0 s.tags (sectorOf pa)).toNat }] }
  | .stt pa t =>
    let s := s.claimLine (lineOf pa)
    let wct := s.wctFor (lineOf pa) (dieOf ioCore)
    let s := ({ s with tags := Tab.set 0 s.tags (sectorOf pa) t } : State).wroteLine (lineOf pa)
    { s with acks := s.acks ++ [{ peer := some i, wct := wct }] }

/-- A peer's request that only reads. -/
def reqReads : PeerReq → Bool
  | .load .. | .ldt .. => true
  | _ => false

/-- PEER_REQUEST (R366, R396): a request of a bound peer inside one sector of local memory; a write waits while its line is held (R265,
R266), and any request while its home takes none. -/
def execPeerRequest (peer : Nat) (req : PeerReq) (s : State) : Host.Outcome State Fault Refusal :=
  let (pa, n) := reqRange req
  event (if s.peerPorts peer ≠ 0 && inHdm pa n && pa % 64 + n ≤ 64 && (if reqReads req then s.takes pa else s.openHome pa) then s.peerPerform peer req else s)

/-- PEER_WRITE_ACK (R366): a write to peer memory is acknowledged once its completion time has come at its home. -/
def execPeerWriteAck (op part : Nat) (s : State) : Host.Outcome State Fault Refusal :=
  event (match s.part? op part with
    | some (o, p) => if p.peer && (match p.st with | .done w => decide (w ≤ s.gtime) | _ => false) && o.kind.isWrite then s.setOp op (o.setPart part { p with acked := true }) else s
    | none => s)

/-- A part of an access has left by a port and is in flight there. -/
def Part.onPort (p : Part) (port : Nat) (o : MemOp) : Bool :=
  p.peer && (!p.st.isDone || (o.kind.isWrite && !p.acked)) && p.port = some port

/-- A part of an access has not left, and its peer has no port any more. -/
def State.stranded (s : State) (p : Part) : Bool := p.peer && !p.st.isDone && p.port.isNone && s.peerPorts (peerOf (p.sector * 64)) = 0

/-- A request in flight on a port that went down (R396): a write may or may not have been performed, a free choice; a value that
was to return is undefined, and its team meets UNCORRECTABLE; other writes are reported. -/
def State.failPart (s : State) (id n : Nat) : State :=
  match s.part? id n with
  | none => s
  | some (o, p) =>
    let addr := match p.lanes with | a :: _ => a.addr | [] => 0
    let (v, s) := s.free
    let s := if p.st.isDone then s else if o.kind.isWrite && v.getLsbD 0 then s.perform id n else s.discardPart id n
    let s := match s.part? id n with
      | some (o, p) => s.setOp id (o.setPart n { p with acked := true })
      | none => s
    if o.returns then
      s.soften o.who o.pc addr (p.lanes.map LaneAcc.lane)
    else
      s.hostFault { source := 8, fcode := FCode.uncorrectable.code, ctx := o.ctx, core := o.core, addr := addr }

/-- An unfinished copy whose unit reads or writes peer memory over a port stops (R396). -/
def State.failCopies (s0 s : State) (port core : Nat) : State :=
  match (s.core core).courier with
  | none => s
  | some y =>
    let hits := fun (stash : Bool) (k : Acc) (va : Nat) => !stash && match s0.trans core y.ctx k va with
      | .ok t => isPeer t.pa && s0.portOf t.pa = some port
      | .error _ => false
    (List.range y.copies.length).foldl (fun s n => match y.copies[n]? with
      | some c =>
        if c.finished || !c.started then s
        else if (!c.fill && hits (c.flag 0) .r (c.src c.cursor)) || hits (c.flag 1) .w (c.dst c.cursor) then
          s.endCopy core n { c with status := some .uncorrectable, faddr := BitVec.ofNat 64 (c.dst c.cursor) }
        else s
      | none => s) s

/-- A port goes down, and what was in flight on it fails. -/
def State.portDown (s : State) (port : Nat) : State :=
  if 16 ≤ port ∨ !s.ready.getLsbD (40 + port) then s
  else
    let s' := { s.setReady (40 + port) false with skews := Tab.del s.skews port }
    let lost := s.ops.flatMap fun (id, o) => (List.range o.parts.length).filterMap fun n =>
      (o.parts[n]?).bind fun p => if p.onPort port o || s'.stranded p then some (id, n) else none
    let s' := lost.foldl (fun t e => t.failPart e.1 e.2) s'
    (s.cores.map Prod.fst).foldl (fun t c => State.failCopies s t port c) s'

/-- LINK_PORT_DOWN (R396). -/
def execLinkPortDown (port : Nat) (s : State) : Host.Outcome State Fault Refusal := event (s.portDown port)

/-- The ports to the peers that a port serves. -/
def State.portsWith (s : State) (port : Nat) : List Nat :=
  (List.range 16).filter fun p => p = port || s.peers.any fun e => e.2.ports.getLsbD port && e.2.ports.getLsbD p

/-- LINK_PORT_UP (R397): a port has trained with the skew measured towards its peer, or the skew of a port that is up is measured again
(log 69). The bit is set only within the bound, and not in recovery (R401); a device that has lost the bound takes every port to that peer
down. -/
def execLinkPortUp (port skew : Nat) (s : State) : Host.Outcome State Fault Refusal :=
  event (if 16 ≤ port ∨ s.firmware.recovery then s
    else if skew ≤ 16 then { s.setReady (40 + port) true with skews := Tab.put s.skews port skew }
    else if s.ready.getLsbD (40 + port) then (s.portsWith port).foldl State.portDown s
    else s)

end Sys2Proof.Machine
end

