-- ==== Sys2Proof/Machine/Command.lean ====
section
/-! DEFINITION. The management window (R394, Table 17-3): its fields, a command that waits, its arguments, and its end. -/

namespace Sys2Proof.Machine

/-- A field of the command area, by its offset in the window. -/
def Mgmt.arg (m : Mgmt) (off n : Nat) : Nat := leNat (readBytes m.args off n)

/-- Every byte of ARGS outside the fields listed, as offset and length, is zero (R405). -/
def Mgmt.only (m : Mgmt) (l : List (Nat × Nat)) : Bool :=
  m.args.all fun (o, b) => b = 0 || l.any fun (a, n) => decide (a ≤ o) && decide (o < a + n)

/-- The window as the command that runs finds it: the function and the arguments that stood there at its door. -/
def Mgmt.now (m : Mgmt) : Mgmt :=
  match m.cmds with
  | [] => { m with args := [] }
  | c :: _ => { m with func := c.func, args := c.args }

/-- A command of a function is to be performed: its door is the oldest of those not complete, and the firmware image runs (R394, R401). -/
def State.commanded (s : State) (func : Nat) : Bool :=
  !s.firmware.recovery && match s.mgmt.cmds with
    | [] => false
    | c :: _ => c.func.toNat = func

/-- The command is complete: SEQ, STATUS and the result area, the bytes of which are listed from 0x100 on (R394). -/
def State.finish (s : State) (status : Nat) (result : List Byte := []) : State :=
  { s with mgmt := { s.mgmt with cmds := s.mgmt.cmds.drop 1, seq := (s.mgmt.cmds.head?.map Cmd.door).getD s.mgmt.seq, status := BitVec.ofNat 32 status, result := tabFrom' 0x100 result, done := s.mgmt.done + 1 } }
where
  /-- A byte table of the bytes listed. -/
  tabFrom' (k : Nat) (bs : List Byte) : Tab Byte := writeBytes [] k bs

/-- A save of a context is in progress: its cores are being left, or its writes are under way (R382). A restore is one row. -/
def State.midSave (s : State) (c : Nat) : Bool := (s.ctx c).unload.isSome || s.cores.any fun e => e.2.ctx = some c && e.2.pre

/-- The command that runs has begun a pre-emption or a save. -/
def State.begun (s : State) : Bool := s.mgmt.cmds.head?.any Cmd.begun

/-- The command that runs goes on in later rows. -/
def State.begin (s : State) : State :=
  { s with mgmt := { s.mgmt with cmds := match s.mgmt.cmds with
      | [] => []
      | c :: t => { c with begun := true } :: t } }

/-- A command that names a context: nothing while none of its function is to be performed; an argument out of limits completes it with STATUS 2,
else a save of the context in progress with STATUS 4, and neither changes anything (R394, log 71); else it is performed. -/
def commandOn (func : Nat) (s : State) (ok : Mgmt → Bool) (ctx : Mgmt → Option Nat) (act : Mgmt → State → State) : Host.Outcome State Fault Refusal :=
  event (if !s.commanded func then s
    else if !ok s.mgmt.now then s.finish 2
    else if !s.begun && (ctx s.mgmt.now).any s.midSave then s.finish 4
    else act s.mgmt.now s)

/-- A command that names no context. -/
def command (func : Nat) (s : State) (ok : Mgmt → Bool) (act : Mgmt → State → State) : Host.Outcome State Fault Refusal :=
  commandOn func s ok (fun _ => none) act

/-- The context in the first argument. -/
def Mgmt.ctxArg (m : Mgmt) : Option Nat := some (m.arg 0x10 4)

/-- The context a command names, where it is set up. -/
def State.live (s : State) (c : Nat) : Bool := decide (c < 64) && (s.ctx c).live

end Sys2Proof.Machine
end

