-- ==== Sys2Proof/Machine/Image.lean ====
section
/-! DEFINITION. The context save image (R384 to R386): the records of Tables 16-9 to 16-11 as bytes, and the same records read
back. Where a table gives no width or no place, the layout is the model's own (DESIGN CHOICE, log 33). -/

namespace Sys2Proof.Machine

/-! ## Words and padding -/

/-- The 32-bit words of some bytes, little-endian. -/
def leWords : List Byte → List Word
  | a :: b :: c :: d :: t => (d ++ c ++ b ++ a : BitVec 32) :: leWords t
  | _ => []

/-- A table of the values listed, from a key on, without those that are 0. -/
def tabFrom {n : Nat} : Nat → List (BitVec n) → Tab (BitVec n)
  | _, [] => []
  | k, w :: ws => if w = 0 then tabFrom (k + 1) ws else (k, w) :: tabFrom (k + 1) ws

/-- Bytes padded with zeros to a multiple of 64. -/
def pad64 (b : List Byte) : List Byte := b ++ zeros ((64 - b.length % 64) % 64)

/-- A record: TYPE, RLEN and its content from byte 8 (Table 16-9). -/
def imageRecord (type : Nat) (body : List Byte) : List Byte :=
  let n := (8 + body.length + 63) / 64 * 64
  leBytes 2 type ++ zeros 2 ++ leBytes 4 n ++ body ++ zeros (n - 8 - body.length)

/-- A 64-bit field of 0xFFFF_FFFF or a number. -/
def optWord (o : Option Nat) : List Byte := leBytes 4 (o.getD 0xFFFFFFFF)

/-- The field read back. -/
def optField (b : List Byte) (off : Nat) : Option Nat := if field b off 4 = 0xFFFFFFFF then none else some (field b off 4)

/-! ## What the tables give no place for -/

/-- Lists of numbers, a count before each; 16 bytes a number (DESIGN CHOICE, log 33). -/
def ownBytes (ls : List (List Nat)) : List Byte :=
  let ws := ls.flatMap fun l => l.length :: l
  (ws.length :: ws).flatMap (leBytes 16)

/-- The lists read back from their numbers; none where a count goes beyond the end. -/
def ownSplit : Nat → List Nat → Option (List (List Nat))
  | _, [] => some []
  | 0, _ => none
  | fuel + 1, n :: t => if t.length < n then none else (ownSplit fuel (t.drop n)).map fun l => t.take n :: l

/-- The lists that stand at a place of a record, with the place after them. -/
def readOwn (b : List Byte) (at_ : Nat) : Option (List (List Nat) × Nat) :=
  let n := field b at_ 16
  let e := at_ + 16 * (n + 1)
  if b.length < e then none else (ownSplit n ((List.range n).map fun i => field b (at_ + 16 * (i + 1)) 16)).map fun l => (l, e)

/-- List `k` of some lists, and number `i` of it; empty and 0 where there is none. -/
def ownList (ls : List (List Nat)) (k : Nat) : List Nat := ls.getD k []

def ownAt (ls : List (List Nat)) (k i : Nat) : Nat := (ownList ls k).getD i 0

/-- Consecutive pairs and triples of a list. -/
def inPairs : List Nat → List (Nat × Nat)
  | a :: b :: t => (a, b) :: inPairs t
  | _ => []

def inTriples : List Nat → List (Nat × Nat × Nat)
  | a :: b :: c :: t => (a, b, c) :: inTriples t
  | _ => []

def inQuads : List Nat → List (Nat × Nat × Nat × Nat)
  | a :: b :: c :: d :: t => (a, b, c, d) :: inQuads t
  | _ => []

/-- A number above 0 for what may be absent, and read back. -/
def pcNo (o : Option DWord) : Nat :=
  match o with
  | some v => v.toNat + 1
  | none => 0

def pcBack (n : Nat) : Option DWord := if n = 0 then none else some (BitVec.ofNat 64 (n - 1))

/-- The register that a read latch names, as a number above 0, and read back with the latch's word. -/
def latchNo (l : Option (Nat × Word)) : Nat :=
  match l with
  | some (n, _) => n + 1
  | none => 0

def latchBack (n w : Nat) : Option (Nat × Word) := if n = 0 then none else some (n - 1, BitVec.ofNat 32 w)

/-! ## Group records (Table 16-11) -/

/-- A matrix operation; one that has completed or is discarded has every block done. -/
def MatOp.bytes (o : MatOp) : List Byte :=
  let whole := o.st = .complete || o.st = .discarded
  leBytes 2 o.batch.toNat ++ leBytes 2 o.idx ++ leBytes 1 o.acc ++
  leBytes 1 (o.red.toNat * 64 + o.z.toNat * 32 + o.asrc.toNat * 8 + o.bsrc.toNat * 2 + o.int.toNat) ++ leBytes 1 o.ovr.toNat ++
  leBytes 1 (if whole then 15 else o.blocks.toNat) ++ leBytes 8 o.abase.toNat ++ leBytes 4 o.apitch.toNat ++ leBytes 8 o.bbase.toNat ++
  leBytes 4 o.bpitch.toNat ++ leBytes 4 o.members.toNat ++ zeros 28

/-- A matrix operation read back, before its operands are found again. -/
def readMatOp (b : List Byte) (lanes : LaneMask) : MatOp :=
  let f := field b
  { batch := BitVec.ofNat 16 (f 0 2), idx := f 2 2, acc := f 4 1, red := bitOf (f 5 1) 6, z := bitOf (f 5 1) 5, asrc := bitOf (f 5 1) 3,
    bsrc := bitOf (f 5 1) 1, int := bitOf (f 5 1) 0, ovr := BitVec.ofNat 4 (f 6 1), abase := BitVec.ofNat 64 (f 8 8),
    apitch := BitVec.ofNat 32 (f 16 4), bbase := BitVec.ofNat 64 (f 20 8), bpitch := BitVec.ofNat 32 (f 28 4), members := BitVec.ofNat 16 (f 32 4),
    lanes := lanes, st := if f 7 1 = 15 then .complete else .issued, blocks := BitVec.ofNat 4 (f 7 1) }

/-- Start of the group's earliest wait, 0 where it waits nowhere. -/
def Grp.waitStart (g : Grp) : Nat :=
  match g.waits with
  | [] => 0
  | w :: ws => ws.foldl (fun n v => min n v.start) w.start

/-- The group as pre-emption leaves it (R382 steps 2 to 5): its arrivals undone, its fences over, the flags of its completed
operations in GFLAGS, no operand held, and no fragment pinned but that of pending hints. -/
def Grp.atRest (g : Grp) : Grp :=
  let flags := g.mops.foldl (fun m o => if o.st = .complete then m ||| o.flags else m) g.gflags
  { g with
    muster := none, fences := [], frozen := false, yielded := none, gave := [], inSlot := false, gflags := flags
    waits := g.waits.map fun w => { pc := w.pc, start := w.start, next := w.next, timed := w.timed }
    mops := g.mops.map fun o => match o.st with
      | .fetched => { o with st := .issued, pins := [], abytes := [], bbytes := [], atags := [], btags := [], bread := false, bbad := none, flags := 0 }
      | _ => { o with pins := [], bbytes := [], btags := [], bread := false, bbad := none, flags := 0 } }

/-- What a group holds that Table 16-11 has no place for: the register of its latch, the PC of the word that its pending hints precede (R61), its
waits with the PC that follows each (R343), the lanes of its operations, its registers in error, and its lanes' pairs. -/
def Grp.ownLists (g : Grp) : List (List Nat) :=
  [[latchNo g.latch, pcNo g.hintPc], g.waits.flatMap fun w => [w.pc.toNat, w.start, w.timed.toNat, w.next.toNat], g.mops.map fun o => o.lanes.toNat,
   g.regErrs.flatMap fun e => [e.1, e.2], g.pairs.flatMap fun p => [p.i.toNat, p.j.toNat, p.cls.toNat]]

/-- The bytes of a group record, with `n` registers a lane. -/
def Grp.recordBytes (g : Grp) (n : Nat) : List Byte :=
  let d := g.defer.getD { code := .matrixMismatch, faux := 0, faddr := 0 }
  let dcode := match g.defer with | some f => f.code.code | none => 0
  g.scalarBytes ++ g.predBytes ++
  leBytes 4 g.nmode.toNat ++ leBytes 4 g.gflags.toNat ++ leBytes 4 g.garm.toNat ++ leBytes 4 (bits g.nextop.toNat 16 16 + g.members.toNat) ++ leBytes 4 g.batch ++
  leBytes 4 g.ifc2 ++ leBytes 4 g.tslot.toNat ++ leBytes 4 (match g.latch with | some (_, w) => w.toNat | none => 0) ++
  leBytes 8 g.tbound.toNat ++ leBytes 8 g.gtcmp.toNat ++ leBytes 8 g.stage.toNat ++ leBytes 8 g.waitStart ++ leBytes 8 g.fpc.toNat ++ leBytes 8 g.faddr.toNat ++
  leBytes 4 g.fcode.toNat ++ leBytes 4 g.fskid ++ leBytes 4 g.faux.toNat ++ leBytes 4 g.hints.pend ++ leBytes 4 g.repst ++ leBytes 4 g.nextop.toNat ++
  leBytes 4 g.epoch ++ leBytes 4 (g.frame.isSome.toNat + 2 * g.primary.toNat + 4 * g.pending.toNat) ++ g.hints.bytes ++ zeros 12 ++ g.quadBytes ++
  leBytes 8 (g.frame.getD 0).toNat ++ leBytes 4 g.mops.length ++ leBytes 12 g.emitted.toNat ++ leBytes 4 dcode ++ leBytes 4 d.faux.toNat ++
  leBytes 8 d.faddr.toNat ++ zeros 24 ++ g.mops.flatMap MatOp.bytes ++ g.vecBytes n

/-- A quad record read back, whatever lanes have exited; none where it contradicts R99 or its own layout. -/
def savedQuad (b : List Byte) : Option Quad :=
  let nd := field b 9 1
  let np := field b 10 1
  let nr := field b 11 1
  let m := BitVec.ofNat 4 (field b 8 1)
  let pc := BitVec.ofNat 64 (field b 0 8)
  let q : Quad := { path := if m = 0 ∧ pc = 0 then none else some (Path.mk pc m), defer := (readPaths b 16 nd).reverse, park := readPaths b 80 np,
                    ret := (readPaths b 144 nr).reverse, age := field b 12 4 }
  let masks := m :: (q.defer ++ q.park ++ q.ret).map Path.mask
  let sum : Nat := masks.foldl (fun n x => n + x.toNat) 0
  let all : BitVec 4 := masks.foldl (fun n x => n ||| x) 0
  if nd ≤ 4 ∧ np ≤ 4 ∧ nr ≤ 16 ∧ q.bytes = b ∧ sum = all.toNat then some q else none

/-- Every lane of a quad that has not exited. -/
def Quad.lanes (q : Quad) : BitVec 4 := q.ret.foldl (fun m p => m ||| p.mask) q.placed

def savedQuads (b : List Byte) : List Nat → Option (Tab Quad)
  | [] => some []
  | q :: qs => match savedQuad ((b.drop (512 * q)).take 512), savedQuads b qs with
    | some x, some t => some ((q, x) :: t)
    | _, _ => none

/-- The fault of a code (Table 16-12). -/
def faultOf (n : Nat) : Option FCode :=
  [FCode.illegal, .reservedBits, .privilege, .operand, .hintSeq, .dict, .align, .address, .translation, .permission, .stage2, .tagFormat,
   .barrierClobber, .barrierAbandoned, .stashRange, .fpTrap, .branchRange, .callDepth, .watchdog, .timer, .matrixMismatch, .party, .batch, .mcast,
   .pairOverflow, .pairEmit, .uncorrectable, .trap].find? fun f => f.code = n

/-- A hint payload of a group record, where its bit of HINTST is set. -/
def savedPayload (b : List Byte) (k : Nat) : Option (BitVec 23) :=
  if bitOf (field b 460 4) k then some (BitVec.ofNat 23 (field b (480 + 4 * k) 4)) else none

/-- Bytes of a group record. -/
def groupRecordSize (b : List Byte) (n : Nat) : Nat := 12864 + 64 * field b 12808 4 + 384 * n

/-- Matrix operation `i` of a group record keeps its limits. -/
def opClean (b : List Byte) (i n : Nat) : Bool :=
  let f := field (b.drop (12864 + 64 * i))
  decide (f 2 2 < 256) && decide (f 4 1 + 32 ≤ n) && decide (f 5 1 < 128) && decide (f 6 1 < 16) && decide (f 7 1 < 16) && decide (f 32 4 < 2 ^ 16) && (List.range 28).all fun k => f (36 + k) 1 = 0

/-- The fields of a group record lie within their limits, and its zero fields are zero (R387 check 4). -/
def groupClean (b : List Byte) (n : Nat) : Bool :=
  let f := field b
  let coded := fun off => f off 4 = 0 || (faultOf (f off 4)).isSome
  ((List.range 7).all fun i => f (268 + 16 * i) 4 = 0) && decide (f 368 4 < 2 ^ 21) && decide (f 372 4 < 32) && decide (f 376 4 < 32) && f 384 4 / 2 ^ 16 % 2 = 0 &&
  decide (f 384 4 / 2 ^ 17 % 512 ≤ 256) && decide (f 384 4 / 2 ^ 26 % 32 ≤ 16) && decide (f 388 4 ≤ 1024) && decide (f 392 4 < 8) && f 420 4 = 0 && coded 448 && decide (f 452 4 < 32) && decide (f 452 4 % 16 ≤ 8) &&
  decide (f 460 4 < 32) && decide (f 464 4 < 128) && f 468 4 = f 382 2 && decide (f 476 4 < 8) && ((List.range 5).all fun k => decide (f (480 + 4 * k) 4 < 2 ^ 23)) &&
  ((List.range 12).all fun k => f (500 + k) 1 = 0) && f 12800 8 % 16384 = 0 && decide (f 12808 4 ≤ 256) && coded 12824 && ((List.range 24).all fun k => f (12840 + k) 1 = 0) &&
  (List.range (f 12808 4)).all fun i => opClean b i n

/-- A group read back from its record with what stands beside it, over what neither holds. -/
def Grp.fromRecord (g : Grp) (b : List Byte) (n : Nat) (own : List (List Nat)) : Option Grp :=
  let f := field b
  let nops : Nat := f 12808 4
  match savedQuads (b.drop 512) (List.range 24) with
  | none => none
  | some quads =>
    let live : LaneMask := quads.foldl (fun m e => m ||| quadMask e.1 e.2.lanes) 0
    let flags : Nat := f 476 4
    let frame : Nat := f 12800 8
    let ops := (List.range nops).map fun i => readMatOp (b.drop (12864 + 64 * i)) live
    let old := (ownList own 2).map (BitVec.ofNat 96)
    let ops := (List.range nops).filterMap fun i => (ops[i]?).map fun o => { o with lanes := old.getD i live }
    let pc := (f 432 8)
    let primary := bitOf flags 1
    let pending := bitOf flags 2
    let hints : Hints := { imm := savedPayload b 0, mod := savedPayload b 1, rep := savedPayload b 2, pref := savedPayload b 3, bar := savedPayload b 4 }
    let bopen : Nat := f 384 4 % 2 ^ 16
    let nclosed : Nat := f 384 4 / 2 ^ 26 % 32
    let defer := (faultOf (f 12824 4)).map fun c => ({ code := c, faux := BitVec.ofNat 32 (f 12828 4), faddr := BitVec.ofNat 64 (f 12832 8) } : DefFault)
    let g' : Grp := { g with
      s := tabFrom 0 ((leWords (b.take 256))), p := (List.range 7).foldl (fun t i => Tab.set 0 t i (BitVec.ofNat 96 (f (256 + 16 * i) 12))) []
      v := tabFrom 0 ((leWords (b.drop (12864 + 64 * nops))).take (96 * n)), quads := quads, exited := ~~~live
      nmode := BitVec.ofNat 32 (f 368 4), gflags := BitVec.ofNat 5 (f 372 4), garm := BitVec.ofNat 5 (f 376 4), members := BitVec.ofNat 16 (f 380 4)
      nextop := BitVec.ofNat 16 (f 380 4 / 2 ^ 16), bopen := BitVec.ofNat 16 bopen, bops := f 384 4 / 2 ^ 17 % 512
      closed := (List.range nclosed).map fun i => BitVec.ofNat 16 (bopen + 2 ^ 16 - nclosed + i)
      ifc2 := f 388 4, tslot := BitVec.ofNat 3 (f 392 4), latch := latchBack (ownAt own 0 0) (f 396 4)
      tbound := BitVec.ofNat 64 (f 400 8), gtcmp := BitVec.ofNat 64 (f 408 8), stage := BitVec.ofNat 32 (f 416 8), fpc := BitVec.ofNat 64 pc
      faddr := BitVec.ofNat 64 (f 440 8), fcode := BitVec.ofNat 8 (f 448 4), skid := BitVec.ofNat 4 (f 452 4), fhalt := bitOf (f 452 4) 4
      faux := BitVec.ofNat 32 (f 456 4), hints := hints, rep := if bitOf (f 464 4) 6 then some (BitVec.ofNat 6 (f 464 4)) else none
      epoch := f 472 4, primary := primary, pending := pending, frame := if frame = 0 then none else some (BitVec.ofNat 64 frame)
      emitted := BitVec.ofNat 96 (f 12812 12), defer := defer, mops := ops
      regErrs := inPairs (ownList own 3), pairs := (inTriples (ownList own 4)).map fun e => { i := BitVec.ofNat 32 e.1, j := BitVec.ofNat 32 e.2.1, cls := BitVec.ofNat 2 e.2.2 }
      waits := (inQuads (ownList own 1)).map fun e => { pc := BitVec.ofNat 64 e.1, start := e.2.1, timed := e.2.2.1 = 1, next := BitVec.ofNat 64 e.2.2.2 } }
    let frag := g'.quadsAt (BitVec.ofNat 64 pc)
    let run : Run := if frame ≠ 0 then .running else if primary ∨ pending then .faulted else if live = 0 then .ended else .running
    let g' : Grp := { g' with frag := if primary ∨ pending then fragBits frag else g.frag, run := run, hintPc := pcBack (ownAt own 0 1) }
    if groupClean b n then some g' else none

/-! ## Team records (R386) -/

/-- A window entry of the fixed part. -/
def winBytes (o : Option Window) : List Byte :=
  match o with
  | some w => leBytes 8 w.base.toNat ++ leBytes 2 w.off ++ leBytes 2 w.len ++ leBytes 1 1 ++ zeros 3
  | none => zeros 16

/-- Stash offsets of the lines that stay DIRTY. -/
def Team.dirtyLines (T : Team) : List Nat :=
  T.wins.flatMap fun (_, w) => w.lines.filterMap fun (i, l) => if l.dirty then some (w.off * 1024 + 128 * i) else none

def Kind.code : Kind → Nat
  | .team => 0
  | .task => 1
  | .pair => 2

/-- The team's identity, as its groups hold it. -/
def Team.ident (T : Team) : Ident := match T.groups with | (_, g) :: _ => g.id | [] => {}

/-- What stood in the stash before the first touch of a line (R262), as numbers, and read back. -/
def Under.parts (u : Under) : List Nat :=
  [u.t0.toNat, u.t1.toNat, u.p0.toNat, u.p1.toNat] ++ (List.range 8).map fun i => leNat ((u.bytes.drop (16 * i)).take 16)

def underBack (l : List Nat) : Under :=
  { t0 := BitVec.ofNat 16 (l.getD 0 0), t1 := BitVec.ofNat 16 (l.getD 1 0), p0 := l.getD 2 0 = 1, p1 := l.getD 3 0 = 1
    bytes := (List.range 8).flatMap fun i => leBytes 16 (l.getD (4 + i) 0) }

/-- What stood under the lines that stay DIRTY, in their order. -/
def Team.unders (T : Team) : List Under :=
  T.wins.flatMap fun (_, w) => w.lines.filterMap fun (_, l) => if l.dirty then some l.was else none

/-- What a team holds that its record has no place for: its number, that its LID is a pair launch's, its identity, whether it has made
its succ-ready step, its poisoned stash sectors, what stood under its DIRTY lines, and what its groups hold. -/
def Team.ownLists (T : Team) (uid : Nat) : List (List Nat) :=
  let d := T.ident
  [uid, (decide (2 ^ 33 ≤ T.lid)).toNat, d.gridx.toNat, d.gridy.toNat, d.gridz.toNat, d.param.toNat, d.clusx.toNat, d.clusy.toNat, d.width.toNat, d.height.toNat, T.succ.toNat] ::
  T.spoison :: T.unders.flatMap Under.parts :: T.groups.flatMap fun e => e.2.ownLists

/-- The barrier entries: live objects, and with bit 15 the last generation at an offset where no object is live (R338). -/
def Team.barBytes (T : Team) : List Byte :=
  (T.bars.flatMap fun (o, g) => leBytes 2 (o / 16) ++ leBytes 2 g.toNat) ++
  T.gens.flatMap fun (o, g) => if (Tab.find T.bars o).isSome then [] else leBytes 2 (2 ^ 15 + o / 16) ++ leBytes 2 g.toNat

/-- The content of a team record after its header. -/
def Team.recordBody (T : Team) (uid : Nat) : List Byte :=
  let d := T.ident
  let dirty := T.dirtyLines
  let fixed := leBytes 4 (T.lid % 2 ^ 32) ++ leBytes 4 d.teamx.toNat ++ leBytes 4 d.teamy.toNat ++ leBytes 4 d.teamz.toNat ++ leBytes 4 d.teamn.toNat ++ leBytes 4 T.cluster ++
    leBytes 4 T.rank ++ T.kobj.bytes ++ leBytes 4 T.kobj.stash ++ leBytes 8 T.ccyc ++ leBytes 4 T.groups.length ++ leBytes 4 (T.barBytes.length / 4) ++
    leBytes 4 dirty.length ++ leBytes 4 T.kind.code ++ (List.range 16).flatMap fun w => winBytes (Tab.find T.wins w)
  fixed ++ zeros (2040 - fixed.length) ++
  pad64 (T.barBytes ++ dirty.flatMap fun o => leBytes 4 o) ++
  (T.groups.flatMap fun e => e.2.recordBytes T.kobj.regs) ++ readBytes T.stash 0 T.kobj.stash ++
  ((List.range (T.kobj.stash / 64)).flatMap fun i => leBytes 2 (Tab.get 0 T.stags i).toNat) ++ ownBytes (T.ownLists uid)

/-- What a team record names, read from its fixed part. -/
structure TeamHead where
  lid : Nat
  teamx : Word
  teamy : Word
  teamz : Word
  teamn : Word
  cluster : Nat
  rank : Nat
  kobj : KObj
  ccyc : Nat
  ngroup : Nat
  nbar : Nat
  ndirty : Nat
  kind : Kind
  wins : Tab Window
  bars : Tab (BitVec 16)
  gens : Tab (BitVec 16)
  dirty : List Nat
  /-- Where the group records begin. -/
  at_ : Nat
  /-- What stands beside the table's fields. -/
  own : List (List Nat)
  deriving DecidableEq, Repr

def kindOf (n : Nat) : Option Kind :=
  match n with
  | 0 => some .team
  | 1 => some .task
  | 2 => some .pair
  | _ => none

/-- Where `k` group records from a place on end. -/
def groupsEnd (b : List Byte) (n at_ : Nat) : Nat → Nat
  | 0 => at_
  | k + 1 => groupsEnd b n (at_ + groupRecordSize (b.drop at_) n) k

/-- The fixed part and the lists of a team record within their limits. -/
def readTeamHead (b : List Byte) : Option TeamHead :=
  let f := field b
  match parseKObj ((b.drop 36).take 64), kindOf (f 124 4) with
  | some k, some kind =>
    let nbar := f 116 4
    let ndirty := f 120 4
    let win := fun i => 128 + 16 * i
    let wins : Tab Window := (List.range 16).filterMap fun i =>
      if f (win i + 12) 1 = 0 then none else some (i, { base := BitVec.ofNat 64 (f (win i) 8), off := f (win i + 8) 2, len := f (win i + 10) 2 })
    let entries : List (Nat × BitVec 16) := (List.range nbar).map fun i => (f (2048 + 4 * i) 2, BitVec.ofNat 16 (f (2050 + 4 * i) 2))
    let bars : Tab (BitVec 16) := (entries.filter fun e => decide (e.1 < 2 ^ 15)).foldl (fun t e => Tab.put t (16 * e.1) e.2) []
    let gens : Tab (BitVec 16) := entries.foldl (fun t e => Tab.put t (16 * (e.1 % 2 ^ 15)) e.2) []
    let dirty := (List.range ndirty).map fun i => f (2048 + 4 * nbar + 4 * i) 4
    let at_ := 2048 + (4 * nbar + 4 * ndirty + 63) / 64 * 64
    match readOwn b (groupsEnd b k.regs at_ (f 112 4 % 17) + k.stash + k.stash / 32) with
    | none => none
    | some (own, e) =>
    let h : TeamHead := { lid := f 8 4, teamx := BitVec.ofNat 32 (f 12 4), teamy := BitVec.ofNat 32 (f 16 4), teamz := BitVec.ofNat 32 (f 20 4), teamn := BitVec.ofNat 32 (f 24 4),
                          cluster := f 28 4, rank := f 32 4, kobj := k, ccyc := f 104 8, ngroup := f 112 4, nbar := nbar, ndirty := ndirty, kind := kind, wins := wins,
                          bars := bars, gens := gens, dirty := dirty, at_ := at_, own := own }
    if f 100 4 = k.stash && h.ngroup = k.teamg && decide (h.rank < 12) && decide (nbar ≤ 24576) && decide (ndirty ≤ 3072) && dirty.all (fun o => decide (o + 128 ≤ k.stash) && o % 128 = 0) &&
        (entries.all fun e => decide (16 * (e.1 % 2 ^ 15) + 16 ≤ k.stash)) && (wins.all fun (_, w) => decide ((w.off + w.len) * 1024 ≤ k.stash)) &&
        ((List.range 16).all fun i => decide (f (win i + 12) 1 ≤ 1) && f (win i + 13) 1 = 0 && f (win i + 14) 2 = 0) && decide (h.gens.length = nbar) && f 4 4 = (e + 63) / 64 * 64 then some h else none
  | _, _ => none

/-- The groups of a team record from a place on, each over what it was before. -/
def readGroups (b : List Byte) (n : Nat) (old : Nat → Grp) (own : List (List Nat)) : Nat → List Nat → Option (Tab Grp × Nat)
  | at_, [] => some ([], at_)
  | at_, j :: js =>
    let size := groupRecordSize (b.drop at_) n
    match (old j).fromRecord ((b.drop at_).take size) n ((own.drop (3 + 5 * j)).take 5), readGroups b n old own (at_ + size) js with
    | some g, some (t, e) => some ((j, g) :: t, e)
    | _, _ => none

/-- A team read back from its record over a team with what the record does not hold; its windows have every line ABSENT. -/
def Team.fromRecord (T : Team) (b : List Byte) : Option Team :=
  match readTeamHead b with
  | none => none
  | some h =>
    let k := h.kobj
    match readGroups b k.regs (fun j => (Tab.find T.groups j).getD {}) h.own h.at_ (List.range h.ngroup) with
    | none => none
    | some (gs, e) =>
      let run := fun (g : Grp) => if (gs.any fun x => x.2.primary) && g.run = .running && g.frame.isNone then { g with run := Run.halted } else g
      some { T with
        lid := if ownAt h.own 0 1 = 1 then 2 ^ 33 + h.lid else h.lid, kind := h.kind, kobj := k, cluster := if h.kind = .team then h.cluster else T.cluster, rank := h.rank, ccyc := h.ccyc, wins := h.wins
        bars := h.bars, gens := h.gens, spoison := ownList h.own 1, succ := ownAt h.own 0 10 = 1, stash := tabFrom 0 ((b.drop e).take k.stash)
        stags := (List.range (k.stash / 64)).foldl (fun t i => Tab.set 0 t i (BitVec.ofNat 16 (field b (e + k.stash + 2 * i) 2))) []
        groups := gs.map fun (j, g) => (j, run g), halted := gs.any fun x => x.2.primary
        exiting := gs.any fun x => x.2.frame.isSome && x.2.gone }

/-! ## The other records (Table 16-10) -/

/-- The 64-byte launch record of a launch (R276); a child grid's PARAM is its table. -/
def Launch.bytes (l : Launch) : List Byte :=
  leBytes 8 l.kaddr.toNat ++ leBytes 8 (if l.table = 0 then l.param else l.table).toNat ++ leBytes 4 l.gx ++ leBytes 4 l.gy ++ leBytes 4 l.gz ++ leBytes 4 l.lid ++
  ((List.range 4).flatMap fun i => leBytes 4 (l.preds.getD i 0)) ++ leBytes 8 l.done.toNat ++ leBytes 3 l.pods ++ leBytes 1 l.queue ++ zeros 4

/-- A digest as four numbers, and read back. -/
def digestParts (d : BitVec 512) : List Nat := (List.range 4).map fun i => d.toNat / 2 ^ (128 * i) % 2 ^ 128

def digestBack (l : List Nat) : BitVec 512 := BitVec.ofNat 512 ((List.range 4).foldl (fun n i => n + l.getD i 0 * 2 ^ (128 * i)) 0)

/-- What a launch holds that its record has no place for: its sticky marks and counts, its teams killed before their dispatch, and the
digests attached. -/
def Launch.ownLists (l : Launch) : List (List Nat) :=
  [[l.foreign.toNat, l.mred.toNat, l.succs], l.goneTeams] ++ l.digests.map fun e => e.1 :: digestParts e.2

/-- The lowest epoch of which a record of a launch may still be applied: of those pending, and those that its groups may still make (R211).
A launch of which none may takes the field's greatest value (log 33). -/
def State.epochsApplied (s : State) (l : Launch) : Nat :=
  let gs := ((s.teams.map Prod.snd ++ (s.ctx l.ctx).saved.map Saved.team).filter fun T => T.ctx = l.ctx && T.lid = l.lid).flatMap fun T => T.groups.map Prod.snd
  let open_ := (gs.filter fun g => g.run ≠ .ended).map Grp.epoch
  let start := if l.nextTeam < l.total || l.tasks ≠ 0 then [0] else []
  (start ++ open_ ++ (s.recsOf l.ctx l.lid none).map HRec.epoch).foldl min 0xFFFFFFFF

/-- TYPE 1. -/
def State.launchRecord (s : State) (l : Launch) : List Byte :=
  imageRecord 1 (l.bytes ++ l.kobj.bytes ++ leBytes 4 l.succReady.toNat ++ leBytes 4 (min l.nextTeam 0xFFFFFFFF) ++ leBytes 4 (min l.ended 0xFFFFFFFF) ++ leBytes 4 l.killed.toNat ++
    leBytes 8 l.tasks ++ leBytes 4 (s.epochsApplied l) ++ ownBytes l.ownLists)

/-- The hamper epoch applied, of a launch record: the records of every epoch below it have been applied. -/
def epochApplied (b : List Byte) : Nat := field b 160 4

/-- A launch read back; `order` is new. -/
def readLaunch (c : Nat) (b : List Byte) : Option Launch :=
  let f := field b
  match parseKObj ((b.drop 72).take 64), readOwn b 164 with
  | none, _ => none
  | _, none => none
  | some k, some (own, e) =>
    let child := decide (2 ^ 31 ≤ f 36 4)
    let l : Launch := { ctx := c, lid := f 36 4, kobj := k, kaddr := BitVec.ofNat 64 (f 8 8), param := if child then 0 else BitVec.ofNat 64 (f 16 8)
                        table := if child then BitVec.ofNat 64 (f 16 8) else 0, gx := f 24 4, gy := f 28 4, gz := f 32 4, preds := [f 40 4, f 44 4, f 48 4, f 52 4]
                        done := BitVec.ofNat 64 (f 56 8), pods := f 64 3, queue := f 67 1, nextTeam := f 140 4, ended := f 144 4, killed := f 148 4 ≠ 0, tasks := f 152 8
                        foreign := ownAt own 0 0 = 1, mred := ownAt own 0 1 = 1, succs := ownAt own 0 2, goneTeams := ownList own 1
                        digests := (own.drop 2).foldl (fun t e => Tab.put t (e.headD 0) (digestBack (e.drop 1))) [] }
    if f 4 4 = (e + 63) / 64 * 64 && f 36 4 ≠ 0 && decide (f 136 4 ≤ 1) && decide (f 148 4 ≤ 1) && decide (l.total ≤ 2 ^ 32) && decide (l.nextTeam ≤ l.total) && decide (l.ended ≤ l.total) && f 8 8 % 64 = 0 &&
        decide (f 67 1 < 128) && f 68 4 = 0 then some l else none

/-- A copy of a courier record. -/
def Copy.bytes (c : Copy) : List Byte := (c.desc ++ zeros (64 - c.desc.length)) ++ leBytes 8 c.done ++ leBytes 8 c.serial ++ zeros 48

/-- What a copy holds that the record has no place for: whether it is a fill, its cursor, what it is bound to, its troubles, and the sectors
it has written in part. -/
def Copy.ownList (c : Copy) : List Nat :=
  [c.fill.toNat, c.started.toNat, c.cursor, (match c.status with | some f => f.code | none => 0), c.faddr.toNat] ++
  (match c.bound with
   | some (t, off, g) => [1, t, off, g.toNat]
   | none => [0, 0, 0, 0]) ++ c.cover.flatMap fun e => [e.1, e.2.toNat]

/-- A copy read back. -/
def readCopy (b : List Byte) (own : List Nat) : Copy :=
  let f := field b
  let v := fun i => own.getD i 0
  { fill := v 0 = 1, desc := b.take 64, cursor := v 2, done := f 64 8, serial := f 72 8, started := v 1 = 1, status := faultOf (v 3), faddr := BitVec.ofNat 64 (v 4)
    bound := if v 5 = 1 then some (v 6, v 7, BitVec.ofNat 16 (v 8)) else none, cover := (inPairs (own.drop 9)).foldl (fun t e => Tab.put t e.1 (BitVec.ofNat 64 e.2)) [] }

/-- TYPE 3. -/
def Courier.recordBytes (y : Courier) : List Byte :=
  imageRecord 3 (leBytes 4 y.num ++ leBytes 4 y.stopped.toNat ++ leBytes 8 (cpcBits y.cpc).toNat ++ ((List.range 64).flatMap fun n => leBytes 4 (Tab.get 0 y.s n).toNat) ++
    leBytes 4 y.ret.length ++ ((List.range 16).flatMap fun i => leBytes 8 (y.ret.reverse.getD i 0).toNat) ++ leBytes 4 (match y.latch with | some (_, w) => w.toNat | none => 0) ++
    leBytes 8 y.ring.toNat ++ leBytes 4 y.size ++ leBytes 8 y.next ++ leBytes 4 y.copies.length ++ y.copies.flatMap Copy.bytes ++
    ownBytes ([latchNo y.latch] :: y.copies.map Copy.ownList))

/-- A courier read back; each copy continues from the unit after DONE. -/
def readCourier (c now : Nat) (b : List Byte) : Option Courier :=
  let f := field b
  let nr := f 280 4
  let nc := f 436 4
  match readOwn b (440 + 128 * nc) with
  | none => none
  | some (own, e) =>
  let copies := (List.range nc).map fun i => readCopy (b.drop (440 + 128 * i)) (ownList own (i + 1))
  let y : Courier := { ctx := c, num := f 8 4, stopped := f 12 4 ≠ 0, cpc := BitVec.ofNat 64 (f 16 8), s := tabFrom 0 (leWords ((b.drop 24).take 256))
                       ret := ((List.range nr).map fun i => BitVec.ofNat 64 (f (284 + 8 * i) 8)).reverse, ring := BitVec.ofNat 64 (f 416 8), size := f 424 4, next := f 428 8
                       copies := copies, last := now, latch := latchBack (ownAt own 0 0) (f 412 4) }
  let zero := (List.range nc).all fun i => (List.range 48).all fun k => f (520 + 128 * i + k) 1 = 0
  let fits := copies.all fun c => descOk c.desc && decide (c.done ≤ c.cursor) && decide (c.cursor ≤ c.total)
  let rets := (List.range 16).all fun i => f (284 + 8 * i) 8 % 4 = 0 && decide (f (284 + 8 * i) 8 < 2 ^ 60) && (decide (i < nr) || f (284 + 8 * i) 8 = 0)
  let ring := if f 424 4 = 0 then f 416 8 = 0 else f 416 8 % 32 = 0 && ringSizeOk (f 424 4)
  if f 8 4 < 384 ∧ f 12 4 ≤ 1 ∧ f 16 8 % 4 = 0 ∧ f 16 8 < 2 ^ 60 ∧ nr ≤ 16 ∧ rets ∧ ring ∧ f 4 4 = (e + 63) / 64 * 64 ∧ zero ∧ fits then some y else none

/-- The cell that an offset on an axis reaches, none where it does not exist or stands already among the earlier ones. -/
def axisSlots (box : Bool) (n : Nat) (c : Int) : List (Option Int) :=
  let l : List Int := [c - 1, c, c + 1]
  if box then
    let w := l.map fun x => x % (n : Int)
    (List.range 3).map fun k => if (w.take k).contains (w.getD k 0) then none else some (w.getD k 0)
  else l.map fun (x : Int) => if 0 ≤ x ∧ x < (n : Int) then some x else none

/-- The candidates of an A record by cell ordinal, 0 to 26, in the order of R300. -/
def Share.cellLists (h : Share) (p : PairLaunch) (i : Nat) (pos : List Word) : List (List Nat) :=
  let c := p.cellOf h.lo h.hi h.edge h.cellsOn (pos.map fixed)
  let ax := fun k => axisSlots p.box (h.cellsOn.getD k 1) (c.getD k 0)
  (ax 2).flatMap fun z => (ax 1).flatMap fun y => (ax 0).map fun x => match x, y, z with
    | some x, some y, some z =>
      let js := Tab.get [] h.cells (cellKey h.cellsOn [x, y, z])
      if p.mode = 1 then js.filter fun j => decide (i < j) else js
    | _, _, _ => []

/-- A place among all candidates as a cell ordinal and an index within the cell. -/
def cellCursor : Nat → List (List Nat) → Nat → Nat × Nat
  | k, [], n => (k - 1, n)
  | k, l :: ls, n => if n < l.length ∨ ls.isEmpty then (k, n) else cellCursor (k + 1) ls (n - l.length)

/-- The cursor of a unit: the cell ordinal and the index within the cell of the next candidate. -/
def State.shareCursor (s : State) (p : PairLaunch) (h : Share) : Nat × Nat :=
  match h.cur with
  | none => (0, 0)
  | some i => match s.position p false i with
    | .ok a => cellCursor 0 (h.cellLists p i a) h.index
    | .error _ => (0, h.index)

/-- One share: the range of set A or of the list that it has still to take, its cursor, and its unflushed basket. Units take records as
they need them (R31), so the first share has the whole range that none has taken, and the others have an empty one. -/
def State.shareBytes (s : State) (p : PairLaunch) (first : Bool) (h : Share) : List Byte :=
  let (k, n) := s.shareCursor p h
  let total := p.taken
  leBytes 4 (if first then p.nextA else total) ++ leBytes 4 total ++ optWord h.cur ++ leBytes 4 k ++ leBytes 4 n ++ zeros 12 ++
  leBytes 4 h.basket.length ++ h.basket.flatMap fun e => leBytes 4 e.i.toNat ++ leBytes 4 e.j.toNat

/-- The shares of a record: one at least, which holds the range that no unit has taken. -/
def PairLaunch.recordShares (p : PairLaunch) : List Share := if p.shares.isEmpty then [{ pod := 0 }] else p.shares

/-- A write that raced with a launch, as numbers, and read back. -/
def Race.parts : Race → List Nat
  | .recA lo hi => [0, lo, hi]
  | .recB lo hi => [1, lo, hi]
  | .rows lo hi => [2, lo, hi]
  | .ents lo hi => [3, lo, hi]
  | .scratch => [4, 0, 0]

def raceBack (e : Nat × Nat × Nat) : Race :=
  match e.1 with
  | 0 => .recA e.2.1 e.2.2
  | 1 => .recB e.2.1 e.2.2
  | 2 => .rows e.2.1 e.2.2
  | 3 => .ents e.2.1 e.2.2
  | _ => .scratch

/-- The pieces of a launch's fault ring, each with its offset there. -/
def State.ringPieces (s : State) (p : PairLaunch) : List PPage := s.pagesOf ioCore p.ctx .a (p.f 160 8) (p.f 168 4)

/-- What of a launch's fault ring other rings overlap (R309), as offsets there, and read back. -/
def State.ringOffs (s : State) (p : PairLaunch) : List (Nat × Nat) :=
  (s.ringPieces p).flatMap fun e => (overlaps [(e.pa, e.len)] p.shared).map fun f => (e.off + (f.1 - e.pa), f.2)

def State.ringBack (s : State) (p : PairLaunch) (l : List (Nat × Nat)) : List (Nat × Nat) :=
  (s.ringPieces p).flatMap fun e => (overlaps [(e.off, e.len)] l).map fun f => (e.pa + (f.1 - e.off), f.2)

/-- What a pair launch holds that its record has no place for: the contributions performed, the writes that raced with it (R304, R333), and what
its fault ring shares with others (R309). -/
def State.pairOwn (s : State) (p : PairLaunch) : List (List Nat) :=
  [p.sums.flatMap fun e => [e.1, e.2.1, e.2.2], (s.racesOf p.ctx p.lid).flatMap Race.parts, (s.ringOffs p).flatMap fun e => [e.1, e.2]]

/-- TYPE 4. -/
def State.pairRecord (s : State) (p : PairLaunch) : List Byte :=
  imageRecord 4 (leBytes 4 p.lid ++ leBytes 8 p.daddr.toNat ++ (p.desc ++ zeros (256 - p.desc.length)) ++ leBytes 8 p.pairs ++ leBytes 8 p.tests ++ leBytes 4 p.groups ++ leBytes 4 p.faults ++
    leBytes 4 p.lost ++ leBytes 4 p.killed ++ leBytes 4 p.coarsen ++ leBytes 4 p.nanpos.length ++ leBytes 4 p.excluded ++ leBytes 4 p.nextFault ++ leBytes 4 p.edge.toNat ++
    leBytes 4 (p.recordShares).length ++ ((List.range p.recordShares.length).flatMap fun i => match p.recordShares[i]? with
      | some h => s.shareBytes p (i = 0) h
      | none => []) ++ ownBytes (s.pairOwn p))

/-- A share as its record has it: the range not taken, current record, cell ordinal and index, and the pairs of its basket. -/
structure ShareHead where
  first : Nat
  last : Nat
  cur : Option Nat
  cell : Nat
  index : Nat
  basket : List (Nat × Nat)
  deriving DecidableEq, Repr

/-- The shares of a pair-launch record, and where they end; 0 where one breaks its limits. -/
def readShares (b : List Byte) : Nat → Nat → List ShareHead × Nat
  | at_, 0 => ([], at_)
  | at_, n + 1 =>
    let f := field b
    let m := f (at_ + 32) 4
    if 96 < m ∨ !((List.range 12).all fun k => f (at_ + 20 + k) 1 = 0) then ([], 0) else
    let h : ShareHead := { first := f at_ 4, last := f (at_ + 4) 4, cur := optField b (at_ + 8), cell := f (at_ + 12) 4, index := f (at_ + 16) 4
                           basket := (List.range m).map fun i => (f (at_ + 36 + 8 * i) 4, f (at_ + 40 + 8 * i) 4) }
    let (l, e) := readShares b (at_ + 36 + 8 * m) n
    if e = 0 then ([], 0) else (h :: l, e)

/-- A pair launch read back without its units' grids, with its shares and what stands beside the table's fields. -/
def readPairLaunch (c : Nat) (b : List Byte) : Option (PairLaunch × List ShareHead × List (List Nat)) :=
  let f := field b
  let desc := (b.drop 20).take 256
  let (hs, e) := readShares b 332 (min (f 328 4) 24)
  if e = 0 then none else
  match readOwn b e with
  | none => none
  | some (own, e) =>
  let p : PairLaunch := { ctx := c, lid := f 8 4, daddr := BitVec.ofNat 64 (f 12 8), desc := desc, pairs := f 276 8, tests := f 284 8, groups := f 292 4, faults := f 296 4
                          lost := f 300 4, killed := f 304 4, coarsen := f 308 4, excluded := f 316 4, nextFault := f 320 4, edge := BitVec.ofNat 32 (f 324 4)
                          nextA := hs.foldl (fun n h => if h.first < h.last then min n h.first else n) (hs.foldl (fun n h => max n h.last) 0)
                          nanpos := (List.range (f 312 4)).map fun k => (true, 2 ^ 32 + k), sums := inTriples (ownList own 0) }
  let listed := hs.all fun h => h.basket.all fun e => decide (e.1 < p.f 8 4) && decide (e.2 < p.f 32 4)
  if f 8 4 ≠ 0 ∧ f 12 8 % 256 = 0 ∧ (pairBad desc).isNone ∧ f 328 4 ≤ 24 ∧ 1 ≤ f 320 4 ∧ listed ∧ f 4 4 = (e + 63) / 64 * 64 ∧ hs.all (fun h => h.first ≤ h.last ∧ h.last = p.taken ∧ h.cell < 27) then some (p, hs, own) else none

/-- A set of ranks as bits. -/
def rankBits (l : List Nat) : Nat := (List.range 12).foldl (fun n r => if l.contains r then n + 2 ^ r else n) 0

def ranksOf (n : Nat) : List Nat := (List.range 12).filter fun r => bitOf n r

/-- A member record of 32 bytes. -/
def memberBytes (o : Option McMember) : List Byte :=
  match o with
  | some m => leBytes 4 m.ring ++ leBytes 4 m.depth ++ leBytes 4 m.stat ++ optWord m.bar ++ leBytes 4 m.nreq ++ leBytes 4 m.nrel ++ zeros 8
  | none => zeros 32

/-- A sequence record of 48 bytes: N, ADDR, LEN, ASKED and T0; then STATE: DELIVERING, the timer and the data error, with the sets of the ranks
due, of those with a mismatch, and of those whose request is pending, and the group of each such request (log 33). -/
def McEntry.seqBytes (e : McEntry) (o : Option McSeq) : List Byte :=
  match o with
  | some q =>
    let req := fun r => ((Tab.find e.members r).bind fun m => m.reqs.find? fun x => x.1 = q.n).map Prod.snd
    leBytes 4 q.n ++ leBytes 8 q.addr ++ leBytes 4 q.len ++ leBytes 4 (rankBits q.asked) ++ leBytes 8 q.t0 ++
    leBytes 2 (1 + 2 * q.delivering.toNat + 4 * q.byTimer.toNat + 8 * q.dataErr.toNat) ++ leBytes 2 (rankBits q.due) ++ leBytes 2 (rankBits q.mism) ++
    leBytes 2 (rankBits ((List.range 12).filter fun r => (req r).isSome)) ++ leBytes 6 ((List.range 12).foldl (fun n r => n + (req r).getD 0 * 16 ^ r) 0) ++ zeros 6
  | none => zeros 48

/-- What a multicast entry holds that its record has no place for: the sequences released; for each member its rank and the sequences
delivered to it; for each sequence the barrier generations bound at its release. -/
def McEntry.ownLists (e : McEntry) : List (List Nat) :=
  [e.released] :: (e.members.map fun m => m.1 :: m.2.got.flatMap fun q => [q.1, q.2.1, q.2.2]) ++ e.seqs.map fun q => q.gens.flatMap fun g => [g.1, g.2.toNat]

/-- TYPE 5. -/
def McEntry.recordBytes (e : McEntry) : List Byte :=
  imageRecord 5 (leBytes 4 e.ctx ++ leBytes 4 e.lid ++ leBytes 4 e.cluster ++ leBytes 4 e.g ++ leBytes 4 e.mask ++ leBytes 4 (rankBits (e.members.map Prod.fst)) ++
    leBytes 4 (rankBits (e.members.map Prod.fst)) ++ leBytes 4 e.timer ++ leBytes 4 e.slot ++ leBytes 4 e.deliv.toNat ++
    ((List.range 12).flatMap fun r => memberBytes (Tab.find e.members r)) ++ ((List.range 32).flatMap fun i => e.seqBytes e.seqs[i]?) ++ ownBytes e.ownLists)

/-- A member record keeps the limits of Table 06-10, with a slot size. -/
def memberClean (b : List Byte) (o slot : Nat) : Bool :=
  let f := field b
  decide (2 ≤ f (o + 4) 4) && decide (f (o + 4) 4 ≤ 16) && f o 4 % 1024 = 0 && decide (f o 4 + f (o + 4) 4 * slot ≤ 393216) && f (o + 8) 4 % 16 = 0 &&
  decide (f (o + 8) 4 + 8 * f (o + 4) 4 ≤ 393216) && (f (o + 12) 4 = 0xFFFFFFFF || f (o + 12) 4 % 16 = 0) && f (o + 24) 8 = 0

/-- A sequence record keeps its limits, and its zero bytes are zero. -/
def seqClean (b : List Byte) (q slot : Nat) : Bool :=
  let f := field b
  let small := fun k => decide (f (q + k) 2 < 2 ^ 12)
  decide (f (q + 16) 4 < 2 ^ 12) && small 30 && small 32 && small 34 && decide (f (q + 28) 2 < 16) && f (q + 42) 6 = 0 &&
  (if bitOf (f (q + 28) 2) 0 then f (q + 4) 8 % 64 = 0 && f (q + 12) 4 % 64 = 0 && decide (0 < f (q + 12) 4) && decide (f (q + 12) 4 ≤ slot) else (List.range 48).all fun k => f (q + k) 1 = 0)

/-- A multicast entry read back with its members suspended and its sequences' data not read. -/
def readEntry (c : Nat) (b : List Byte) : Option McEntry :=
  let f := field b
  let joined := ranksOf (f 28 4)
  match readOwn b 1968 with
  | none => none
  | some (own, e) =>
  let members : Tab McMember := (List.range joined.length).map fun j =>
    let r := joined.getD j 0
    let o := 48 + 32 * r
    let reqs := (List.range 32).filterMap fun i =>
      let q := 432 + 48 * i
      if bitOf (f (q + 28) 2) 0 && bitOf (f (q + 34) 2) r then some (f q 4, f (q + 36) 6 / 16 ^ r % 16) else none
    (r, { team := 0, stashid := 0, ring := f o 4, depth := f (o + 4) 4, stat := f (o + 8) 4, bar := optField b (o + 12), nreq := f (o + 16) 4, nrel := f (o + 20) 4,
          susp := true, reqs := reqs, got := inTriples ((ownList own (1 + j)).drop 1) })
  let seqs : List McSeq := (List.range 32).filterMap fun i =>
    let q := 432 + 48 * i
    if bitOf (f (q + 28) 2) 0 then
      some { n := f q 4, addr := f (q + 4) 8, len := f (q + 12) 4, pas := [], asked := ranksOf (f (q + 16) 4), mism := ranksOf (f (q + 32) 2), t0 := f (q + 20) 8
             delivering := bitOf (f (q + 28) 2) 1, byTimer := bitOf (f (q + 28) 2) 2, dataErr := bitOf (f (q + 28) 2) 3, due := ranksOf (f (q + 30) 2)
             gens := (inPairs (ownList own (1 + joined.length + i))).map fun g => (g.1, BitVec.ofNat 16 g.2) }
    else none
  let x : McEntry := { ctx := c, lid := f 12 4, cluster := f 16 4, g := f 20 4, mask := f 24 4, timer := f 36 4, slot := f 40 4, deliv := f 44 4 = 1, members := members, seqs := seqs
                       released := ownAt own 0 0 }
  let slot := f 40 4
  let clean := (List.range 12).all fun r => if joined.contains r then memberClean b (48 + 32 * r) slot else (List.range 32).all fun k => f (48 + 32 * r + k) 1 = 0
  if f 4 4 = (e + 63) / 64 * 64 ∧ f 8 4 = c ∧ f 20 4 < 256 ∧ f 24 4 < 2 ^ 12 ∧ f 28 4 < 2 ^ 12 ∧ f 32 4 < 2 ^ 12 ∧ members ≠ [] ∧ f 36 4 ≠ 0 ∧ f 36 4 < 2 ^ 24 ∧ slot % 1024 = 0 ∧ 1024 ≤ slot ∧ slot ≤ 65536 ∧
      clean ∧ (List.range 32).all (fun i => seqClean b (432 + 48 * i) slot) ∧ f 44 4 ≤ 1 then some x else none

/-- TYPE 6. -/
def State.queueRecord (s : State) (c : Nat) : List Byte :=
  let x := s.ctx c
  let tail := fun p => match s.spilledOf c p with
    | k :: _ => k.order
    | [] => Tab.get 0 x.spillHead p
  imageRecord 6 (leBytes 8 x.hlogProd ++ leBytes 8 x.hlogCons ++ ((List.range 24).flatMap fun p => leBytes 8 (Tab.get 0 x.spillHead p) ++ leBytes 8 (tail p)) ++
    leBytes 8 x.childHead ++ leBytes 8 x.childTail ++ leBytes 4 x.childSerial)

/-! ## The image (Table 16-9) -/

/-- An incumbent slot of the header: zero where the context does not own it. -/
def State.slotBytes (s : State) (c n : Nat) : List Byte :=
  let t := Tab.get {} s.slots n
  if t.owned && t.owner.toNat = c then leBytes 8 t.key.toNat ++ leBytes 8 t.payload.toNat ++ leBytes 4 t.ctl ++ leBytes 4 t.serial.toNat ++ zeros 8 else zeros 32

/-- A slot of the header keeps Table 09-14 and belongs to the context; one that no context owns is all zero. -/
def slotClean (b : List Byte) (n : Nat) : Bool :=
  let o := 104 + 32 * n
  let f := field b
  if bitOf (f (o + 16) 4) 31 then f (o + 16) 4 / 2 % 128 = 0 && f (o + 16) 4 / 256 % 64 = f 32 1 && f (o + 16) 4 / 2 ^ 14 % 2 ^ 17 = 0 && decide (f (o + 20) 4 < 2 ^ 31) && f (o + 24) 8 = 0
  else (List.range 32).all fun k => f (o + k) 1 = 0

/-- The image of a context with the records listed. -/
def State.image (s : State) (c : Nat) (recs : List (List Byte)) : List Byte :=
  let body := ((List.range 8).flatMap fun n => s.slotBytes c n) ++ zeros 152 ++ recs.flatten
  leBytes 4 1 ++ zeros 4 ++ leBytes 8 (104 + body.length) ++ leBytes 8 (s.ctime c) ++ leBytes 8 s.gtime ++ leBytes 1 (c % 64) ++ zeros 3 ++ leBytes 4 recs.length ++
  digestBytes (sha512 body) ++ body

/-- The records of an image, of TYPE and length as their headers say; none where one breaks its limits. -/
def splitRecords (b : List Byte) : Nat → Option (List (List Byte))
  | 0 => if b.isEmpty then some [] else none
  | n + 1 =>
    let len := field b 4 4
    if len < 64 ∨ len % 64 ≠ 0 ∨ b.length < len ∨ 6 < field b 0 2 ∨ field b 2 2 ≠ 0 then none
    else (splitRecords (b.drop len) n).map fun l => b.take len :: l

end Sys2Proof.Machine
end

