-- ==== Sys2Proof/Machine/McastEvents.lean ====
section
/-! DEFINITION. Events at multicast entries: release, timer expiry and delivery (R174, R175, R329). -/

namespace Sys2Proof.Machine

/-- The sectors of a range read once, one read of each line (R267): their bytes and tags; a poisoned sector gives free values and a data error. -/
def State.mcRead (s : State) (die : Nat) : List Nat → State × List Byte × List Tag × Bool
  | [] => (s, [], [], false)
  | pa :: pas =>
    let bad := s.poisonedAt pa
    let (bs, s) := if bad then
        let (a, s) := s.free
        let (b, s) := s.free
        let (c, s) := s.free
        let (d, s) := s.free
        (leBytes 64 (a ++ b ++ c ++ d : BitVec 512).toNat, s)
      else (s.cohRead pa 64, s)
    let g := s.tagAt pa
    let s := if pas.head?.map lineOf = some (lineOf pa) then s else (s.hbmRead pa die).modLine (lineOf pa) Line.served
    let (s, rest, gs, e) := s.mcRead die pas
    (s, bs ++ rest, g :: gs, bad || e)

/-- Generation of the object that a member's deliveries credit, of a team that is saved too (R338). -/
def State.memberGen (s : State) (c : Nat) (m : McMember) : Option (BitVec 16) :=
  m.bar.bind fun off => match s.team m.team with
    | some T => Tab.find T.bars off
    | none => ((s.ctx c).saved.find? fun v => v.uid = m.team).bind fun v => Tab.find v.team.bars off

/-- A held sequence is released: the range is read once, and every member is due a delivery, with its barrier's generation as
it stands now (R174, R338). -/
def State.mcReleaseSeq (s : State) (key : Nat) (e : McEntry) (q : McSeq) (timer : Bool) : State :=
  let (s, data, tags, bad) := s.mcRead (key / 256) q.pas
  let gens := e.members.filterMap fun (r, m) => (s.memberGen e.ctx m).map fun g => (r, g)
  let q := { q with delivering := true, byTimer := timer, dataErr := bad, data := data, tags := tags, due := e.members.map Prod.fst, gens := gens }
  let s := if timer then s.countEvent e.ctx 0x030 else s
  { s with mcast := Tab.put s.mcast key ({ e with deliv := true, released := e.released + 1 }.setSeq q) }

/-- The sequence of an entry that is held and next to be released. A join comes after the first delivery in one tick (Table 13-9): the first
release waits for the tick after a join. A range whose homes take no request is not read yet (R325, R402). -/
def State.mcHeld (s : State) (key n : Nat) : Option (McEntry × McSeq) :=
  (Tab.find s.mcast key).bind fun e => (e.seq n).bind fun q =>
    if q.delivering || n ≠ e.released || (!e.deliv && e.joinAt = some s.gtime) || !q.pas.all s.takes then none else some (e, q)

/-- Every member of an entry that is not suspended has asked for a sequence (R329). -/
def McEntry.covered (e : McEntry) (q : McSeq) : Bool := e.members.all fun (r, m) => m.susp || q.asked.contains r

/-- MULTICAST_RELEASE (R174, R329): every member that is not suspended has asked. -/
def execMulticastRelease (die entry seq : Nat) (s : State) : Host.Outcome State Fault Refusal :=
  let key := 256 * die + entry
  event (match s.mcHeld key seq with
    | some (e, q) => if e.covered q then s.mcReleaseSeq key e q false else s
    | none => s)

/-- MULTICAST_TIMER_EXPIRY (R329, R330): CTIME has reached T0 + TIMER, and the last missing request has not come before. -/
def execMulticastTimerExpiry (die entry seq : Nat) (s : State) : Host.Outcome State Fault Refusal :=
  let key := 256 * die + entry
  event (match s.mcHeld key seq with
    | some (e, q) => if q.t0 + e.timer ≤ s.ctime e.ctx (96 * (key / 256)) && !e.covered q then s.mcReleaseSeq key e q true else s
    | none => s)

/-- The sectors of a fill written into a slot from an offset; whether a barrier object lay in it. None while a window line
cannot be filled or written. -/
def State.mcFill (s : State) (t off : Nat) : List Byte → List Tag → Option (State × Bool)
  | _, [] => some (s, false)
  | bs, g :: gs => match ({ fill := true, desc := [], serial := 0 } : Copy).unitStash s t off 0 (bs.take 64) (some g) with
    | .ok u => (u.s.mcFill t (off + 64) (bs.drop 64) gs).map fun e => (e.1, u.skipped || e.2)
    | _ => none

/-- A delivery is over for a rank; a record whose every delivery is over is freed (R329). -/
def McEntry.delivered (e : McEntry) (q : McSeq) (rank : Nat) : McEntry :=
  let q := { q with due := q.due.filter (· ≠ rank) }
  if q.due.isEmpty then { e with seqs := e.seqs.filter fun r => r.n ≠ q.n } else e.setSeq q

/-- A fill written to a member: data and tags, slot status, credit, and IFC2 of the group that asked, in this order (R174, R175). -/
def State.mcDeliver (s : State) (key rank : Nat) (e : McEntry) (q : McSeq) (m : McMember) : State :=
  let slot := q.n % m.depth
  match s.mcFill m.team (m.ring + slot * e.slot) q.data q.tags with
  | none => s
  | some (s, clob) => match s.readyStash m.team (m.stat + 8 * slot) 8 with
    | none => s
    | some s =>
        let st := 1 + 2 * q.byTimer.toNat + 4 * q.dataErr.toNat + 8 * (q.mism.contains rank).toNat + 16 * clob.toNat
        let s := s.locPut (.st m.team (m.stat + 8 * slot)) (leBytes 4 st ++ leBytes 4 q.n)
        let s := match m.bar, q.gens.find? fun g => g.1 = rank with
          | some off, some (_, g) => s.credit { team := m.team, off := off, gen := g, bytes := q.len }
          | _, _ => s
        let s := (m.reqs.filter fun r => r.1 = q.n).foldl (fun s r => s.modGrp m.team r.2 fun g => { g with ifc2 := g.ifc2 - 1 }) s
        let m := { m with lastAt := some s.gtime
                          reqs := m.reqs.filter fun r => r.1 ≠ q.n
                          got := (q.n, q.addr, q.len) :: m.got.filter fun r => r.1 % m.depth ≠ slot }
        { s with mcast := Tab.put s.mcast key ({ e with members := Tab.put e.members rank m }.delivered q rank) }

/-- MULTICAST_DELIVERY (R174): to a member that has released sequence n − depth; a stash that is no longer the member's
discards it. -/
def execMulticastDelivery (die entry seq rank : Nat) (s : State) : Host.Outcome State Fault Refusal :=
  let key := 256 * die + entry
  event (match Tab.find s.mcast key with
    | none => s
    | some e => match e.seq seq, Tab.find e.members rank with
      | some q, some m =>
        if !q.delivering || !q.due.contains rank || m.susp || decide (m.depth + m.nrel ≤ seq) then s
        else if (s.team m.team).any fun T => T.stashid = m.stashid then s.mcDeliver key rank e q m
        else { s with mcast := Tab.put s.mcast key (e.delivered q rank) }
      | _, _ => s)

end Sys2Proof.Machine
end

