-- ==== Sys2Proof/Machine/Context.lean ====
section
/-! DEFINITION. Pre-emption of a core, the save of a whole context, and restore (R244, R382, R383, R387, R388). -/

namespace Sys2Proof.Machine

/-! ## Where a pre-emption can be completed -/

/-- Two teams of one cluster (R21). -/
def Team.mates (T U : Team) : Bool := T.kind = .team && U.kind = .team && T.ctx = U.ctx && T.lid = U.lid && T.cluster = U.cluster

/-- The teams that a pre-emption of some cores saves: a context's teams there, and the other teams of their clusters, which are
resident together or not at all (R22; DEDUCED, log 34). A team that is killed or has exited is not saved (R383). -/
def State.victimsOf (s : State) (c : Nat) (cores : List Nat) : List Nat :=
  (s.teams.filter fun (_, T) => T.ctx = c && T.ending.isNone && (cores.contains T.core || s.teams.any fun (_, U) => cores.contains U.core && T.mates U)).map Prod.fst

/-- The cores of some teams. -/
def State.coresOf (s : State) (ts : List Nat) : List Nat := (ts.filterMap fun t => (s.team t).map Team.core).eraseDups

/-- The cores where a context stands. -/
def State.coresWith (s : State) (c : Nat) : List Nat := (s.cores.filter fun e => e.2.ctx = some c).map Prod.fst

/-- A group can be saved now: no imprecise error and no halt on its way, and no timer due, which are taken first (R383). -/
def State.groupSettled (s : State) (T : Team) (g : Grp) : Bool :=
  g.soft.isNone && g.halting.isNone && g.owed.isEmpty && !(g.run = .running && g.gtcmp ≠ 0 && decide (g.gtcmp.toNat ≤ s.ctime T.ctx T.core))

/-- A team of a context is still ending on one of the cores listed: the exit or the kill wins (R383). -/
def State.endsOn (s : State) (c : Nat) (cores : List Nat) : Bool :=
  s.teams.any fun (_, T) => T.ctx = c && T.ending.isSome && cores.contains T.core

/-- The teams and the couriers of the cores listed have nothing in flight (R382 steps 4, 7 and the conditions at its end), and no team there
is ending. -/
def State.settled (s : State) (c : Nat) (ts couriers : List Nat) : Bool :=
  !s.endsOn c couriers &&
  (s.ops.all fun (_, o) => match o.who with
    | .grp t _ => !ts.contains t
    | .courier k => !couriers.contains k) &&
  (s.increqs.all fun r => match r.who with
    | .grp t _ => !ts.contains t
    | .courier _ => true) &&
  (s.credits.all fun d => !ts.contains d.team) &&
  (ts.all fun t => match s.team t with
    | some T => T.groups.all fun e => s.groupSettled T e.2
    | none => true) &&
  (ts.all fun t => !(s.winsOf t).any (s.winHeld t)) &&
  couriers.all fun k => match (s.core k).courier with
    | some y => y.copies.all fun p => !p.finished
    | none => true

/-- HSTAT.PRE of the cores listed (R382): dispatch to them and issue on them stop, or go on. -/
def State.setPre (s : State) (cores : List Nat) (v : Bool) : State := cores.foldl (fun s k => s.modCore k fun y => { y with pre := v }) s

/-! ## A team leaves its core (Table 16-7) -/

/-- Dirty window lines written back; a line whose page is no longer writable stays DIRTY (R381). -/
def State.washWins (s : State) (t : Nat) : State :=
  (s.winsOf t).foldl (fun s w => (s.winLines t w).foldl (fun s i => match s.writeBack t w i with
    | .ok s => s
    | .error _ => s) s) s

/-- The records of a context in a core's hamper, those of teams that have ended too, go to the spill log, in order, or to their homes
while it is full (R154, R382 step 8). -/
def State.spillHamper (s : State) (core c : Nat) : State :=
  (List.range s.hamper.length).foldl (fun s i => match s.hamper[i]? with
    | some r => match r.loc with
      | .core k =>
        if k ≠ core || r.ctx ≠ c then s
        else if s.spillRoom c = 0 then { s with hamper := s.hamper.set i { r with loc := .home } }
        else ({ s with hamper := s.hamper.set i { r with loc := .spill } } : State).spillOne r
      | _ => s
    | none => s) s

/-- Every record of a context written to its spill log, from the consumer on, so that the log holds what its home has not applied; none where
the log is too small (R382, R389). -/
def State.saveHamper (s : State) (c : Nat) : Except (Option (FCode × Nat)) State :=
  let x := s.ctx c
  let mine := s.hamper.filter fun r => r.ctx = c
  if x.hlogl.toNat / 32 < mine.length then .error none
  else
    let put := fun (e : Except (FCode × Nat) State) (i : Nat) => match e, mine[i]? with
      | .ok s, some r => s.writeVA ioCore c (x.hlogAddr (x.hlogCons + i)) r.bytes (.save c)
      | e, _ => e
    match (List.range mine.length).foldl put (.ok s) with
    | .error e => .error (some e)
    | .ok s => .ok (({ s with hamper := s.hamper.filter fun r => r.ctx ≠ c } : State).modCtx c fun y => { y with hlogProd := x.hlogCons + mine.length })

/-- Multicast membership of a team suspended. -/
def State.mcSuspend (s : State) (t : Nat) : State :=
  { s with mcast := s.mcast.map fun (k, e) => (k, { e with members := e.members.map fun ((r, m) : Nat × McMember) => (r, if m.team = t then { m with susp := true } else m) }) }

/-- A halted team whose fault wins enters its handler before it is saved (R383). -/
def State.faultWins (s : State) (t : Nat) : State :=
  match s.team t with
  | some T => if T.groups.all fun e => e.2.run ≠ .running then s.enterHandler t else s
  | none => s

/-- A completion time that a context's save waits for (R382). -/
def State.saveAt (s : State) (c w : Nat) : State := if w ≤ s.gtime then s else { s with srcWct := (.save c, w) :: s.srcWct }

/-- The completion time of a team's window write-backs, which its context's save waits for (R382). -/
def State.saveWct (s : State) (t : Nat) : State :=
  match s.team t with
  | none => s
  | some T => s.saveAt T.ctx (s.winsWct t)

/-- The latest completion time of what a context's launches and pair launches have written, and the copies of its saved couriers. -/
def State.ctxWct (s : State) (c : Nat) : Nat :=
  ((s.launches.filter fun l => l.ctx = c).flatMap fun l => [l.wct, l.hwct]).foldl max 0 |> max (((s.pairLaunches.filter fun p => p.ctx = c).map PairLaunch.wct).foldl max 0)
    |> max (((s.ctx c).savedCouriers.flatMap fun y => y.copies.map Copy.wct).foldl max 0)

/-- The stash of a team without its windows: the lines that are CLEAN are ABSENT, and read as before their first touch (R262). -/
def Team.unwound (T : Team) : Team :=
  T.wins.foldl (fun T e => e.2.lines.foldl (fun T l => if l.2.dirty then T else T.restore (e.2.off * 1024 + 128 * l.1) l.2.was) T) T

/-- The operation of a group that the matrix unit works on: the first that has neither completed nor been discarded, once its operands
are fetched. -/
def Grp.inProgress (g : Grp) : Option Nat :=
  match (List.range g.mops.length).find? fun k => (g.mops[k]?).any fun o => o.st ≠ .complete && o.st ≠ .discarded with
  | some k => if (g.mops[k]?).any fun o => o.st = .fetched then some k else none
  | none => none

/-- Step 5 of Table 16-7: the operation in progress has finished some of its 8-row blocks, in order, and stops after the current one. How
many is a free value; the flags of the finished blocks enter GFLAGS, as no record holds them (log 33). -/
def State.blockStop (s : State) (t j : Nat) : State :=
  match s.grp t j with
  | none => s
  | some g => match g.inProgress with
    | none => s
    | some k => match g.mops[k]? with
      | none => s
      | some o =>
        if s.stale.contains (t, j, o.batch, o.idx) then s
        else
          let (n, s) := s.free
          let now := (BitVec.ofNat 4 (2 ^ (n.toNat % 4) - 1)) &&& ~~~o.blocks
          let (v, f) := g.runBlocks { o with flags := 0 } now
          s.modGrp t j fun g => { g with v := v, gflags := g.gflags ||| f, mops := g.mops.set k { o with blocks := o.blocks ||| now } }

/-- The steps of Table 16-7 for one team: it is off its core; the team as it is saved. -/
def State.unload (s : State) (t : Nat) : State × Option Team :=
  let s := s.faultWins t
  let s := s.saveWct t
  let s := s.washWins t
  let s := ((s.team t).elim [] fun T => T.groups.map Prod.fst).foldl (fun s j => s.blockStop t j) s
  match s.team t with
  | none => (s, none)
  | some T =>
    let s := s.unpin (T.groups.flatMap fun e => e.2.mops.flatMap (·.pins))
    let T' := { T.unwound with groups := T.groups.map fun (j, g) => (j, g.atRest) }
    let s := ((s.spillHamper T.core T.ctx).mcSuspend t)
    let s := (s.winsOf t).foldl (fun s w => s.dropWin t w) s
    let s := { s.quarantineId t T with teams := Tab.del s.teams t }
    let s := s.modCore T.core fun k => { k with slots := Tab.del k.slots T.slot }
    (s.pruneDicts T.core, some T')

/-- The courier of a core is saved (R382 step 7); its word in progress issues again. -/
def State.parkCourier (s : State) (core : Nat) : State :=
  match (s.core core).courier with
  | none => s
  | some y =>
    (s.modCtx y.ctx fun x => { x with savedCouriers := x.savedCouriers ++ [{ y with wait := none, fences := [] }] }).modCore core fun k => { k with courier := none }

/-- A core that a context has left: its L1 holds no line of it, and it belongs to no context (R340, R341). -/
def State.vacate (s : State) (core : Nat) : State :=
  if (s.core core).slots.isEmpty && (s.core core).courier.isNone then (s.modCore core fun k => { k with l1 := [], victims := [], thr := false, nmem := 16, admitted := [] }).leaveCore core
  else s

/-! ## Team records in the save area -/

/-- Places of the save area in use by the records of saved teams. -/
def Ctx.usedPlaces (x : Ctx) : List (Nat × Nat) := x.saved.map fun v => (v.pos, v.len)

/-- The lowest place for a record of `n` bytes beside those in use. -/
def Ctx.recordPlace (x : Ctx) (n : Nat) : Option Nat :=
  let fits := fun p => decide (p + n ≤ x.savel.toNat) && x.usedPlaces.all fun (a, m) => decide (p + n ≤ a) || decide (a + m ≤ p)
  (512 :: x.usedPlaces.map fun (a, m) => a + m).foldl (fun b p => if fits p && (match b with | some q => decide (p < q) | none => true) then some p else b) none

/-- The entry of a team that the save or the restore machinery lost (R376). -/
def Team.lostEntry (T : Team) (f : FCode) (addr : Nat) : HFault :=
  { source := 1, fcode := f.code, ctx := T.ctx, core := T.core, who := T.teamn, lid := T.lid, addr := addr }

/-- A saved team ends as killed: its multicast membership is withdrawn, the grids that it contributed to are flushed, its frames are free, and
its launch counts it (Table 16-6). -/
def State.endSaved (s : State) (uid : Nat) (T : Team) : State :=
  let s := (s.mcLeaveAll uid).flushWhere fun g => g.children.any fun c => c.team = uid
  (s.freeFrames T).account T true

/-- A saved team that the save area can no longer give (R376): reported, and it ends as killed. -/
def State.lostTeam (s : State) (uid : Nat) (T : Team) (f : FCode) (addr : Nat) : State := (s.hostFault (T.lostEntry f addr)).endSaved uid T

/-- One team saved by a quantum or a pre-emption: its record is written into free space of the image; none without room. A team whose
record cannot be written is killed where it stands (R376). -/
def State.saveTeam (s0 : State) (t : Nat) : Option State :=
  match s0.unload t with
  | (s, none) => some s
  | (s, some T) =>
    let b := imageRecord 2 (T.recordBody t)
    match (s.ctx T.ctx).recordPlace b.length with
    | none => none
    | some pos => match s.writeVA ioCore T.ctx ((s.ctx T.ctx).saveb.toNat + pos) b (.save T.ctx) with
      | .error (f, a) => some (s0.handlerLost t T f a)
      | .ok s => some (s.modCtx T.ctx fun x => { x with saved := x.saved ++ [{ uid := t, team := T, pos := pos, len := b.length }] })

def State.saveTeams (s : State) : List Nat → Option State
  | [] => some s
  | t :: ts => match s.saveTeam t with
    | none => none
    | some s => s.saveTeams ts

/-- A context's writer: its saves, its dirty log, its pair launches, its records, its child area and its queues. -/
def State.srcOf (s : State) (c : Nat) : Src → Bool
  | .dlog x | .pairs x _ | .done x | .child x | .save x => x = c
  | .queue q => (s.queue q).enable && (s.queue q).ctx = c
  | _ => false

/-- Every write of a context is complete at system scope, its dirty-log entries are written and its counts are performed (R346, R382). -/
def State.saveDone (s : State) (c : Nat) : Bool :=
  (s.srcWct.all fun e => !s.srcOf c e.1 || decide (e.2 ≤ s.gtime)) && !(s.counts.any fun a => a.ctx = c) && s.posted.all fun p => !s.srcOf c p.src && match p.dirt with
    | some d => d.ctx ≠ c
    | none => true

/-- The L1 lines of a context are invalid on every core, with their leases (Table 16-7 step 9, R340). -/
def State.dropL1 (s : State) (c : Nat) : State :=
  { s with cores := s.cores.map fun (k, y) => (k, { y with l1 := y.l1.filter fun e => e.2.ctx ≠ some c }) }

/-- The cores have been left: the save waits for its writes, with HSTAT.PRE set. -/
def State.startSave (s : State) (c func result : Nat) (cores : List Nat) : State :=
  (((cores.foldl State.vacate s).dropL1 c).setPre cores true).modCtx c fun x => { x with unload := some { func := func, result := result, cores := cores } }

/-- A save is over once its writes are, the completion records of the couriers that left the cores too: its result, or none while it waits. -/
def State.endSave (s : State) (c : Nat) (u : Unload) : State × Option Nat :=
  if s.saveDone c && u.cores.all fun k => s.srcIdle (.copy k) then ((s.setPre u.cores false).modCtx c fun x => { x with unload := none }, some u.result) else (s, none)

/-- Every home takes requests: each stack is ready, and no map change moves a line. -/
def State.allTake (s : State) : Bool := s.mapChange.isEmpty && (List.range 8).all fun k => s.ready.getLsbD (28 + k)

/-- The save area of a context can be reached (R325, R402). -/
def State.areaTakes (s : State) (c : Nat) : Bool := s.allTake || s.vaReady ioCore c .rw (s.ctx c).saveb.toNat (s.ctx c).savel.toNat

/-- Pre-emption of some cores: it begins by stopping dispatch and issue there, goes on once nothing is in flight, with the teams saved,
and ends once the writes are complete; the number of teams saved, or none while it is under way. Without room in the save area the
teams stay. -/
def State.preempt (s : State) (func c : Nat) (cores : List Nat) : State × Option Nat :=
  match (s.ctx c).unload with
  | some u => if u.func = func then s.endSave c u else (s, none)
  | none =>
    let ts := s.victimsOf c cores
    let all := (cores ++ s.coresOf ts).eraseDups
    let s := s.setPre all true
    if !s.settled c ts cores || !s.areaTakes c then (s, none)
    else match s.saveTeams ts with
      | none => (s.setPre all false, some 0)
      | some s =>
        let s := cores.foldl State.parkCourier s
        let s := (s.saveAt c (s.ctxWct c)).startSave c func ts.length all
        match (s.ctx c).unload with
        | some u => s.endSave c u
        | none => (s, none)

/-- The dispatch unit holds work of another context for a core (R244). -/
def State.otherWork (s : State) (core c : Nat) : Bool :=
  (s.launches.any fun l => l.ctx ≠ c && decide (l.nextTeam < l.total) && s.eligible l && podAllowed l.pods (podOf core)) ||
  (s.ctxs.any fun (i, x) => i ≠ c && !x.saving && !x.saved.isEmpty) ||
  ((Tab.get [] s.heaps (podOf core)).any fun k => k.ctx ≠ c) ||
  s.pairLaunches.any fun p => p.ctx ≠ c && p.shares.any fun h => h.pod = podOf core && h.flush && !h.basket.isEmpty

/-- QUANTUM_EXPIRY (R244): a context resident on a core for its quantum, while other work waits, is pre-empted there; a pre-emption whose
writes were on their way ends once they are complete. -/
def execQuantumExpiry (core : Nat) (s : State) : Host.Outcome State Fault Refusal :=
  event (match s.ctxs.find? fun e => e.2.unload.any fun u => u.func = 0 && u.cores.contains core with
    | some (c, _) => (s.preempt 0 c [core]).1
    | none => match (s.core core).ctx with
      | none => s
      | some c =>
        let q := (s.ctx c).quant
        if q ≠ 0 && decide (q ≤ s.gtime - (s.core core).since) && ((s.core core).pre || s.otherWork core c) then (s.preempt 0 c [core]).1 else s)

/-- PREEMPT_CONTEXT (R382, R405): function 0x08. -/
def execPreemptContext (s : State) : Host.Outcome State Fault Refusal :=
  commandOn 0x08 s (fun m => m.only [(0x10, 4)] && s.live (m.arg 0x10 4)) Mgmt.ctxArg fun m s =>
    let c := m.arg 0x10 4
    match s.begin.preempt 0x08 c (s.coresWith c) with
    | (s, none) => s
    | (s, some n) => s.finish 0 (leBytes 4 n)

/-! ## The save of a whole context -/

/-- One queued task moves to the spill area; none while its part is full. -/
def State.spillTask (s : State) (pod : Nat) (k : Task) : Option State :=
  if !s.spillFree k.ctx pod then none
  else
    let x := s.ctx k.ctx
    let n := Tab.get 0 x.spillHead pod
    let s := match s.writeVA ioCore k.ctx (x.spillAddr pod n) k.bytes (.save k.ctx) with
      | .ok s => s
      | .error _ => s
    some ((s.setSpilled k.ctx pod (s.spilledOf k.ctx pod ++ [{ k with order := n }])).modCtx k.ctx fun y => { y with spillHead := Tab.put y.spillHead pod (n + 1) })

/-- The queued tasks of a context in some pods moved to the spill area. -/
def State.spillHeaps (s : State) (c : Nat) : List (Nat × Task) → Option State
  | [] => some s
  | (pod, k) :: rest =>
    let heap := Tab.get [] s.heaps pod
    match ({ s with heaps := Tab.set [] s.heaps pod (heap.erase k) } : State).spillTask pod k with
    | none => none
    | some s => s.spillHeaps c rest

/-- The context's queued tasks with their pods, in order. -/
def State.queuedTasks (s : State) (c : Nat) : List (Nat × Task) := s.heaps.flatMap fun (pod, l) => (l.filter fun k => k.ctx = c).map fun k => (pod, k)

/-- Every team of a context off its cores, and those as they are saved. -/
def State.unloadAll (s : State) : List Nat → State × List (Nat × Team)
  | [] => (s, [])
  | t :: ts => match s.unload t with
    | (s, none) => s.unloadAll ts
    | (s, some T) =>
      let (s, l) := s.unloadAll ts
      (s, (t, T) :: l)

/-- The teams saved before whose records can no longer be read are lost (R376). -/
def State.loseUnread (s : State) (c : Nat) : List Saved → State
  | [] => s
  | v :: vs => match s.readVA ioCore c ((s.ctx c).saveb.toNat + v.pos) v.len with
    | .ok _ => s.loseUnread c vs
    | .error (f, a) => ((s.modCtx c fun x => { x with saved := x.saved.erase v }).lostTeam v.uid v.team f a).loseUnread c vs

/-- The records of teams that were saved before, as they stand in the save area. -/
def State.savedRecords (s : State) (c : Nat) : List (Option (Nat × Team) × List Byte) :=
  (s.ctx c).saved.filterMap fun v => match s.readVA ioCore c ((s.ctx c).saveb.toNat + v.pos) v.len with
    | .ok b => some (some (v.uid, v.team), b)
    | .error _ => none

/-- Every record of a context's image, each with the team that it is of: launches, teams, couriers, pair launches, multicast entries and
queue state. -/
def State.imageRecords (s : State) (c : Nat) (teams : List (Nat × Team)) : List (Option (Nat × Team) × List Byte) :=
  let bare := fun (l : List (List Byte)) => l.map fun b => ((none : Option (Nat × Team)), b)
  bare ((s.launchesOf c).map s.launchRecord) ++ s.savedRecords c ++ (teams.map fun e => (some e, imageRecord 2 (e.2.recordBody e.1))) ++
  bare (((s.ctx c).savedCouriers.map Courier.recordBytes) ++ ((s.pairsOf c).map s.pairRecord) ++
  (s.mcast.filterMap fun (_, e) => if e.ctx = c then some e.recordBytes else none) ++ [s.queueRecord c])

/-- The team whose record takes in an offset of the image, the records beginning at `at_`. -/
def recordAt (off : Nat) : Nat → List (Option (Nat × Team) × List Byte) → Option (Nat × Team)
  | _, [] => none
  | at_, r :: rs => if off < at_ + r.2.length then r.1 else recordAt off (at_ + r.2.length) rs

/-- What a whole save meets where it cannot be made: an area that is too small, or a fault at an address of the save area, with the team
whose record lies there (R376). -/
inductive SaveFail where
  | room
  | fault (f : FCode) (addr : Nat) (team : Option (Nat × Team))
  deriving Repr

/-- The context's work is gone from the device, and it stands saved. -/
def State.clearWork (s : State) (c : Nat) : State :=
  let s := { s with
    launches := s.launches.filter fun l => l.ctx ≠ c
    pairLaunches := s.pairLaunches.filter fun p => p.ctx ≠ c
    mcast := s.mcast.filter fun e => e.2.ctx ≠ c
    raced := s.raced.filter fun e => e.1 ≠ c }
  s.modCtx c fun x => { x with saving := true, saved := [], savedCouriers := [], courierCores := [] }

/-- A unit stands at a cell boundary: it has no record, it is at the first candidate of a cell, or its full basket holds it (R382). -/
def State.atBoundary (s : State) (p : PairLaunch) (h : Share) : Bool := p.mode = 2 || h.cur.isNone || h.flush || (s.shareCursor p h).2 = 0

/-- The save of a context with nothing in flight, up to its writes: the cores left, and the bytes of the image. -/
def State.saveWhole (s : State) (c : Nat) (cores : List Nat) : Except SaveFail (State × Nat) :=
  let s := (s.flushWhere (fun g => g.ctx = c) true).loseUnread c (s.ctx c).saved
  if s.grids.any fun e => e.2.any fun g => g.ctx = c then .error .room
  else match s.spillHeaps c (s.queuedTasks c) with
    | none => .error .room
    | some s =>
      let (s, teams) := s.unloadAll (s.victimsOf c cores)
      let s := cores.foldl State.parkCourier s
      match s.saveHamper c with
      | .error none => .error .room
      | .error (some e) => .error (.fault e.1 e.2 none)
      | .ok s =>
      let s := s.saveAt c (s.ctxWct c)
      let recs := s.imageRecords c teams
      let b := s.image c (recs.map Prod.snd)
      let base := (s.ctx c).saveb.toNat
      let lost := fun (e : FCode × Nat) => SaveFail.fault e.1 e.2 (recordAt (e.2 - base) 512 recs)
      if (s.ctx c).savel.toNat < b.length then .error .room
      else match s.writeVA ioCore c (base + 512) (b.drop 512) (.save c) with
        | .error e => .error (lost e)
        | .ok s => match s.writeVA ioCore c base (b.take 512) (.save c) with
          | .error e => .error (lost e)
          | .ok s => .ok (s.clearWork c, b.length)

/-- A whole save that cannot be made completes with STATUS 2 (DESIGN CHOICE, log 33). A fault of the save area goes to the host fault
ring, and the team whose record lies there is killed (R376). -/
def State.failSave (s : State) (c : Nat) (e : SaveFail) : State :=
  match e with
  | .room => s.finish 2
  | .fault f a none => (s.hostFault { source := 1, fcode := f.code, ctx := c, addr := a }).finish 2
  | .fault f a (some (t, T)) =>
    if (s.team t).isSome then (s.handlerLost t T f a).finish 2
    else (((s.modCtx c fun x => { x with saved := x.saved.filter fun v => v.uid ≠ t }).lostTeam t T f a)).finish 2

/-- SAVE_CONTEXT_WHOLE (R382, R405): function 0x09. One of a context that stands saved completes with STATUS 2. -/
def execSaveContextWhole (s : State) : Host.Outcome State Fault Refusal :=
  commandOn 0x09 s (fun m => m.only [(0x10, 4)] && s.live (m.arg 0x10 4) &&
      (!(s.ctx (m.arg 0x10 4)).saving || (s.ctx (m.arg 0x10 4)).unload.isSome)) Mgmt.ctxArg fun m s =>
    let c := m.arg 0x10 4
    let s := s.begin
    let done := fun (r : State × Option Nat) => match r with
      | (s, some n) => s.finish 0 (leBytes 8 n)
      | (s, none) => s
    match (s.ctx c).unload with
    | some u => if u.func = 9 then done (s.endSave c u) else s
    | none =>
      let cores := s.coresWith c
      let s := s.setPre cores true
      if !s.settled c (s.victimsOf c cores) cores || !s.areaTakes c || !((s.pairsOf c).all fun p => p.shares.all (s.atBoundary p)) then s
      else match s.saveWhole c cores with
        | .error e => (s.setPre cores false).failSave c e
        | .ok (s, n) =>
          let s := s.startSave c 9 n cores
          match (s.ctx c).unload with
          | some u => done (s.endSave c u)
          | none => s

/-! ## Restore (R387, R388) -/

/-- An image read and split into its parts. -/
structure Parts where
  launches : List (Launch × Nat) := []
  teams : List (Nat × List Byte × TeamHead) := []
  couriers : List Courier := []
  pairs : List (PairLaunch × List ShareHead × List (List Nat)) := []
  entries : List McEntry := []
  queue : Option (List Byte) := none
  deriving DecidableEq, Repr

/-- The parts of some records with the place of each, or none where one breaks its limits (check 4). -/
def readParts (c now : Nat) : Nat → List (List Byte) → Option Parts
  | _, [] => some {}
  | pos, b :: bs =>
    match readParts c now (pos + b.length) bs with
    | none => none
    | some p =>
      let t := field b 0 2
      if t = 0 then some p
      else if t = 1 then (readLaunch c b).map fun l => { p with launches := (l, epochApplied b) :: p.launches }
      else if t = 2 then (readTeamHead b).bind fun h => (({} : Team).fromRecord b).map fun _ => { p with teams := (pos, b, h) :: p.teams }
      else if t = 3 then (readCourier c now b).map fun y => { p with couriers := y :: p.couriers }
      else if t = 4 then (readPairLaunch c b).map fun q => { p with pairs := q :: p.pairs }
      else if t = 5 then (readEntry c b).map fun e => { p with entries := e :: p.entries }
      else if field b 4 4 = 448 then some { p with queue := some b } else none

/-- A range whose every leaf at both stages is valid, pinned, and grants the access (R376). -/
def State.pinnedFuel (s : State) (c : Nat) (k : Acc) : Nat → Nat → Nat → Bool
  | 0, _, _ => true
  | fuel + 1, va, n =>
    if n = 0 then true
    else if !vaOk va then false
    else match s.stage1 c va with
      | .error _ => false
      | .ok l1 => match s.stage2 c (l1.out + va % l1.size) with
        | .error _ => false
        | .ok l2 =>
          let m := min n (4096 - va % 4096)
          k.allows l1.r l1.w l1.x && k.allows l2.r l2.w l2.x && l1.pin && l2.pin && s.pinnedFuel c k fuel (va + m) (n - m)

def State.pinned (s : State) (c : Nat) (k : Acc) (va n : Nat) : Bool := s.pinnedFuel c k (n / 4096 + 2) va n

/-- The handler binding record at an address keeps Table 16-2, and its ranges pass the checks of R376. -/
def State.handlerOk (s : State) (c : Nat) (addr : DWord) : Bool :=
  addr = 0 || addr.toNat % 64 = 0 && match s.readVA ioCore c addr.toNat 64 with
    | .error _ => false
    | .ok b =>
      let f := field b
      let code := f 8 8
      let codel := f 16 4
      code % 4096 = 0 && decide (4096 ≤ codel) && decide (codel ≤ 2 ^ 24) && decide (code ≤ f 0 8) && decide (f 0 8 < code + codel) && decide (1 ≤ f 20 4) && decide (f 20 4 ≤ 6144) &&
      f 24 8 % 4096 = 0 && f 36 4 = 0 && f 40 8 % 16384 = 0 && f 48 8 = 0 && f 56 8 = 0 &&
      s.pinned c .x code codel && s.pinned c .rw (f 24 8) (if f 24 8 = 0 then 0 else f 32 4) && s.pinned c .rw (f 40 8) (16384 * f 20 4) &&
      s.pinned c .rw (s.ctx c).saveb.toNat (s.ctx c).savel.toNat

/-- The executable range of a dictionary is readable for loading (R334, R376): its page translates with X. -/
def State.dictOk (s : State) (c dict : Nat) : Bool := dict = 0 || match s.trans ioCore c .x dict with
  | .ok _ => true
  | .error _ => false

/-- Check 6 of R387: every launch's object passes the first two checks of R277 where it lies, a child grid's too, the dictionaries of launches and
of team records are there, and the handler's ranges pass R376. -/
def State.objectsOk (s : State) (c : Nat) (p : Parts) : Bool :=
  (p.launches.all fun e => (match s.readKObj c e.1.kaddr.toNat with
    | .ok _ => true
    | .error _ => false) && s.dictOk c e.1.kobj.dict.toNat) &&
  (p.teams.all fun e => s.dictOk c e.2.2.kobj.dict.toNat) && (p.pairs.all fun e => s.dictOk c e.1.kobj.dict.toNat) && s.handlerOk c (s.ctx c).handler

/-- The image at SAVEB of a context, or the number of the check of R387 that fails, with the fault that a read of the save area met. -/
def State.readImage (s : State) (c : Nat) : Except (Nat × Option (FCode × Nat)) (List Byte × Parts) :=
  let x := s.ctx c
  let bad := fun (n : Nat) => (Except.error (n, none) : Except (Nat × Option (FCode × Nat)) (List Byte × Parts))
  match s.readVA ioCore c x.saveb.toNat 512 with
  | .error e => .error (2, some e)
  | .ok h =>
    let len := field h 8 8
    if field h 0 4 ≠ 1 then bad 1
    else if len < 512 ∨ x.savel.toNat < len then bad 2
    else match s.readVA ioCore c x.saveb.toNat len with
      | .error e => .error (2, some e)
      | .ok b =>
        if (b.drop 40).take 64 ≠ digestBytes (sha512 (b.drop 104)) then bad 2
        else if field b 32 1 ≠ c ∨ s.teams.any (fun e => e.2.ctx = c) ∨ x.unload.isSome then bad 3
        else match (splitRecords (b.drop 512) (field b 36 4)).bind (readParts c s.gtime 512) with
          | none => bad 4
          | some p =>
            let owned := fun n => bitOf (field b (104 + 32 * n + 16) 4) 31
            if field b 4 4 ≠ 0 ∨ field b 33 3 ≠ 0 ∨ (b.drop 360).take 152 ≠ zeros 152 ∨ !((List.range 8).all (slotClean b)) then bad 4
            else if (List.range 8).any fun n => owned n && (Tab.get {} s.slots n).owned then bad 5
            else if !s.objectsOk c p then bad 6
            else .ok (b, p)

/-- R388 step 1: slot `n` of the header, where it is owned, with its SERIAL, in every shadow at once. -/
def State.restoreSlot (s : State) (b : List Byte) (n : Nat) : State :=
  let o := 104 + 32 * n
  let ctl := field b (o + 16) 4
  if !bitOf ctl 31 then s
  else
    let t := { Tab.get {} s.slots n with key := BitVec.ofNat 64 (field b o 8), payload := BitVec.ofNat 64 (field b (o + 8) 8), owned := true
                                         owner := BitVec.ofNat 6 (ctl / 256), sense := bitOf ctl 0, serial := BitVec.ofNat 31 (field b (o + 20) 4) }
    let s := { s with slots := Tab.set {} s.slots n t, broadcasts := s.broadcasts.map fun (p, l) => (p, l.filter fun e => e.1 ≠ n) }
    (List.range 24).foldl (fun s p => s.setShadow p n t.shadow) s

/-- The position in the child area that an address stands for, at or after the tail. -/
def Ctx.childPos (x : Ctx) (addr : Nat) : Nat :=
  let size := max x.childSize 1
  let off := (addr - x.child.toNat) % size
  x.childTail + (off + size - x.childTail % size) % size

/-- R388 step 2: a launch enters the in-flight table again; a child grid finds its blocks through its table. Of its hamper records those of
the epochs already applied are gone. -/
def State.restoreLaunch (s : State) (e : Launch × Nat) : State :=
  let l := e.1
  let s := { s with hamper := s.hamper.filter fun r => !(r.ctx = l.ctx && r.lid = l.lid && decide (r.epoch < e.2)) }
  let x := s.ctx l.ctx
  let blocks := if l.table = 0 then [] else match s.readVA ioCore l.ctx l.table.toNat 768 with
    | .ok b => (List.range l.gx).map fun i => x.childPos (field b (8 * i) 8)
    | .error _ => []
  let l := { l with
    order := s.order, tpos := x.childPos l.table.toNat, blocks := blocks
    waits := (s.launchesOf l.ctx).filterMap fun m => if l.preds.contains m.lid then some m.order else none
    paramBytes := if l.table ≠ 0 then [] else match s.readVA ioCore l.ctx l.param.toNat 64 with
      | .ok b => b
      | .error _ => [] }
  { s with launches := s.launches ++ [l], order := s.order + 1 }

/-- Tasks of a launch that run in the saved teams listed. -/
def runningTasks (l : Launch) (ts : List (Nat × List Byte × TeamHead)) : Nat := (ts.filter fun e => e.2.2.kind = .task && e.2.2.lid = l.lid).length

/-- The launches to which spilled records count, each once per task outstanding and not running, in order. -/
def taskOwners (ls : List Launch) (ts : List (Nat × List Byte × TeamHead)) : List Launch := ls.flatMap fun l => List.replicate (l.tasks - runningTasks l ts) l

/-- A spilled record of which the device holds nothing beside it: it counts to a launch with tasks outstanding. -/
def Launch.spilledTask (l : Launch) (n : Nat) : Task :=
  { ctx := l.ctx, lid := l.lid, payload := [], bound := 0, entry := l.kobj.entry, slot := 0, kobj := l.kobj
    id := { gridx := BitVec.ofNat 32 l.gx, gridy := BitVec.ofNat 32 l.gy, gridz := BitVec.ofNat 32 l.gz, param := l.param }, order := n }

/-- The spilled records of some pods known again, from the heads and tails of the queue state. -/
def State.restoreSpilled (s : State) (c : Nat) (b : List Byte) : List Nat → List Launch → State
  | [], _ => s
  | p :: ps, owners =>
    let head := field b (24 + 16 * p) 8
    let tail := field b (32 + 16 * p) 8
    let n := head - tail
    let s := if (s.spilledOf c p).length = n then s
      else s.setSpilled c p ((List.range n).filterMap fun i => (owners[i]?).map fun l => l.spilledTask (tail + i))
    s.restoreSpilled c b ps (owners.drop n)

/-- Gaps between the places in use from a position to the head, the places rising. -/
def childGaps (from_ head : Nat) : List (Nat × Nat) → List (Nat × Nat)
  | [] => if from_ < head then [(from_, head - from_)] else []
  | (a, n) :: t => (if from_ < a then [(from_, a - from_)] else []) ++ childGaps (max from_ (a + n)) head t

def insertPlace (e : Nat × Nat) : List (Nat × Nat) → List (Nat × Nat)
  | [] => [e]
  | f :: t => if e.1 ≤ f.1 then e :: f :: t else f :: insertPlace e t

/-- The places of the child area in use: every child grid's table, and the blocks of its teams that have not ended. -/
def childInUse (ls : List Launch) (ts : List (Nat × List Byte × TeamHead)) : List (Nat × Nat) :=
  (ls.filter fun l => l.table ≠ 0).flatMap fun l =>
    (l.tpos, 768) :: (List.range l.blocks.length).filterMap fun n =>
      if l.nextTeam ≤ n || ts.any (fun e => e.2.2.kind = .team && e.2.2.lid = l.lid && e.2.2.teamn.toNat = n) then (l.blocks[n]?).map fun p => (p, 64) else none

/-- Queue state read back: hamper log, spill parts, child area and aggregator serial. -/
def Ctx.fromQueueRecord (x : Ctx) (b : List Byte) : Ctx :=
  { x with hlogProd := field b 8 8, hlogCons := field b 16 8, spillHead := (List.range 24).foldl (fun t p => Tab.put t p (field b (24 + 16 * p) 8)) [], childHead := field b 408 8
           childTail := field b 416 8, childSerial := field b 424 4 }

/-- Set B binned again at the launch's edge, without counting; the records with positions that are not finite. -/
def State.rebinPoints (s : State) (p : PairLaunch) : List Nat → List (Nat × List Int) × List Nat
  | [] => ([], [])
  | j :: js =>
    let (ps, bad) := s.rebinPoints p js
    match s.position p true j with
    | .error _ => (ps, bad)
    | .ok q => if q.all finite then ((j, q.map fixed) :: ps, bad) else (ps, j :: bad)

/-- A pair of a basket entered again. -/
def State.rebasket (s : State) (p : PairLaunch) (e : Nat × Nat) : Option BasketPair :=
  match s.position p false e.1, s.position p true e.2 with
  | .ok a, .ok b =>
    let g := p.geometry a b
    let cls := match (if p.mode = 2 && !bitOf (p.f 49 1) 1 then .ok none else s.excluded p e.1 e.2) with
      | .ok (some n) => n
      | _ => 0
    some { i := BitVec.ofNat 32 e.1, j := BitVec.ofNat 32 e.2, dx := g.getD 0 0, dy := g.getD 1 0, dz := g.getD 2 0, r2 := g.getD 3 0, cls := BitVec.ofNat 2 cls }
  | _, _ => none

/-- A unit of a restored pair launch, in a pod: its grid rebuilt at EDGE, in its part of the scratch area too, its cursor and its basket. -/
def State.restoreShare (s : State) (p : PairLaunch) (pts : List (Nat × List Int)) (pod : Nat) (h : ShareHead) : State × Share :=
  let lo := extent pts min
  let hi := extent pts max
  let edge := (fixed p.edge).toNat
  let n := p.axes lo hi edge
  let binned := p.mode ≠ 2 && edge ≠ 0
  let cells := p.fillCells lo hi edge n pts
  let part := (s.ctx p.ctx).pscrl.toNat / 24
  let fits := decide (startBytes (cellCount n) + 4 * p.f 32 4 ≤ part)
  let g : Share := if binned then { pod := pod, binned := true, lo := lo, hi := hi, edge := edge, cellsOn := n, cells := if fits then cells else [] } else { pod := pod }
  let index := match h.cur with
    | none => 0
    | some i => match s.position p false i with
      | .ok a => h.index + (((g.cellLists p i a).take h.cell).map List.length).foldl (· + ·) 0
      | .error _ => 0
  let basket := h.basket.filterMap (s.rebasket p)
  let s := if !binned || !fits then s else match s.writeScratch p.ctx ((s.ctx p.ctx).pscr.toNat + pod * part) (gridBytes (cellCount n) cells) with
    | .ok t => t
    | .error _ => s
  (s, { g with cur := h.cur, index := index, basket := basket, basketAt := s.gtime, flush := decide (96 ≤ basket.length) })

/-- The units of a restored pair launch, one to a pod that PODS allows, in order. -/
def State.restoreShares (s : State) (p : PairLaunch) (pts : List (Nat × List Int)) : List Nat → List ShareHead → State × List Share
  | pod :: pods, h :: hs =>
    let (s, g) := s.restoreShare p pts pod h
    let (s, l) := s.restoreShares p pts pods hs
    (s, g :: l)
  | _, _ => (s, [])

/-- R388 step 4: a pair launch in flight again, with its units reloaded, and what had raced with it. -/
def State.restorePair (s : State) (ts : List (Nat × List Byte × TeamHead)) (q : PairLaunch × List ShareHead × List (List Nat)) : State :=
  let p := q.1
  let own := q.2.2
  let s := { s with raced := (s.raced.filter fun (e : Nat × Nat × Race) => e.1 ≠ p.ctx ∨ e.2.1 ≠ p.lid) ++ (inTriples (ownList own 1)).map fun (e : Nat × Nat × Nat) => (p.ctx, p.lid, raceBack e) }
  let (pts, bad) := if p.mode = 2 then ([], []) else s.rebinPoints p (List.range (p.f 32 4))
  let real := bad.map fun j => (!sameSets p.desc, j)
  let p := { p with nanpos := if p.edge = 0 then p.nanpos else (real ++ p.nanpos).take p.nanpos.length
                    live := (ts.filter fun (e : Nat × List Byte × TeamHead) => e.2.2.kind = Kind.pair && e.2.2.lid = p.lid).length }
  let (s, shares) := s.restoreShares p pts ((List.range 24).filter (podAllowed (p.f 108 4))) q.2.1
  let p := { p with shares := shares, pages := s.pairPages ioCore p.ctx p.desc, ring := s.pieces ioCore p.ctx (p.f 160 8) (p.f 168 4), shared := s.ringBack p (inPairs (ownList own 2)) }
  let s := s.enterPairs p
  s.modCtx p.ctx fun x => { x with nextPair := max x.nextPair (if p.lid + 1 = 2 ^ 32 then 1 else p.lid + 1) }

/-- A multicast entry recreated in the first free place of the tables. -/
def State.restoreEntry (s : State) (e : McEntry) : State :=
  match Tab.free s.mcast 0 1024 with
  | some k => { s with mcast := Tab.put s.mcast k e }
  | none => s

/-- The identity of a restored team, which its record keeps (R233). -/
def TeamHead.ident (h : TeamHead) : Ident :=
  let v := ownAt h.own 0
  { teamx := h.teamx, teamy := h.teamy, teamz := h.teamz, teamn := h.teamn, gkind := BitVec.ofNat 2 h.kind.code, teamg := BitVec.ofNat 5 h.kobj.teamg
    gridx := BitVec.ofNat 32 (v 2), gridy := BitVec.ofNat 32 (v 3), gridz := BitVec.ofNat 32 (v 4), param := BitVec.ofNat 64 (v 5)
    clusx := BitVec.ofNat 2 (v 6), clusy := BitVec.ofNat 2 (v 7), width := BitVec.ofNat 4 (v 8), height := BitVec.ofNat 4 (v 9) }

/-- What a restored team has beside its record: a number, its identity, and what the record leaves out. -/
def State.restoredTeam (s : State) (c : Nat) (b : List Byte) (h : TeamHead) : Team :=
  let id := h.ident
  let lid := if ownAt h.own 0 1 = 1 then 2 ^ 33 + h.lid else h.lid
  let gs : Tab Grp := (List.range h.ngroup).map fun j =>
    let seen := s.hamper.filter fun r => r.ctx = c && r.lid = lid && r.teamn = h.teamn.toNat && r.gint = j
    (j, { id := { id with gint := BitVec.ofNat 4 j }, hcount := seen.foldl (fun n r => max n (r.prog + 1)) 0, last := s.gtime })
  let T : Team := { ctx := c, lid := lid, kind := h.kind, cluster := 2 ^ 40 + s.nextUid, groups := gs }
  (T.fromRecord b).getD T

/-- The number that a team had when it was saved gives way to its new one, in the barrier objects that copies are bound to and in the marks
of overwritten operands. -/
def State.renumber (s : State) (c old new : Nat) : State :=
  let copy := fun (p : Copy) => { p with bound := p.bound.map fun (b : Nat × Nat × BitVec 16) => if b.1 = old then (new, b.2) else b }
  let s := { s with stale := s.stale.map fun (k : Nat × Nat × BitVec 16 × Nat) => if k.1 = old then (new, k.2) else k }
  s.modCtx c fun x => { x with savedCouriers := x.savedCouriers.map fun (y : Courier) => { y with copies := y.copies.map copy } }

/-- The records of a context's spill log known again (R389), each at the place where its address lies now. One that cannot be found goes to the
host fault ring (R376). -/
def State.restoreHamper (s : State) (c : Nat) : List Nat → State
  | [] => s.modCtx c fun x => { x with hlogCons := x.hlogProd - (s.hamper.filter fun r => r.ctx = c).length }
  | k :: ks =>
    let lost := fun (f : FCode) (a : Nat) => s.hostFault { source := 1, fcode := f.code, ctx := c, addr := a }
    match s.readVA ioCore c ((s.ctx c).hlogAddr k) 32 with
    | .error (f, a) => (lost f a).restoreHamper c ks
    | .ok b => match s.trans ioCore c .rw (field b 0 8) with
      | .error f => (lost f (field b 0 8)).restoreHamper c ks
      | .ok t => ({ s with hamper := s.hamper ++ [readHRec c b t] } : State).restoreHamper c ks

/-- R388 step 6: the team records are handed to dispatch. -/
def State.restoreTeams (s : State) (c : Nat) : List (Nat × List Byte × TeamHead) → State
  | [] => s
  | (pos, b, h) :: rest =>
    let T := s.restoredTeam c b h
    let uid := s.nextUid
    let frames := T.groups.filterMap fun e => e.2.frame.map BitVec.toNat
    let s := ({ s with nextUid := uid + 1 } : State).modCtx c fun x =>
      { x with saved := x.saved ++ [{ uid := uid, team := T, pos := pos, len := b.length }], frames := (x.frames ++ frames).eraseDups }
    let s := s.renumber c (ownAt h.own 0 0) uid
    let s := { s with hamper := s.hamper.map fun (r : HRec) => if r.ctx = c && r.lid = T.lid && r.teamn = h.teamn.toNat then { r with team := uid } else r }
    -- Membership of entries resumes under the team's new number.
    let s := { s with mcast := s.mcast.map fun ((k, e) : Nat × McEntry) => (k,
      if e.ctx = c && e.lid = T.lid && e.cluster = T.cluster then { e with members := Tab.modify e.members T.rank fun m => { m with team := uid } } else e) }
    s.restoreTeams c rest

/-- A successful restore: the steps of R388 in order. -/
def State.restoreAll (s : State) (c : Nat) (b : List Byte) (p : Parts) : State :=
  let s := (List.range 8).foldl (fun s n => s.restoreSlot b n) s
  let s := match p.queue with
    | some q => (s.modCtx c fun x => x.fromQueueRecord q).restoreHamper c ((List.range (field q 8 8 - field q 16 8)).map (field q 16 8 + ·))
    | none => s
  let s := p.launches.foldl State.restoreLaunch s
  let s := s.modCtx c fun x => { x with saving := false, resident := false, left := s.gtime, gap := (s.gtime + 2 ^ 64 - field b 16 8 % 2 ^ 64) % 2 ^ 64 }
  let s := match p.queue with
    | some q => s.restoreSpilled c q (List.range 24) (taskOwners (s.launchesOf c) p.teams)
    | none => s
  let s := (List.range 24).foldl (fun s pod => s.refill pod c 4096) s
  let s := s.modCtx c fun x => { x with childFree := childGaps x.childTail x.childHead ((childInUse (s.launchesOf c) p.teams).foldr insertPlace []) }
  let s := p.entries.foldl State.restoreEntry s
  let s := p.pairs.foldl (fun s q => s.restorePair p.teams q) s
  let s := s.modCtx c fun x => { x with savedCouriers := p.couriers, couriers := p.couriers.foldl (fun n y => max n (y.num + 1)) 0, courierCores := [] }
  s.restoreTeams c p.teams

/-- What the units of a pair launch read as it is restored: set B, and the records of their cursors and baskets. -/
def pairRestoreReads (q : PairLaunch × List ShareHead × List (List Nat)) : List (Nat × Nat) :=
  q.1.binReads ++ q.2.1.flatMap fun (h : ShareHead) => h.cur.toList.map (fun i => (q.1.posAddr false i, 12)) ++ h.basket.flatMap fun (e : Nat × Nat) => [(q.1.posAddr false e.1, 12), (q.1.posAddr true e.2, 12)]

/-- Everything that a restore reads beside the image can be reached (R325, R402). -/
def State.partsReady (s : State) (c : Nat) (p : Parts) : Bool :=
  let x := s.ctx c
  s.allTake ||
    ((p.launches.all fun e => s.vaReady ioCore c .r e.1.kaddr.toNat 64 && (if e.1.table = 0 then s.vaReady ioCore c .r e.1.param.toNat 64 else s.vaReady ioCore c .r e.1.table.toNat 768)) &&
    (p.pairs.all fun q => s.unitReady q.1 (pairRestoreReads q)) && s.vaReady ioCore c .rw x.pscr.toNat x.pscrl.toNat && s.vaReady ioCore c .r x.hlog.toNat x.hlogl.toNat &&
    s.vaReady ioCore c .r x.handler.toNat 64)

/-- RESTORE_CONTEXT (R387, R388, R405): function 0x0A; a failed check completes with STATUS 3 and its number. -/
def execRestoreContext (s : State) : Host.Outcome State Fault Refusal :=
  commandOn 0x0A s (fun m => m.only [(0x10, 4)] && decide (m.arg 0x10 4 < 64)) Mgmt.ctxArg fun m s =>
    let c := m.arg 0x10 4
    if !(s.ctx c).live then s.finish 3 (leBytes 4 3)
    else if !s.areaTakes c then s
    else match s.readImage c with
      | .error (n, e) =>
        let s := match e with
          | some (f, a) => s.hostFault { source := 1, fcode := f.code, ctx := c, addr := a }
          | none => s
        s.finish 3 (leBytes 4 n)
      | .ok (b, p) => if !s.partsReady c p then s else (s.restoreAll c b p).finish 0 (leBytes 4 0)

/-! ## The restore of a team -/

/-- A saved team with its context, numbered across the contexts. -/
def State.savedList (s : State) : List (Nat × Saved) := s.ctxs.flatMap fun (c, x) => if x.saving then [] else x.saved.map fun v => (c, v)

/-- Where the DIRTY line at a stash offset of a team has its home now. -/
def State.dirtyHome (s : State) (T : Team) (off : Nat) : Option Nat :=
  (T.winAt off).bind fun (w, i) => (Tab.find T.wins w).bind fun W => match s.trans T.core T.ctx .r (W.base.toNat + 128 * i) with
    | .ok t => some (lineOf t.pa)
    | .error _ => none

/-- A saved team's record can be read, and its DIRTY lines owned again: no home of one holds writes of another stash to it (R34, R325, R402). -/
def State.recordReady (s : State) (c core : Nat) (v : Saved) : Bool :=
  let a := (s.ctx c).saveb.toNat + v.pos
  (s.allTake || s.vaReady ioCore c .rw a v.len) && match s.readVA ioCore c a v.len with
    | .error _ => true
    | .ok b => match v.team.fromRecord b, readTeamHead b with
      | some T, some h => h.dirty.all fun o => match s.dirtyHome { T with core := core } o with
        | some ln => !s.recallHeld ln && s.takes (ln * 128)
        | none => true
      | _, _ => true

/-- A DIRTY line of the record is owned again, with what stood under it (R388, R262). Where its address no longer translates, the line stays DIRTY in the window, and its
home is found when it is written back (R381). -/
def State.ownDirty (s : State) (t off : Nat) (was : Under) : State :=
  match s.team t with
  | none => s
  | some T => match T.winAt off with
    | none => s
    | some (w, i) => match Tab.find T.wins w with
      | none => s
      | some W => match s.trans T.core T.ctx .r (W.base.toNat + 128 * i) with
        | .error _ => s.modTeam t fun T => { T with wins := Tab.modify T.wins w fun W => { W with lines := Tab.put W.lines i { pa := noLine, dirty := true, was := was } } }
        | .ok tr =>
          let ln := lineOf tr.pa
          let s := (s.recall ln).modLine ln fun l => { l with owner := some t }
          s.modTeam t fun T => { T with wins := Tab.modify T.wins w fun W =>
            { W with lines := Tab.put W.lines i { pa := ln, dirty := true, leaf := tr.leaf, ipa := tr.ipa, lsz := tr.lsz, dset := tr.d, was := was } } }

/-- The operations of a restored group find their operands again; an operand that cannot be found (R376) is a fault. -/
def State.findOps (s : State) (t : Nat) (T : Team) : List MatOp → Except (FCode × Nat) (List MatOp)
  | [] => .ok []
  | o :: os => match s.findOps t T os with
    | .error e => .error e
    | .ok l =>
      if o.st ≠ .issued then .ok (o :: l)
      else match s.matCheck t T o with
        | .error (f, _, a) => .error (f, a)
        | .ok o => .ok (o :: l)

def State.findTeamOps (s : State) (t : Nat) (T : Team) : List (Nat × Grp) → Except (FCode × Nat) State
  | [] => .ok s
  | (j, g) :: rest => match s.findOps t T g.mops with
    | .error e => .error e
    | .ok l => (s.modGrp t j fun g => { g with mops := l }).findTeamOps t T rest

/-- Multicast entries of a team's cluster resume under its new identifier, on the die where it stands now; a sequence under
delivery whose bytes are not held is read again. -/
def State.mcResume (s : State) (t : Nat) (T : Team) : State :=
  (s.mcast.filter fun (_, e) => e.members.any fun m => m.2.team = t).foldl (fun s (k, e) =>
    let e := { e with members := e.members.map fun ((r, m) : Nat × McMember) => (r, if m.team = t then { m with susp := false, stashid := T.stashid } else m) }
    let key := if k / 256 = dieOf T.core then k else (Tab.free (Tab.del s.mcast k) (256 * dieOf T.core) 256).getD k
    let (s, seqs) := e.seqs.foldl (fun ((s, l) : State × List McSeq) (q : McSeq) =>
      let q := if q.pas.isEmpty then { q with pas := s.sectorPAs T.core T.ctx q.addr q.len } else q
      if q.delivering && q.data.isEmpty then
        let (s, data, tags, bad) := s.mcRead (k / 256) q.pas
        (s, l ++ [{ q with data := data, tags := tags, dataErr := q.dataErr || bad }])
      else (s, l ++ [q])) (s, [])
    { s with mcast := Tab.put (Tab.del s.mcast k) key { e with seqs := seqs } }) s

/-- A restored team made resident: the stash and the registers of its record, a new identifier, its windows' DIRTY lines, its
operations and its multicast membership. -/
def State.bringBack (s : State) (uid core : Nat) (T : Team) (dirty : List (Nat × Under)) : State :=
  let slot := (Tab.free (s.core core).slots 0 16).getD 0
  let (v, s) := s.takeId core T.kobj.stash
  let T : Team := { T with
    core := core, slot := slot, stashid := v
    groups := T.groups.map fun ((j, g) : Nat × Grp) => (j, { g with id := { g.id with stashid := v }, last := (s.core core).cyc }) }
  let s := s.enterCore core T.ctx
  let s := s.modCore core fun k => { k with slots := Tab.put k.slots slot uid }
  let s := { s with teams := Tab.put s.teams uid T }
  let s := s.noteMred core
  let s := dirty.foldl (fun s e => s.ownDirty uid e.1 e.2) s
  let s := s.mcResume uid T
  match s.findTeamOps uid T T.groups with
  | .ok s => s
  | .error (f, a) => s.handlerLost uid T f a

/-- One saved team restored from its record, which becomes free (R384). -/
def State.restoreOne (s : State) (c core : Nat) (v : Saved) : State :=
  let a := (s.ctx c).saveb.toNat + v.pos
  let got := s.readVA ioCore c a v.len
  let s := s.modCtx c fun x => { x with saved := x.saved.erase v }
  match got with
  | .error (f, e) => s.lostTeam v.uid v.team f e
  | .ok b => match v.team.fromRecord b, readTeamHead b with
    | some T, some h => match s.writeVA ioCore c a (zeros 2) (.save c) with
      | .ok s => s.bringBack v.uid core T ((List.range h.dirty.length).map fun i => (h.dirty.getD i 0, underBack ((ownList h.own 2).drop (12 * i))))
      | .error (f, e) => s.lostTeam v.uid v.team f e
    | _, _ => s.lostTeam v.uid v.team .address a

/-- The core that rank `r` of a cluster takes, the first core being rank 0's (R22). -/
def rankCore (k : KObj) (core r : Nat) : Nat := core + r % k.cx + 4 * (r / k.cx)

/-- The pods where a team may run: those of its launch, or of its pair launch (R30, R31, R382). -/
def State.podsOf (s : State) (T : Team) : Nat :=
  let pair := fun (lid : Nat) => ((s.pairLaunch T.ctx lid).map fun p => p.f 108 4).getD 0
  if T.kind = .pair then pair T.lid
  else if 2 ^ 33 ≤ T.lid then pair (T.lid - 2 ^ 33)
  else ((s.launch T.ctx T.lid).map Launch.pods).getD 0

/-- TEAM_RESTORE (R388): saved team `k` with the saved teams of its cluster, onto cores with room that its launch allows, the
first core being that of rank 0. -/
def execTeamRestore (k core : Nat) (s : State) : Host.Outcome State Fault Refusal :=
  event (match s.savedList[k]? with
    | none => s
    | some (c, v) =>
      let T : Team := v.team
      let all := (s.ctx c).saved.filter fun w => w.uid = v.uid || w.team.mates T
      let place := fun (w : Saved) => rankCore T.kobj core w.team.rank
      let shape := decide (T.kind ≠ Kind.team) || rectangle T.kobj.cx T.kobj.cy ((List.range (T.kobj.cx * T.kobj.cy)).map (rankCore T.kobj core))
      if !shape || (s.ctx c).unload.isSome || !(all.all fun w => podAllowed (s.podsOf w.team) (podOf (place w)) && s.fits (place w) c w.team.kobj w.team.groups.length && s.recordReady c (place w) w) then s
      else all.foldl (fun s w => s.restoreOne c (place w) w) s)

end Sys2Proof.Machine
end

