-- ==== Sys2Proof/Machine/Mgmt.lean ====
section
/-! DEFINITION. The management functions (R393 to R395, R400, R401, R403 to R405), each an event that performs a waiting
command of its function, and the host's writes of the window. -/

namespace Sys2Proof.Machine

/-! ## Host writes of the window (Table 17-3) -/

/-- Byte `i` of a 32-bit field replaced. -/
def putByte (w : Word) (i : Nat) (b : Byte) : Word :=
  (w &&& ~~~(BitVec.ofNat 32 (255 * 2 ^ (8 * i)))) ||| BitVec.ofNat 32 (b.toNat * 2 ^ (8 * i))

/-- One byte of the window written; SEQ, STATUS, RESULT and what reads 0 are not written, nor is the mailbox while the firmware
image runs. -/
def Mgmt.writeByte (m : Mgmt) (recovery : Bool) (o : Nat) (b : Byte) : Mgmt :=
  if o < 4 then { m with door := putByte m.door o b }
  else if 0xC ≤ o ∧ o < 0x10 then { m with func := putByte m.func (o - 0xC) b }
  else if 0x10 ≤ o ∧ o < 0x100 then { m with args := Tab.set 0 m.args o b }
  else if !recovery then m
  else if 0x8000 ≤ o ∧ o < 0x8004 then { m with rdoor := putByte m.rdoor (o - 0x8000) b }
  else if 0x800C ≤ o ∧ o < 0x8010 then { m with rcmd := putByte m.rcmd (o - 0x800C) b }
  else if 0x8010 ≤ o ∧ o < 0x8014 then { m with roffset := putByte m.roffset (o - 0x8010) b }
  else if 0x8014 ≤ o ∧ o < 0x8018 then { m with rlength := putByte m.rlength (o - 0x8014) b }
  else if 0x8080 ≤ o ∧ o < 0x8100 then { m with rdata := Tab.set 0 m.rdata (o - 0x8080) b }
  else m

def Mgmt.writeBytes (m : Mgmt) (recovery : Bool) : Nat → List Byte → Mgmt
  | _, [] => m
  | o, b :: bs => (m.writeByte recovery o b).writeBytes recovery (o + 1) bs

/-- The sequence number of the last door written. -/
def Mgmt.last (m : Mgmt) : Word := (m.cmds.getLast?.map Cmd.door).getD m.seq

/-- A door that asks for a new command takes the command area as it stands (R394). -/
def Mgmt.knock (m : Mgmt) : Mgmt :=
  if m.door = m.last then m else { m with cmds := m.cmds ++ [{ door := m.door, func := m.func, args := m.args }] }

/-- REGISTER_WRITE (R394): a write that reaches DOOR asks for a command. In recovery no command is taken (R401). -/
def execRegisterWrite (off : Nat) (data : List Byte) (s : State) : Host.Outcome State Fault Refusal :=
  let m := s.mgmt.writeBytes s.firmware.recovery off data
  event { s with mgmt := if off < 4 ∧ data ≠ [] ∧ !s.firmware.recovery then m.knock else m }

/-- Byte `i` of a word. -/
def byteOf (w : Word) (i : Nat) : Byte := BitVec.ofNat 8 (w.toNat / 2 ^ (8 * i))

/-- What the host reads at an offset of the window (Table 17-3, R401): the mailbox reads 0 while the firmware image runs, and in recovery nothing
but the mailbox answers. -/
def Mgmt.readByte (m : Mgmt) (recovery : Bool) (o : Nat) : Byte :=
  if recovery then
    if o < 0x8000 then 0
    else if o < 0x8004 then byteOf m.rdoor (o - 0x8000)
    else if o < 0x8008 then byteOf m.rseq (o - 0x8004)
    else if o < 0x800C then byteOf m.rstatus (o - 0x8008)
    else if o < 0x8010 then byteOf m.rcmd (o - 0x800C)
    else if o < 0x8014 then byteOf m.roffset (o - 0x8010)
    else if o < 0x8018 then byteOf m.rlength (o - 0x8014)
    else if 0x8080 ≤ o ∧ o < 0x8100 then Tab.get 0 m.rdata (o - 0x8080)
    else 0
  else if o < 4 then byteOf m.door o
  else if o < 8 then byteOf m.seq (o - 4)
  else if o < 0xC then byteOf m.status (o - 8)
  else if o < 0x10 then byteOf m.func (o - 0xC)
  else if o < 0x100 then Tab.get 0 m.args o
  else if o < 0x200 then Tab.get 0 m.result o
  else 0

/-- The host's read of the window. -/
def State.windowRead (s : State) (off n : Nat) : List Byte := (List.range n).map fun i => s.mgmt.readByte s.firmware.recovery (off + i)

/-! ## Contexts (R371, R404, R405) -/

/-- The context table entry in ARGS (Table 17-7). -/
def Mgmt.entry (m : Mgmt) : Ctx :=
  let d := fun o => BitVec.ofNat 64 (m.arg o 8)
  { live := true, priv := bitOf (m.arg 0x10 1) 7, quant := m.arg 0x14 4, wdog := m.arg 0x18 4, dlthr := m.arg 0x1C 4, s1root := d 0x20, s2root := d 0x28, handler := d 0x30, centry := d 0x38
    cparam := d 0x40, saveb := d 0x48, savel := d 0x50, tspill := d 0x58, tspilll := d 0x60, child := d 0x68, childl := d 0x70, hlog := d 0x78, hlogl := d 0x80, pscr := d 0x88
    pscrl := d 0x90, cntblk := d 0x98, dlogb := d 0xA0, dlogs := m.arg 0xA8 4 }

/-- A power of two in a range of exponents. -/
def powerIn (n lo hi : Nat) : Bool := (List.range (hi - lo + 1)).any fun i => n = 2 ^ (lo + i)

/-- Physical bytes in local device memory. -/
def inLocal (a n : Nat) : Bool := decide (a + n ≤ Config.localBytes)

/-- Physical bytes in host or local device memory: regions 0x0 and 0x4 (R253, R313, R401). -/
def inHostOrLocal (a n : Nat) : Bool := decide (a + n ≤ 2 ^ 52) && (inLocal a n || (isHost a && isHost (a + n - 1)))

/-- The limits of Table 17-7 and of the columns of Table 16-1. -/
def Ctx.limits (x : Ctx) : Bool :=
  let page := fun (a : DWord) => a.toNat % 4096 = 0
  x.s1root.toNat % 2 ^ 15 ≤ 1 && decide (x.s1root.toNat < 2 ^ 52) && x.s2root.toNat % 2 ^ 15 ≤ 7 && decide (x.s2root.toNat < 2 ^ 52) &&
  x.handler.toNat % 64 = 0 && decide (x.handler.toNat < 2 ^ 60) && x.centry.toNat % 4 = 0 && decide (x.centry.toNat < 2 ^ 60) && x.cparam.toNat % 64 = 0 &&
  page x.saveb && decide (65536 ≤ x.savel.toNat) && page x.tspill && x.tspilll.toNat % 1536 = 0 && decide (64 ≤ x.tspilll.toNat / 1536) &&
  page x.child && decide (65536 ≤ x.childl.toNat) && page x.hlog && decide (2 ^ 20 ≤ x.hlogl.toNat) && page x.pscr && x.pscrl.toNat % (24 * 4096) = 0 &&
  page x.cntblk && (x.cntblk = 0 || inLocal x.cntblk.toNat 512) &&
  (if x.dlogb = 0 then !x.dlog else page x.dlogb && powerIn x.dlogs 12 24 && inLocal x.dlogb.toNat x.dlogs)

/-- Every area of a context is mapped in local device memory with R and W at both stages, the word at the courier's entry and its 64-byte parameter
block too (log 72), and the save area is pinned; the handler binding passes its checks (R371, R376). -/
def State.areasOk (s : State) (c : Nat) : Bool :=
  let x := s.ctx c
  let ok := fun (a l : DWord) => match s.checkLocal ioCore c .rw a.toNat l.toNat with
    | .ok _ => true
    | .error _ => false
  ok x.saveb x.savel && ok x.tspill x.tspilll && ok x.child x.childl && ok x.hlog x.hlogl && ok x.pscr x.pscrl &&
  (x.handler = 0 || ok x.handler 64) && (x.centry = 0 || (ok x.centry 4 && ok x.cparam 64)) && s.pinned c .rw x.saveb.toNat x.savel.toNat && s.handlerOk c x.handler

/-- The fields that a rewrite may not change are equal. -/
def Ctx.sameAreas (x y : Ctx) : Bool :=
  x.centry = y.centry && x.cparam = y.cparam && x.saveb = y.saveb && x.savel = y.savel && x.tspill = y.tspill && x.tspilll = y.tspilll && x.child = y.child && x.childl = y.childl &&
  x.hlog = y.hlog && x.hlogl = y.hlogl && x.pscr = y.pscr && x.pscrl = y.pscrl && x.cntblk = y.cntblk && x.dlogb = y.dlogb && x.dlogs = y.dlogs

/-- The fields that a rewrite may change. -/
def Ctx.rewrite (x y : Ctx) : Ctx :=
  { x with priv := y.priv, quant := y.quant, wdog := y.wdog, dlthr := y.dlthr, s1root := y.s1root, s2root := y.s2root, handler := y.handler }

/-- CONTEXT_SETUP (R404): function 0x01. A new context's GAP is GTIME (R341); a write of the roots first invalidates every cached
translation of the context (R322). -/
def execContextSetup (s : State) : Host.Outcome State Fault Refusal :=
  commandOn 0x01 s (fun m => m.only [(0x10, 1), (0x14, 0x98)] && !bitOf (m.arg 0x10 1) 6 && m.entry.limits) (fun m => some (m.arg 0x10 1 % 64)) fun m s =>
    let c := m.arg 0x10 1 % 64
    let x := s.ctx c
    let s' := s.tlbDrop c (tlbMatches c 3 0)
    let s' := s'.modCtx c fun _ => if x.live then x.rewrite m.entry else { m.entry with gap := s.gtime, left := s.gtime }
    if (x.live && !x.sameAreas m.entry) || !s'.areasOk c then s.finish 2 else s'.finish 0

/-- Work of a context that keeps it from being removed (Table 17-8). -/
def State.busy (s : State) (c : Nat) : Bool :=
  (s.teams.any fun e => e.2.ctx = c) || !(s.ctx c).saved.isEmpty || !(s.launchesOf c).isEmpty || !(s.pairsOf c).isEmpty ||
  (s.cores.any fun e => e.2.courier.any fun y => y.ctx = c && !y.copies.isEmpty) || (s.ctx c).savedCouriers.any fun y => !y.copies.isEmpty

/-- A slot loses its owner, in every shadow. -/
def State.disownSlot (s : State) (c n : Nat) : State :=
  if !s.slotOwned n c then s
  else
    let t := { s.slotAt n with owned := false }
    let s := { s with slots := Tab.set {} s.slots n t, broadcasts := s.broadcasts.map fun (p, l) => (p, l.filter fun b => b.1 ≠ n) }
    (List.range 24).foldl (fun s p => s.setShadow p n t.shadow) s

/-- A context removed: its queues disabled, its slots unowned, its couriers and its entry gone, with what its table entry's areas
stood for. -/
def State.removeCtx (s : State) (c : Nat) : State :=
  let s := (s.queues.map Prod.fst).foldl (fun s n => if (s.queue n).ctx = c then s.setQueue n { s.queue n with enable := false } else s) s
  let s := (List.range 8).foldl (fun s n => s.disownSlot c n) s
  let s := (s.coresWith c).foldl (fun s k => (s.modCore k fun y => { y with courier := none }).vacate k) s
  let s := { s with
    hamper := s.hamper.filter fun r => r.ctx ≠ c
    counts := s.counts.filter fun a => a.ctx ≠ c
    heaps := s.heaps.filterMap fun ((p, l) : Nat × List Task) =>
      let l := l.filter fun (k : Task) => k.ctx ≠ c
      if l.isEmpty then none else some (p, l)
    spilled := s.spilled.filter fun e => e.1 / 24 ≠ c
    mcast := s.mcast.filter fun e => e.2.ctx ≠ c
    raced := s.raced.filter fun e => e.1 ≠ c }
  s.modCtx c fun _ => {}

/-- CONTEXT_TEARDOWN (R405): function 0x02. -/
def execContextTeardown (s : State) : Host.Outcome State Fault Refusal :=
  commandOn 0x02 s (fun m => m.only [(0x10, 4)] && s.live (m.arg 0x10 4)) Mgmt.ctxArg fun m s =>
    let c := m.arg 0x10 4
    if s.busy c then s.finish 4 else (s.removeCtx c).finish 0

/-! ## Queues, couriers, cores and slots -/

/-- The descriptor in ARGS (Table 11-2), where it keeps its limits; HEAD and TAIL stay with the queue. -/
def Mgmt.queue (m : Mgmt) (q : Queue) : Option Queue :=
  let f := fun o n => m.arg (0x40 + o) n
  let on := bitOf (f 27 1) 0
  let d : Queue := { q with ring := BitVec.ofNat 64 (f 0 8), taila := BitVec.ofNat 64 (f 8 8), heada := BitVec.ofNat 64 (f 16 8), loge := f 24 1, prio := f 25 1, ctx := f 26 1
                            enable := on, stopped := bitOf (f 27 1) 1, taken := none }
  if f 0 8 % 4096 = 0 && f 8 8 % 8 = 0 && f 16 8 % 8 = 0 && (!on || decide (1 ≤ f 24 1)) && decide (f 24 1 ≤ 16) && decide (f 25 1 ≤ 7) && decide (f 26 1 < 64) && decide (f 27 1 < 4) &&
      f 28 8 = 0 && f 36 8 = 0 && f 44 8 = 0 && f 52 8 = 0 && f 60 4 = 0 then some d else none

/-- QUEUE_DESCRIPTOR_WRITE (R273, R405): function 0x03. -/
def execQueueDescriptorWrite (s : State) : Host.Outcome State Fault Refusal :=
  command 0x03 s (fun m => m.only [(0x10, 4), (0x40, 64)] && decide (m.arg 0x10 4 < 128)) fun m s =>
    let n := m.arg 0x10 4
    let q := s.queue n
    match m.queue q with
    | none => s.finish 2
    | some d => (s.setQueue n d).finish 0 (leBytes 8 q.head ++ leBytes 8 q.tail)

/-- A courier set to a PC and running. -/
def Courier.restart (y : Courier) (pc : DWord) : Courier := { y with cpc := cpcBits pc, stopped := false, wait := none }

/-- COURIER_RESTART (R239, R405): function 0x04; the instance stands on a core or is saved. -/
def execCourierRestart (s : State) : Host.Outcome State Fault Refusal :=
  commandOn 0x04 s (fun m => m.only [(0x10, 16)] && s.live (m.arg 0x10 4) && decide (m.arg 0x14 4 < (s.ctx (m.arg 0x10 4)).couriers)) Mgmt.ctxArg fun m s =>
    let c := m.arg 0x10 4
    let n := m.arg 0x14 4
    let pc := BitVec.ofNat 64 (m.arg 0x18 8)
    let up := fun (y : Courier) => if y.ctx = c ∧ y.num = n then y.restart pc else y
    let s := { s with cores := s.cores.map fun ((i, k) : Nat × Core) => (i, { k with courier := k.courier.map up }) }
    (s.modCtx c fun x => { x with savedCouriers := x.savedCouriers.map up }).finish 0

/-- CORE_CONFIGURATION (R242, R405): function 0x05. -/
def execCoreConfiguration (s : State) : Host.Outcome State Fault Refusal :=
  command 0x05 s (fun m => m.only [(0x10, 8)] && (m.arg 0x10 4 = 0xFFFFFFFF || decide (m.arg 0x10 4 < Config.cores))) fun m s =>
    let w := BitVec.ofNat 32 (m.arg 0x14 4)
    let cores := if m.arg 0x10 4 = 0xFFFFFFFF then List.range Config.cores else [m.arg 0x10 4]
    (cores.foldl (fun s k => (s.modCore k fun y => y.setCfg w).noteMred k) s).finish 0

/-- SLOT_SETUP (R247, R405): function 0x06; the stage that `mtsr` fills keeps its value. -/
def execSlotSetup (s : State) : Host.Outcome State Fault Refusal :=
  command 0x06 s (fun m => m.only [(0x10, 24)] && decide (m.arg 0x10 4 < 8)) fun m s =>
    let n := m.arg 0x10 4
    let t := s.slotAt n
    let s := { s with slots := Tab.set {} s.slots n { t with stageKey := BitVec.ofNat 64 (m.arg 0x18 8), stagePay := BitVec.ofNat 64 (m.arg 0x20 8) } }
    let s := s.setSlot n (BitVec.ofNat 32 (m.arg 0x14 4))
    let s := { s with slots := Tab.set {} s.slots n { s.slotAt n with stageKey := t.stageKey, stagePay := t.stagePay } }
    s.finish 0 (leBytes 4 0)

/-! ## Kill (R380, R405) -/

/-- Teams of a launch that have not been dispatched are killed: those from a number on, or one of them. -/
def State.killWaiting (s : State) (l : Launch) (teamn : Nat) : State × Nat :=
  let back := fun (s : State) (n : Nat) => match l.blocks[n]? with
    | some p => s.modCtx l.ctx fun x => x.childGive p 64
    | none => s
  if teamn = 0xFFFFFFFF then
    let gone := (l.goneTeams.filter fun n => decide (l.nextTeam ≤ n)).length
    let n := l.total - l.nextTeam - gone
    let s := ((List.range l.blocks.length).filter fun i => decide (l.nextTeam ≤ i) && !l.goneTeams.contains i).foldl back s
    if n = 0 then (s, 0)
    else (s.modLaunch l.ctx l.lid fun l => { l with nextTeam := l.total, ended := l.ended + n, killed := true }, n)
  else if l.nextTeam ≤ teamn ∧ teamn < l.total ∧ !l.goneTeams.contains teamn then
    ((back s teamn).modLaunch l.ctx l.lid fun l => { l with goneTeams := teamn :: l.goneTeams, ended := l.ended + 1, killed := true }, 1)
  else (s, 0)

/-- A kill names a team of a launch. -/
def Team.named (T : Team) (c lid teamn : Nat) : Bool :=
  T.kind = .team && T.ctx = c && T.lid = lid && (teamn = 0xFFFFFFFF || T.teamn = teamn)

/-- Saved teams that a kill names end without running again. -/
def State.killSaved (s : State) (c lid teamn : Nat) : State × Nat :=
  let l := (s.ctx c).saved.filter fun v => v.team.named c lid teamn
  let s := s.modCtx c fun x => { x with saved := x.saved.filter fun v => !v.team.named c lid teamn }
  (l.foldl (fun s v => s.endSaved v.uid v.team) s, l.length)

/-- The teams of a launch that a kill names, resident or not. -/
def State.killIn (s : State) (l : Launch) (teamn : Nat) : State × Nat :=
  let here := (s.teams.filter fun e => e.2.named l.ctx l.lid teamn).map Prod.fst
  let s := here.foldl (fun s t => s.endTeam t) s
  let (s, a) := s.killSaved l.ctx l.lid teamn
  let (s, b) := s.killWaiting l teamn
  (s, here.length + a + b)

/-- KILL (R380, R405): function 0x07. -/
def execKill (s : State) : Host.Outcome State Fault Refusal :=
  commandOn 0x07 s (fun m => m.only [(0x10, 12)] && s.live (m.arg 0x10 4)) Mgmt.ctxArg fun m s =>
    let c := m.arg 0x10 4
    let lid := m.arg 0x14 4
    let ls := (s.launchesOf c).filter fun l => lid = 0 || l.lid = lid
    let (s, n) := ls.foldl (fun ((s, n) : State × Nat) l => let (s, k) := s.killIn l (if lid = 0 then 0xFFFFFFFF else m.arg 0x18 4); (s, n + k)) (s, 0)
    s.finish 0 (leBytes 4 (min n 0xFFFFFFFF))

/-! ## Translation, counters, the fault ring -/

/-- STAGE2_INVALIDATION (R322, R323, R405): function 0x0B. -/
def execStage2Invalidation (s : State) : Host.Outcome State Fault Refusal :=
  commandOn 0x0B s (fun m => m.only [(0x10, 16)] && s.live (m.arg 0x10 4) && (m.arg 0x14 4 = 3 || (m.arg 0x14 4 = 2 && m.arg 0x18 8 % 4096 = 0))) Mgmt.ctxArg fun m s =>
    (s.tlbDrop (m.arg 0x10 4) (tlbMatches (m.arg 0x10 4) (m.arg 0x14 4) (m.arg 0x18 8))).finish 0

/-- READ_DEVICE_COUNTERS (R347, R405): function 0x0C. -/
def execReadDeviceCounters (s : State) : Host.Outcome State Fault Refusal :=
  command 0x0C s (fun m => m.only []) fun _ s =>
    s.finish 0 ([s.remap, s.mapchg, s.migrate, s.corrected, s.cleandrop, s.poisoned].flatMap fun v => leBytes 8 v.toNat)

/-- SET_HOST_FAULT_RING (R313, R405): function 0x0D; the kept entries are written first, and LOST starts at the count of those
not kept. -/
def execSetHostFaultRing (s : State) : Host.Outcome State Fault Refusal :=
  command 0x0D s (fun m => m.only [(0x10, 12)] && m.arg 0x10 8 % 4096 = 0 && powerIn (m.arg 0x18 4) 13 24 && inHostOrLocal (m.arg 0x10 8) (m.arg 0x18 4)) fun m s =>
    let base := m.arg 0x10 8
    let kept := s.ring.kept
    let lost := s.ring.dropped
    let s := (s.post .ring base (leBytes 8 0)).post .ring (base + 16) (leBytes 8 lost)
    let s := { s with ring := { set := true, base := base, size := m.arg 0x18 4, lost := lost } }
    (kept.foldl State.ringPut s).finish 0 (leBytes 4 kept.length ++ leBytes 4 lost)

/-! ## Peers, manifests, telemetry, firmware, interrupts -/

/-- BIND_PEER_INDEX (R395, R397, R405): function 0x0E. -/
def execBindPeerIndex (s : State) : Host.Outcome State Fault Refusal :=
  command 0x0E s (fun m => m.only [(0x10, 12), (0x40, 64)] && decide (m.arg 0x10 4 < 32) && decide (m.arg 0x14 4 < 2 ^ 16) && decide (m.arg 0x18 4 ≤ 1)) fun m s =>
    let i := m.arg 0x10 4
    let source := m.arg 0x18 4 = 1
    let s := { s with timeSource := source, peers := Tab.put s.peers i { ports := BitVec.ofNat 16 (m.arg 0x14 4), source := source, identity := BitVec.ofNat 512 (m.arg 0x40 64) } }
    s.finish 0 (leBytes 4 (s.peerPorts i).toNat)

/-- ATTACH_MANIFEST_INPUTS (R400, R405): function 0x0F; a digest for a launch that has been taken does not count. -/
def execAttachManifestInputs (s : State) : Host.Outcome State Fault Refusal :=
  commandOn 0x0F s (fun m => m.only [(0x10, 12), (0x40, 64)] && s.live (m.arg 0x10 4) && decide (m.arg 0x18 4 < 4)) Mgmt.ctxArg fun m s =>
    let c := m.arg 0x10 4
    let lid := m.arg 0x14 4
    let i := m.arg 0x18 4
    let s := if (s.launch c lid).isSome then s
      else s.modCtx c fun x => { x with attached := (lid, i, BitVec.ofNat 512 (m.arg 0x40 64)) :: x.attached.filter fun e => !(e.1 = lid && e.2.1 = i) }
    s.finish 0

/-- The arguments of function 0x10. -/
def Mgmt.powerArgs (m : Mgmt) : Bool := m.only [(0x10, 12)]

/-- TELEMETRY_READ_PAGE (R405): function 0x10 with op 0; an op that the table does not list is out of limits. -/
def execTelemetryReadPage (s : State) : Host.Outcome State Fault Refusal :=
  if s.mgmt.now.arg 0x10 4 = 1 ∨ s.mgmt.now.arg 0x10 4 = 2 then event s
  else command 0x10 s (fun m => m.powerArgs && m.arg 0x10 4 = 0 && decide (m.arg 0x14 4 ≤ 4)) fun m s => s.finish 0 (s.page (m.arg 0x14 4))

/-- SET_POWER_CAP (R403, R405): function 0x10 with op 1, 1,200 to 2,600 W. -/
def execSetPowerCap (s : State) : Host.Outcome State Fault Refusal :=
  if s.mgmt.now.arg 0x10 4 ≠ 1 then event s
  else command 0x10 s (fun m => m.powerArgs && decide (1200 ≤ m.arg 0x14 4) && decide (m.arg 0x14 4 ≤ 2600)) fun m s =>
    ({ s with powerCap := m.arg 0x14 4 } : State).finish 0

/-- SET_TELEMETRY_LIMITS (R403, R405): function 0x10 with op 2. -/
def execSetTelemetryLimits (s : State) : Host.Outcome State Fault Refusal :=
  if s.mgmt.now.arg 0x10 4 ≠ 2 then event s
  else command 0x10 s (fun m => m.powerArgs) fun m s => ({ s with powerLimit := m.arg 0x14 4, tempLimit := m.arg 0x18 4 } : State).cooled.finish 0

/-- FIRMWARE_UPDATE (R401, R405): function 0x11; `signed` says whether the image's signature verifies. A refused image completes
with STATUS 3, and the old one stays. -/
def execFirmwareUpdate (signed : Bool) (s : State) : Host.Outcome State Fault Refusal :=
  command 0x11 s (fun m => m.only [(0x10, 12)] && decide (0 < m.arg 0x18 4) && inHostOrLocal (m.arg 0x10 8) (m.arg 0x18 4)) fun m s =>
    let img := s.cohRead (m.arg 0x10 8) (m.arg 0x18 4)
    let n := Config.imageSerial img
    if !signed || decide (n.toNat < s.firmware.minimum.toNat) then s.finish 3
    else ({ s with firmware := { s.firmware with staged := some (img, n) } } : State).finish 0 (leBytes 4 n.toNat)

/-- Events of an interrupt source so far (Table 17-2). -/
def State.irqCount (s : State) (source c : Nat) : Nat :=
  match source with
  | 2 => s.mgmt.done
  | 4 => s.recordsDone c
  | 5 => s.readyEvents
  | 6 => s.powerEvents
  | _ => 0

/-- The vector, source and context of function 0x12 lie within their limits. -/
def Mgmt.msixArgs (m : Mgmt) : Bool :=
  m.only [(0x10, 16)] && decide (m.arg 0x14 4 < 64) && decide (1 ≤ m.arg 0x18 4) && decide (m.arg 0x18 4 ≤ 6) && (!(m.arg 0x18 4 = 3 || m.arg 0x18 4 = 4) || decide (m.arg 0x1C 4 < 64))

/-- The context that function 0x12 names, for sources 3 and 4. -/
def Mgmt.msixCtx (m : Mgmt) : Option Nat := if m.arg 0x18 4 = 3 ∨ m.arg 0x18 4 = 4 then some (m.arg 0x1C 4) else none

/-- MSIX_BIND (R393, R405): function 0x12 with op 0; the condition counts from its next change. -/
def execMsixBind (s : State) : Host.Outcome State Fault Refusal :=
  if s.mgmt.now.arg 0x10 4 = 1 then event s
  else commandOn 0x12 s (fun m => m.msixArgs && m.arg 0x10 4 = 0) Mgmt.msixCtx fun m s =>
    let s := s.finish 0
    let x : Msix := { source := m.arg 0x18 4, ctx := m.arg 0x1C 4, seen := s.irqCount (m.arg 0x18 4) (m.arg 0x1C 4) }
    { s with msix := Tab.put s.msix (m.arg 0x14 4) { x with cond := s.irqCond x } }

/-- A vector is bound to the source that function 0x12 names. -/
def Msix.named (x : Msix) (m : Mgmt) : Bool := x.source = m.arg 0x18 4 && (!(x.source = 3 || x.source = 4) || x.ctx = m.arg 0x1C 4)

/-- MSIX_ACKNOWLEDGE (R393, R405): function 0x12 with op 1; a vector that is bound to the source named may send again when its condition next
becomes true. What has changed before is sent first. -/
def execMsixAcknowledge (s : State) : Host.Outcome State Fault Refusal :=
  if s.mgmt.now.arg 0x10 4 ≠ 1 then event s
  else commandOn 0x12 s Mgmt.msixArgs Mgmt.msixCtx fun m s =>
    let s := s.irqScan.finish 0
    { s with msix := Tab.modify s.msix (m.arg 0x14 4) fun x => if !x.named m then x else
      let x := { x with waiting := false, seen := s.irqCount x.source x.ctx }
      { x with cond := s.irqCond x } }

/-- MGMT_UNKNOWN_FUNCTION (R394). -/
def execMgmtUnknownFunction (s : State) : Host.Outcome State Fault Refusal :=
  let f := s.mgmt.now.func.toNat
  event (if s.commanded f && (f = 0 || decide (0x12 < f)) then s.finish 1 else s)

end Sys2Proof.Machine
end

