-- ==== Sys2Proof/Machine/Bringup.lean ====
section
/-! DEFINITION. Bring-up (R402), recovery (R401), and the requests of the DOE mailbox (R398 to R400). -/

namespace Sys2Proof.Machine

/-! ## Reset and self-tests (R402) -/

/-- The firmware after a reset: a verified new image has taken effect and raised the minimum to its serial; one that does not
verify puts the device into recovery. -/
def Firmware.afterReset (f : Firmware) (ok : Bool) : Firmware :=
  let f := match f.staged with
    | some (img, n) => { f with image := img, serial := n, staged := none }
    | none => f
  if ok then { f with minimum := if f.minimum.toNat < f.serial.toNat then f.serial else f.minimum, recovery := false, pieces := [] }
  else { f with recovery := true, pieces := [] }

/-- A PA outside the device's own memory. -/
def outside (pa : Nat) : Bool := decide (2 ^ 48 ≤ pa)

/-- The device reset: every register at its reset value and device memory initialized; host and peer memory, the images, and what
the model keeps for itself stay. The security processor has verified the image and set SECP. -/
def State.resetDevice (s : State) (ok : Bool) : State :=
  { State.reset with
    mem := s.mem.filter fun e => outside e.1
    poison := s.poison.filter fun x => outside (64 * x)
    tags := s.tags.filter fun e => outside (64 * e.1)
    firmware := s.firmware.afterReset ok
    ready := BitVec.ofNat 64 (2 ^ 38), readyEvents := s.readyEvents
    freeCtr := s.freeCtr, agenda := s.agenda, replies := s.replies, acked := s.acked }

/-- DEVICE_RESET (R402, R401); `imageOk` says whether the image verifies. -/
def execDeviceReset (imageOk : Bool) (s : State) : Host.Outcome State Fault Refusal := event (s.resetDevice imageOk)

/-- The functions that a self-test readies: pods, L2, HBM stacks and the incumbent unit. -/
def tested (bit : Nat) : Bool := decide (bit < 36) || bit = 37

/-- SELF_TEST_PASS (R402, R245): the security processor first, once the image verifies; then the functions in any order. The
first slice map is established when every die's L2 bit is set. -/
def execSelfTestPass (bit : Nat) (s : State) : Host.Outcome State Fault Refusal :=
  event (if bit = 38 then s.setReady 38 true
    else if !tested bit || s.firmware.recovery || !s.ready.getLsbD 38 || s.failed.getLsbD bit then s
    else
      let s := s.setReady bit true
      if (List.range 4).all fun d => s.ready.getLsbD (24 + d) then s.firstMap else s)

/-- SELF_TEST_FAIL (R402): the bit stays 0, and the mask of telemetry page 0 shows it. -/
def execSelfTestFail (bit : Nat) (s : State) : Host.Outcome State Fault Refusal :=
  event (if !tested bit || s.firmware.recovery || !s.ready.getLsbD 38 || s.ready.getLsbD bit then s
    else { s with failed := s.failed ||| BitVec.ofNat 64 (2 ^ bit) })

/-! ## Recovery (R401) -/

/-- A command waits in the recovery mailbox. -/
def State.recovering (s : State) : Bool := s.firmware.recovery && s.mgmt.rdoor ≠ s.mgmt.rseq

/-- A recovery command is complete. -/
def State.finishRecovery (s : State) (status : Nat) : State :=
  { s with mgmt := { s.mgmt with rseq := s.mgmt.rdoor, rstatus := BitVec.ofNat 32 status } }

/-- RECOVERY_WRITE_PIECE (R401): CMD 1; a command that the mailbox does not list is out of limits. -/
def execRecoveryWritePiece (s : State) : Host.Outcome State Fault Refusal :=
  event (if !s.recovering || s.mgmt.rcmd = 2 then s
    else if s.mgmt.rcmd ≠ 1 ∨ s.mgmt.roffset.toNat % 128 ≠ 0 then s.finishRecovery 2
    else
      let p := writeBytes s.firmware.pieces s.mgmt.roffset.toNat (readBytes s.mgmt.rdata 0 128)
      ({ s with firmware := { s.firmware with pieces := p } } : State).finishRecovery 0)

/-- RECOVERY_COMMIT (R401): CMD 2; an image whose signature verifies and whose serial is not below the minimum takes the place of
the old one, and the device resets. -/
def execRecoveryCommit (signed : Bool) (s : State) : Host.Outcome State Fault Refusal :=
  event (if !s.recovering || s.mgmt.rcmd ≠ 2 then s
    else if s.mgmt.rlength = 0 then s.finishRecovery 2
    else
      let img := readBytes s.firmware.pieces 0 s.mgmt.rlength.toNat
      let n := Config.imageSerial img
      if !signed || decide (n.toNat < s.firmware.minimum.toNat) then s.finishRecovery 3
      else ({ s with firmware := { s.firmware with staged := some (img, n) } } : State).resetDevice true)

/-! ## SPDM (R398 to R400) -/

/-- The DOE mailbox answers, unless the device is in recovery (R401). -/
def spdm (s : State) (act : State → State) : Host.Outcome State Fault Refusal := event (if s.firmware.recovery then s else act s)

/-- A body with its signature under the identity key. -/
def signedBody (b : List Byte) : Spdm := .signed b (Config.sign b)

/-- GET_VERSION (R399): 1.2 and 1.3. -/
def execGetVersion (s : State) : Host.Outcome State Fault Refusal := spdm s fun s => { s with spdm := .versions [0x12, 0x13] }

/-- GET_CAPABILITIES (R399). -/
def execGetCapabilities (s : State) : Host.Outcome State Fault Refusal := spdm s fun s => { s with spdm := .capabilities }

/-- NEGOTIATE_ALGORITHMS (R398, R399): ECDSA on P-521 and SHA-512. -/
def execNegotiateAlgorithms (s : State) : Host.Outcome State Fault Refusal := spdm s fun s => { s with spdm := .algorithms }

/-- GET_DIGESTS (R399): of the chain in slot 0. -/
def execGetDigests (s : State) : Host.Outcome State Fault Refusal := spdm s fun s => { s with spdm := .digests [sha512 Config.certificates] }

/-- GET_CERTIFICATE (R398): the chain in slot 0. -/
def execGetCertificate (s : State) : Host.Outcome State Fault Refusal := spdm s fun s => { s with spdm := .certificate Config.certificates }

/-- CHALLENGE (R399): the chain's digest and the measurements, signed. -/
def execChallenge (s : State) : Host.Outcome State Fault Refusal :=
  spdm s fun s => { s with spdm := signedBody (digestBytes (sha512 Config.certificates) ++ digestBytes (sha512 ([1, 2, 3, 4, 5].flatMap s.measurement))) }

/-- GET_MEASUREMENTS (R399, Table 17-5): measurements 1 to 5, signed. -/
def execGetMeasurements (s : State) : Host.Outcome State Fault Refusal :=
  spdm s fun s => { s with spdm := signedBody ([1, 2, 3, 4, 5].flatMap s.measurement) }

/-- KEY_EXCHANGE (R399): a session begins. -/
def execKeyExchange (s : State) : Host.Outcome State Fault Refusal :=
  spdm s fun s => { s with spdm := .keyExchange (s.sessions + 1), sessions := s.sessions + 1, sessionOpen := none }

/-- FINISH (R399): the session that the last KEY_EXCHANGE began is secured, and the IDE keys are set over it (R391, log 70); without one it is an
error. -/
def execFinish (s : State) : Host.Outcome State Fault Refusal :=
  spdm s fun s => match s.spdm with
    | .keyExchange n => { s with spdm := .finished n, sessionOpen := some n, ideKeys := some n }
    | _ => { s with spdm := .error }

/-- VENDOR_DEFINED_REQUEST (R400): a manifest with the signature over its digest, or an error where it is no longer held. -/
def execVendorDefinedRequest (ctx lid : Nat) (s : State) : Host.Outcome State Fault Refusal :=
  spdm s fun s => match (s.ctx ctx).manifests.find? fun m => m.lid = lid with
    | some m => { s with spdm := .signed m.bytes (Config.sign (digestBytes (sha512 m.bytes))) }
    | none => { s with spdm := .error }

end Sys2Proof.Machine
end

