-- ==== Sys2Proof/Machine/Dispatch.lean ====
section
/-! DEFINITION. The dispatch: one arm for each constructor of `Instr`, one direct call of its meaning. -/

namespace Sys2Proof.Machine

/-- What an instruction or an event does to a state. -/
def exec (i : Instr) (s : State) : Host.Outcome State Fault Refusal :=
  match i with
  | .iadd g d a b => Sys2Proof.Machine.execIadd g d a b s
  | .isub g d a b => Sys2Proof.Machine.execIsub g d a b s
  | .imul g d a b => Sys2Proof.Machine.execImul g d a b s
  | .imad g d a b => Sys2Proof.Machine.execImad g d a b s
  | .imulhI32 g d a b => Sys2Proof.Machine.execImulhI32 g d a b s
  | .imulhN32 g d a b => Sys2Proof.Machine.execImulhN32 g d a b s
  | .madw g d a b => Sys2Proof.Machine.execMadw g d a b s
  | .add64 g d a b => Sys2Proof.Machine.execAdd64 g d a b s
  | .idivI32 g d a b => Sys2Proof.Machine.execIdivI32 g d a b s
  | .idivN32 g d a b => Sys2Proof.Machine.execIdivN32 g d a b s
  | .iremI32 g d a b => Sys2Proof.Machine.execIremI32 g d a b s
  | .iremN32 g d a b => Sys2Proof.Machine.execIremN32 g d a b s
  | .iminI32 g d a b => Sys2Proof.Machine.execIminI32 g d a b s
  | .iminN32 g d a b => Sys2Proof.Machine.execIminN32 g d a b s
  | .imaxI32 g d a b => Sys2Proof.Machine.execImaxI32 g d a b s
  | .imaxN32 g d a b => Sys2Proof.Machine.execImaxN32 g d a b s
  | .and g d a b => Sys2Proof.Machine.execAnd g d a b s
  | .or g d a b => Sys2Proof.Machine.execOr g d a b s
  | .xor g d a b => Sys2Proof.Machine.execXor g d a b s
  | .andn g d a b => Sys2Proof.Machine.execAndn g d a b s
  | .shl g d a b => Sys2Proof.Machine.execShl g d a b s
  | .shr g d a b => Sys2Proof.Machine.execShr g d a b s
  | .sar g d a b => Sys2Proof.Machine.execSar g d a b s
  | .rotl g d a b => Sys2Proof.Machine.execRotl g d a b s
  | .clz g d a => Sys2Proof.Machine.execClz g d a s
  | .popc g d a => Sys2Proof.Machine.execPopc g d a s
  | .brev g d a => Sys2Proof.Machine.execBrev g d a s
  | .not g d a => Sys2Proof.Machine.execNot g d a s
  | .bfxI32 g d a b => Sys2Proof.Machine.execBfxI32 g d a b s
  | .bfxN32 g d a b => Sys2Proof.Machine.execBfxN32 g d a b s
  | .bfi g d a b => Sys2Proof.Machine.execBfi g d a b s
  | .isel g d a b => Sys2Proof.Machine.execIsel g d a b s
  | .iabs g d a => Sys2Proof.Machine.execIabs g d a s
  | .ineg g d a => Sys2Proof.Machine.execIneg g d a s
  | .mov g d a => Sys2Proof.Machine.execMov g d a s
  | .lane g d => Sys2Proof.Machine.execLane g d s
  | .fadd g d a b => Sys2Proof.Machine.execFadd g d a b s
  | .fsub g d a b => Sys2Proof.Machine.execFsub g d a b s
  | .fmul g d a b => Sys2Proof.Machine.execFmul g d a b s
  | .ffma g d a b => Sys2Proof.Machine.execFfma g d a b s
  | .fmin g d a b => Sys2Proof.Machine.execFmin g d a b s
  | .fmax g d a b => Sys2Proof.Machine.execFmax g d a b s
  | .fabs g d a => Sys2Proof.Machine.execFabs g d a s
  | .fneg g d a => Sys2Proof.Machine.execFneg g d a s
  | .fdiv g d a b => Sys2Proof.Machine.execFdiv g d a b s
  | .fsqrt g d a => Sys2Proof.Machine.execFsqrt g d a s
  | .fscale g d a b => Sys2Proof.Machine.execFscale g d a b s
  | .fcls g d a => Sys2Proof.Machine.execFcls g d a s
  | .frcp g d a => Sys2Proof.Machine.execFrcp g d a s
  | .frsq g d a => Sys2Proof.Machine.execFrsq g d a s
  | .fex2 g d a => Sys2Proof.Machine.execFex2 g d a s
  | .flg2 g d a => Sys2Proof.Machine.execFlg2 g d a s
  | .fsin g d a => Sys2Proof.Machine.execFsin g d a s
  | .fcos g d a => Sys2Proof.Machine.execFcos g d a s
  | .frnd g d a s1 => Sys2Proof.Machine.execFrnd g d a s1 s
  | .hadd2F16 g d a b => Sys2Proof.Machine.execHadd2F16 g d a b s
  | .hmul2F16 g d a b => Sys2Proof.Machine.execHmul2F16 g d a b s
  | .hfma2F16 g d a b => Sys2Proof.Machine.execHfma2F16 g d a b s
  | .hmax2F16 g d a b => Sys2Proof.Machine.execHmax2F16 g d a b s
  | .hadd2Bf16 g d a b => Sys2Proof.Machine.execHadd2Bf16 g d a b s
  | .hmul2Bf16 g d a b => Sys2Proof.Machine.execHmul2Bf16 g d a b s
  | .hfma2Bf16 g d a b => Sys2Proof.Machine.execHfma2Bf16 g d a b s
  | .hmax2Bf16 g d a b => Sys2Proof.Machine.execHmax2Bf16 g d a b s
  | .cvt g d a s1 => Sys2Proof.Machine.execCvt g d a s1 s
  | .scl g d a b => Sys2Proof.Machine.execScl g d a b s
  | .upk g d a s1 => Sys2Proof.Machine.execUpk g d a s1 s
  | .pk2 g d a b => Sys2Proof.Machine.execPk2 g d a b s
  | .pk4 g d a b => Sys2Proof.Machine.execPk4 g d a b s
  | .pk8 g d a b => Sys2Proof.Machine.execPk8 g d a b s
  | .dot4E4m3 g d a b => Sys2Proof.Machine.execDot4E4m3 g d a b s
  | .dot4E5m2 g d a b => Sys2Proof.Machine.execDot4E5m2 g d a b s
  | .dot4I8 g d a b => Sys2Proof.Machine.execDot4I8 g d a b s
  | .dot4N8 g d a b => Sys2Proof.Machine.execDot4N8 g d a b s
  | .dot8E2m1 g d a b => Sys2Proof.Machine.execDot8E2m1 g d a b s
  | .dot8I4 g d a b => Sys2Proof.Machine.execDot8I4 g d a b s
  | .dot2F16 g d a b => Sys2Proof.Machine.execDot2F16 g d a b s
  | .dot2Bf16 g d a b => Sys2Proof.Machine.execDot2Bf16 g d a b s
  | .shflIdx g d a b => Sys2Proof.Machine.execShflIdx g d a b s
  | .shflXor g d a b => Sys2Proof.Machine.execShflXor g d a b s
  | .shflUp g d a b => Sys2Proof.Machine.execShflUp g d a b s
  | .shflDn g d a b => Sys2Proof.Machine.execShflDn g d a b s
  | .gred g d a s1 => Sys2Proof.Machine.execGred g d a s1 s
  | .gscan g d a s1 => Sys2Proof.Machine.execGscan g d a s1 s
  | .vote g d a s1 => Sys2Proof.Machine.execVote g d a s1 s
  | .bcast g d a b => Sys2Proof.Machine.execBcast g d a b s
  | .compact g d a => Sys2Proof.Machine.execCompact g d a s
  | .p2v g d s1 => Sys2Proof.Machine.execP2v g d s1 s
  | .v2p g a s1 => Sys2Proof.Machine.execV2p g a s1 s
  | .icmp g p c a b f => Sys2Proof.Machine.execIcmp g p c a b f s
  | .fcmp g p c a b f => Sys2Proof.Machine.execFcmp g p c a b f s
  | .pand g p q r => Sys2Proof.Machine.execPand g p q r s
  | .por g p q r => Sys2Proof.Machine.execPor g p q r s
  | .pxor g p q r => Sys2Proof.Machine.execPxor g p q r s
  | .pnot g p q => Sys2Proof.Machine.execPnot g p q s
  | .sbra s1 n => Sys2Proof.Machine.execSbra s1 n s
  | .loop s1 n => Sys2Proof.Machine.execLoop s1 n s
  | .jmpi g d a b => Sys2Proof.Machine.execJmpi g d a b s
  | .mma c a b r z p q i1 => Sys2Proof.Machine.execMma c a b r z p q i1 s
  | .pemitSym g a => Sys2Proof.Machine.execPemitSym g a s
  | .pemitOne g a => Sys2Proof.Machine.execPemitOne g a s
  | .pemitTwo g a => Sys2Proof.Machine.execPemitTwo g a s
  | .iaddi g d a i1 => Sys2Proof.Machine.execIaddi g d a i1 s
  | .andi g d a i1 => Sys2Proof.Machine.execAndi g d a i1 s
  | .ori g d a i1 => Sys2Proof.Machine.execOri g d a i1 s
  | .xori g d a i1 => Sys2Proof.Machine.execXori g d a i1 s
  | .shli g d a i1 => Sys2Proof.Machine.execShli g d a i1 s
  | .shri g d a i1 => Sys2Proof.Machine.execShri g d a i1 s
  | .sari g d a i1 => Sys2Proof.Machine.execSari g d a i1 s
  | .movi g d i1 => Sys2Proof.Machine.execMovi g d i1 s
  | .imuli g d a i1 => Sys2Proof.Machine.execImuli g d a i1 s
  | .ld g d a z m => Sys2Proof.Machine.execLd g d a z m s
  | .st g d a z m => Sys2Proof.Machine.execSt g d a z m s
  | .lds g d a z m => Sys2Proof.Machine.execLds g d a z m s
  | .sts g d a z m => Sys2Proof.Machine.execSts g d a z m s
  | .sld g d a z m => Sys2Proof.Machine.execSld g d a z m s
  | .sst g d a z m => Sys2Proof.Machine.execSst g d a z m s
  | .ldt g d a m => Sys2Proof.Machine.execLdt g d a m s
  | .stt g d a m => Sys2Proof.Machine.execStt g d a m s
  | .pf g a m => Sys2Proof.Machine.execPf g a m s
  | .ldx g d a b c => Sys2Proof.Machine.execLdx g d a b c s
  | .stx g d a b c => Sys2Proof.Machine.execStx g d a b c s
  | .hgath g d a b c => Sys2Proof.Machine.execHgath g d a b c s
  | .cpaIn g d a m => Sys2Proof.Machine.execCpaIn g d a m s
  | .cpaOut g d a m => Sys2Proof.Machine.execCpaOut g d a m s
  | .atomAdd g d a b t => Sys2Proof.Machine.execAtomAdd g d a b t s
  | .atomMin g d a b t => Sys2Proof.Machine.execAtomMin g d a b t s
  | .atomMax g d a b t => Sys2Proof.Machine.execAtomMax g d a b t s
  | .atomAnd g d a b => Sys2Proof.Machine.execAtomAnd g d a b s
  | .atomOr g d a b => Sys2Proof.Machine.execAtomOr g d a b s
  | .atomXor g d a b => Sys2Proof.Machine.execAtomXor g d a b s
  | .atomExch g d a b => Sys2Proof.Machine.execAtomExch g d a b s
  | .cas g d a b t => Sys2Proof.Machine.execCas g d a b t s
  | .satom g d a b t => Sys2Proof.Machine.execSatom g d a b t s
  | .bra g n => Sys2Proof.Machine.execBra g n s
  | .call g n => Sys2Proof.Machine.execCall g n s
  | .smovi d i1 => Sys2Proof.Machine.execSmovi d i1 s
  | .hintImm h => Sys2Proof.Machine.execHintImm h s
  | .hintMod h => Sys2Proof.Machine.execHintMod h s
  | .hintRep c d a b => Sys2Proof.Machine.execHintRep c d a b s
  | .hintPref h => Sys2Proof.Machine.execHintPref h s
  | .hintBar h => Sys2Proof.Machine.execHintBar h s
  | .dict a x b y => Sys2Proof.Machine.execDict a x b y s
  | .sadd d a b => Sys2Proof.Machine.execSadd d a b s
  | .ssub d a b => Sys2Proof.Machine.execSsub d a b s
  | .smul d a b => Sys2Proof.Machine.execSmul d a b s
  | .sand d a b => Sys2Proof.Machine.execSand d a b s
  | .sor d a b => Sys2Proof.Machine.execSor d a b s
  | .sxor d a b => Sys2Proof.Machine.execSxor d a b s
  | .sshl d a b => Sys2Proof.Machine.execSshl d a b s
  | .sshr d a b => Sys2Proof.Machine.execSshr d a b s
  | .ssar d a b => Sys2Proof.Machine.execSsar d a b s
  | .sminI32 d a b => Sys2Proof.Machine.execSminI32 d a b s
  | .sminN32 d a b => Sys2Proof.Machine.execSminN32 d a b s
  | .smaxI32 d a b => Sys2Proof.Machine.execSmaxI32 d a b s
  | .smaxN32 d a b => Sys2Proof.Machine.execSmaxN32 d a b s
  | .smov d a => Sys2Proof.Machine.execSmov d a s
  | .ssel d a b => Sys2Proof.Machine.execSsel d a b s
  | .scmpEq d a b => Sys2Proof.Machine.execScmpEq d a b s
  | .scmpNe d a b => Sys2Proof.Machine.execScmpNe d a b s
  | .scmpLt d a b => Sys2Proof.Machine.execScmpLt d a b s
  | .scmpLe d a b => Sys2Proof.Machine.execScmpLe d a b s
  | .scmpGt d a b => Sys2Proof.Machine.execScmpGt d a b s
  | .scmpGe d a b => Sys2Proof.Machine.execScmpGe d a b s
  | .scmpLtn d a b => Sys2Proof.Machine.execScmpLtn d a b s
  | .scmpLen d a b => Sys2Proof.Machine.execScmpLen d a b s
  | .scmpGtn d a b => Sys2Proof.Machine.execScmpGtn d a b s
  | .scmpGen d a b => Sys2Proof.Machine.execScmpGen d a b s
  | .ret => Sys2Proof.Machine.execRet s
  | .exit => Sys2Proof.Machine.execExit s
  | .regang => Sys2Proof.Machine.execRegang s
  | .yield => Sys2Proof.Machine.execYield s
  | .brk => Sys2Proof.Machine.execBrk s
  | .trap c => Sys2Proof.Machine.execTrap c s
  | .rfe => Sys2Proof.Machine.execRfe s
  | .sleep a => Sys2Proof.Machine.execSleep a s
  | .wvalue d a b => Sys2Proof.Machine.execWvalue d a b s
  | .fenceAcq a => Sys2Proof.Machine.execFenceAcq a s
  | .fenceRel a => Sys2Proof.Machine.execFenceRel a s
  | .fenceAr a => Sys2Proof.Machine.execFenceAr a s
  | .fenceNs a => Sys2Proof.Machine.execFenceNs a s
  | .wpred => Sys2Proof.Machine.execWpred s
  | .succ => Sys2Proof.Machine.execSucc s
  | .drain => Sys2Proof.Machine.execDrain s
  | .wcnt a b => Sys2Proof.Machine.execWcnt a b s
  | .tbar => Sys2Proof.Machine.execTbar s
  | .cbar => Sys2Proof.Machine.execCbar s
  | .gsync => Sys2Proof.Machine.execGsync s
  | .bini a b => Sys2Proof.Machine.execBini a b s
  | .barr a b => Sys2Proof.Machine.execBarr a b s
  | .bexp a b => Sys2Proof.Machine.execBexp a b s
  | .bwait a b => Sys2Proof.Machine.execBwait a b s
  | .stmap d a b => Sys2Proof.Machine.execStmap d a b s
  | .stunmap a => Sys2Proof.Machine.execStunmap a s
  | .stflush a => Sys2Proof.Machine.execStflush a s
  | .cflush a b => Sys2Proof.Machine.execCflush a b s
  | .cinv a b => Sys2Proof.Machine.execCinv a b s
  | .mfence d => Sys2Proof.Machine.execMfence d s
  | .mwait a => Sys2Proof.Machine.execMwait a s
  | .mcjoin d a => Sys2Proof.Machine.execMcjoin d a s
  | .mcleave a => Sys2Proof.Machine.execMcleave a s
  | .mcload a b => Sys2Proof.Machine.execMcload a b s
  | .mcrel a b => Sys2Proof.Machine.execMcrel a b s
  | .bcopy a => Sys2Proof.Machine.execBcopy a s
  | .bfill a => Sys2Proof.Machine.execBfill a s
  | .cring a b => Sys2Proof.Machine.execCring a b s
  | .plaunch d a => Sys2Proof.Machine.execPlaunch d a s
  | .pfin a => Sys2Proof.Machine.execPfin a s
  | .pread d a b => Sys2Proof.Machine.execPread d a b s
  | .tspawn a => Sys2Proof.Machine.execTspawn a s
  | .tchk => Sys2Proof.Machine.execTchk s
  | .imprv d a b => Sys2Proof.Machine.execImprv d a b s
  | .incrd d b => Sys2Proof.Machine.execIncrd d b s
  | .launch a => Sys2Proof.Machine.execLaunch a s
  | .claunch a => Sys2Proof.Machine.execClaunch a s
  | .mfsr d r => Sys2Proof.Machine.execMfsr d r s
  | .mtsr d r => Sys2Proof.Machine.execMtsr d r s
  | .mtsrGflags d => Sys2Proof.Machine.execMtsrGflags d s
  | .mtsrParty d => Sys2Proof.Machine.execMtsrParty d s
  | .mtsrGtcmp d => Sys2Proof.Machine.execMtsrGtcmp d s
  | .mtsrGtcmph d => Sys2Proof.Machine.execMtsrGtcmph d s
  | .mtsrIncctl d n => Sys2Proof.Machine.execMtsrIncctl d n s
  | .kteam => Sys2Proof.Machine.execKteam s
  | .tlbinv a b => Sys2Proof.Machine.execTlbinv a b s
  | .sevent c => Sys2Proof.Machine.execSevent c s
  | .unassignedEncoding w => Sys2Proof.Machine.execUnassignedEncoding w s
  | .loadReply op => Sys2Proof.Machine.execLoadReply op s
  | .homePerform op part => Sys2Proof.Machine.execHomePerform op part s
  | .writeCompletion op => Sys2Proof.Machine.execWriteCompletion op s
  | .leaseExpiry core line => Sys2Proof.Machine.execLeaseExpiry core line s
  | .horizonExpiry line => Sys2Proof.Machine.execHorizonExpiry line s
  | .l2Fill line victim => Sys2Proof.Machine.execL2Fill line victim s
  | .heldWritePerform op part => Sys2Proof.Machine.execHeldWritePerform op part s
  | .remapReply op part => Sys2Proof.Machine.execRemapReply op part s
  | .forwardedAccess op part => Sys2Proof.Machine.execForwardedAccess op part s
  | .windowFirstTouch team win line => Sys2Proof.Machine.execWindowFirstTouch team win line s
  | .probeAfterReply op part => Sys2Proof.Machine.execProbeAfterReply op part s
  | .sliceMapChange die moves => Sys2Proof.Machine.execSliceMapChange die moves s
  | .sliceMapChangeAbandon die => Sys2Proof.Machine.execSliceMapChangeAbandon die s
  | .pageMove page partner => Sys2Proof.Machine.execPageMove page partner s
  | .pageMoveSwitch page partner => Sys2Proof.Machine.execPageMoveSwitch page partner s
  | .placementCounterHalving => Sys2Proof.Machine.execPlacementCounterHalving s
  | .patrolScrub sector found => Sys2Proof.Machine.execPatrolScrub sector found s
  | .translationWalk core ctx va => Sys2Proof.Machine.execTranslationWalk core ctx va s
  | .dictionaryLoad core team => Sys2Proof.Machine.execDictionaryLoad core team s
  | .icacheFill team gint => Sys2Proof.Machine.execIcacheFill team gint s
  | .cpaComplete op => Sys2Proof.Machine.execCpaComplete op s
  | .barrierCredit k => Sys2Proof.Machine.execBarrierCredit k s
  | .bulkCopyUnit core dataError => Sys2Proof.Machine.execBulkCopyUnit core dataError s
  | .copyCompletionRecord core => Sys2Proof.Machine.execCopyCompletionRecord core s
  | .mmaOperandFetch team gint k => Sys2Proof.Machine.execMmaOperandFetch team gint k s
  | .mmaComplete team gint k mismatch => Sys2Proof.Machine.execMmaComplete team gint k mismatch s
  | .batchDrain team gint => Sys2Proof.Machine.execBatchDrain team gint s
  | .hamperRecordHandoff k spill => Sys2Proof.Machine.execHamperRecordHandoff k spill s
  | .hamperEpochApply ctx lid line => Sys2Proof.Machine.execHamperEpochApply ctx lid line s
  | .multicastRelease die entry seq => Sys2Proof.Machine.execMulticastRelease die entry seq s
  | .multicastTimerExpiry die entry seq => Sys2Proof.Machine.execMulticastTimerExpiry die entry seq s
  | .multicastDelivery die entry seq rank => Sys2Proof.Machine.execMulticastDelivery die entry seq rank s
  | .pairBin pod ctx lid => Sys2Proof.Machine.execPairBin pod ctx lid s
  | .pairCandidateTest pod ctx lid => Sys2Proof.Machine.execPairCandidateTest pod ctx lid s
  | .basketTimerFlush pod ctx lid => Sys2Proof.Machine.execBasketTimerFlush pod ctx lid s
  | .pairGroupStart pod ctx lid core => Sys2Proof.Machine.execPairGroupStart pod ctx lid core s
  | .pairAdd k => Sys2Proof.Machine.execPairAdd k s
  | .pairLaunchComplete ctx lid => Sys2Proof.Machine.execPairLaunchComplete ctx lid s
  | .incumbentDecision k => Sys2Proof.Machine.execIncumbentDecision k s
  | .shadowUpdate pod slot => Sys2Proof.Machine.execShadowUpdate pod slot s
  | .taskDispatch pod core => Sys2Proof.Machine.execTaskDispatch pod core s
  | .taskSweep pod slot => Sys2Proof.Machine.execTaskSweep pod slot s
  | .taskSpillRefill pod ctx => Sys2Proof.Machine.execTaskSpillRefill pod ctx s
  | .childGridTimerFlush pod k => Sys2Proof.Machine.execChildGridTimerFlush pod k s
  | .queueTailObserve q => Sys2Proof.Machine.execQueueTailObserve q s
  | .queueTake q => Sys2Proof.Machine.execQueueTake q s
  | .teamDispatch ctx lid cores => Sys2Proof.Machine.execTeamDispatch ctx lid cores s
  | .teamRestore k core => Sys2Proof.Machine.execTeamRestore k core s
  | .launchComplete ctx lid => Sys2Proof.Machine.execLaunchComplete ctx lid s
  | .regangRelease team gint => Sys2Proof.Machine.execRegangRelease team gint s
  | .siblingHalt team gint => Sys2Proof.Machine.execSiblingHalt team gint s
  | .handlerEntry team => Sys2Proof.Machine.execHandlerEntry team s
  | .groupTimerFire team gint => Sys2Proof.Machine.execGroupTimerFire team gint s
  | .watchdogExpiry team gint => Sys2Proof.Machine.execWatchdogExpiry team gint s
  | .sleepExpiry who => Sys2Proof.Machine.execSleepExpiry who s
  | .fenceComplete who => Sys2Proof.Machine.execFenceComplete who s
  | .quantumExpiry core => Sys2Proof.Machine.execQuantumExpiry core s
  | .courierStart core => Sys2Proof.Machine.execCourierStart core s
  | .eventCounterAdd k => Sys2Proof.Machine.execEventCounterAdd k s
  | .throttleScoreHalve core => Sys2Proof.Machine.execThrottleScoreHalve core s
  | .throttleStarvationAdmit team gint => Sys2Proof.Machine.execThrottleStarvationAdmit team gint s
  | .gtimeTick => Sys2Proof.Machine.execGtimeTick s
  | .coreCycle core => Sys2Proof.Machine.execCoreCycle core s
  | .timeSyncAdjust ppm => Sys2Proof.Machine.execTimeSyncAdjust ppm s
  | .clockAdapt core mhz => Sys2Proof.Machine.execClockAdapt core mhz s
  | .telemetryUpdate page data => Sys2Proof.Machine.execTelemetryUpdate page data s
  | .powerLimitCrossed => Sys2Proof.Machine.execPowerLimitCrossed s
  | .hostCxlMemRead off len => Sys2Proof.Machine.execHostCxlMemRead off len s
  | .hostCxlMemWrite off data => Sys2Proof.Machine.execHostCxlMemWrite off data s
  | .hostTagApertureRead off len => Sys2Proof.Machine.execHostTagApertureRead off len s
  | .hostTagApertureWrite off data => Sys2Proof.Machine.execHostTagApertureWrite off data s
  | .hostSnoop pa data => Sys2Proof.Machine.execHostSnoop pa data s
  | .hostLinkStateChange up => Sys2Proof.Machine.execHostLinkStateChange up s
  | .peerRequest peer req => Sys2Proof.Machine.execPeerRequest peer req s
  | .peerWriteAck op part => Sys2Proof.Machine.execPeerWriteAck op part s
  | .linkPortDown port => Sys2Proof.Machine.execLinkPortDown port s
  | .linkPortUp port skew => Sys2Proof.Machine.execLinkPortUp port skew s
  | .deviceReset imageOk => Sys2Proof.Machine.execDeviceReset imageOk s
  | .selfTestPass bit => Sys2Proof.Machine.execSelfTestPass bit s
  | .registerWrite off data => Sys2Proof.Machine.execRegisterWrite off data s
  | .contextSetup => Sys2Proof.Machine.execContextSetup s
  | .contextTeardown => Sys2Proof.Machine.execContextTeardown s
  | .queueDescriptorWrite => Sys2Proof.Machine.execQueueDescriptorWrite s
  | .courierRestart => Sys2Proof.Machine.execCourierRestart s
  | .coreConfiguration => Sys2Proof.Machine.execCoreConfiguration s
  | .slotSetup => Sys2Proof.Machine.execSlotSetup s
  | .kill => Sys2Proof.Machine.execKill s
  | .preemptContext => Sys2Proof.Machine.execPreemptContext s
  | .saveContextWhole => Sys2Proof.Machine.execSaveContextWhole s
  | .restoreContext => Sys2Proof.Machine.execRestoreContext s
  | .stage2Invalidation => Sys2Proof.Machine.execStage2Invalidation s
  | .readDeviceCounters => Sys2Proof.Machine.execReadDeviceCounters s
  | .setHostFaultRing => Sys2Proof.Machine.execSetHostFaultRing s
  | .bindPeerIndex => Sys2Proof.Machine.execBindPeerIndex s
  | .attachManifestInputs => Sys2Proof.Machine.execAttachManifestInputs s
  | .telemetryReadPage => Sys2Proof.Machine.execTelemetryReadPage s
  | .setPowerCap => Sys2Proof.Machine.execSetPowerCap s
  | .setTelemetryLimits => Sys2Proof.Machine.execSetTelemetryLimits s
  | .firmwareUpdate signed => Sys2Proof.Machine.execFirmwareUpdate signed s
  | .msixBind => Sys2Proof.Machine.execMsixBind s
  | .msixAcknowledge => Sys2Proof.Machine.execMsixAcknowledge s
  | .mgmtUnknownFunction => Sys2Proof.Machine.execMgmtUnknownFunction s
  | .recoveryWritePiece => Sys2Proof.Machine.execRecoveryWritePiece s
  | .recoveryCommit signed => Sys2Proof.Machine.execRecoveryCommit signed s
  | .getVersion => Sys2Proof.Machine.execGetVersion s
  | .getCapabilities => Sys2Proof.Machine.execGetCapabilities s
  | .negotiateAlgorithms => Sys2Proof.Machine.execNegotiateAlgorithms s
  | .getDigests => Sys2Proof.Machine.execGetDigests s
  | .getCertificate => Sys2Proof.Machine.execGetCertificate s
  | .challenge => Sys2Proof.Machine.execChallenge s
  | .getMeasurements => Sys2Proof.Machine.execGetMeasurements s
  | .keyExchange => Sys2Proof.Machine.execKeyExchange s
  | .finish => Sys2Proof.Machine.execFinish s
  | .vendorDefinedRequest ctx lid => Sys2Proof.Machine.execVendorDefinedRequest ctx lid s
  | .selfTestFail bit => Sys2Proof.Machine.execSelfTestFail bit s
  | .laneRetrain port lane margin => Sys2Proof.Machine.execLaneRetrain port lane margin s

end Sys2Proof.Machine
end

