-- ==== Sys2Proof/Machine/Step.lean ====
section
/-! DEFINITION. The step: the next entry of the agenda, or the turn of the current agent, or a tick; and a state with a word
placed where the step fetches it. -/

namespace Sys2Proof.Machine

/-- The agent whose turn it is fetches its next word and executes it. -/
def issueStep (s : State) : Host.Outcome State Fault Refusal :=
  match s.fetch with
  | .error s => .next s
  | .ok i => exec i s

/-- One step: the first entry of the agenda, an agent's turn or an event; without one the current agent's turn while it runs, and
a tick of time otherwise (log 29). -/
def step (s : State) : Host.Outcome State Fault Refusal :=
  match s.agenda with
  | [] => if s.able then issueStep (s.turn s.cur none) else execGtimeTick { s with pick := 0 }
  | .issue a :: rest => issueStep (({ s with agenda := rest } : State).turn a none)
  | .poll a pc :: rest => issueStep (({ s with agenda := rest } : State).turn a (some pc))
  | .event i pick :: rest => if isEvent i then exec i { s with agenda := rest, pick := pick } else .next { s with agenda := rest }

/-- The state with a word placed where the next step fetches it (log 30). -/
def State.withFetchWord (s : State) (_nbits w : Nat) : State :=
  let w := BitVec.ofNat 32 w
  ({ s with agenda := [] } : State).readied (courierOnly w) |>.placeWord w

end Sys2Proof.Machine
end

