-- ==== Sys2Proof/Safety.lean ====
section
/-! DEFINITION. What counts as a safe run, and the terms in which claims speak of one step: when a word is ready to execute, what
a group holds apart from where it stands, and what a step leaves alone. -/

namespace Sys2Proof.Machine

/-- An outcome with a next state. -/
def goesOn (o : Host.Outcome State Fault Refusal) : Prop := ∃ t, o = .next t

/-- Memory and tags in canonical form. -/
def State.Sound (s : State) : Prop := Memory.wf s.mem = true ∧ Tab.wf (0 : Tag) s.tags = true

/-- A state from which every one of some number of steps answers a next state that is sound. -/
def State.safeFor : Nat → State → Prop
  | 0, s => s.Sound
  | n + 1, s => s.Sound ∧ ∃ t, step s = .next t ∧ t.safeFor n

/-! ## A word that is ready (R8, R59, R158, R294, R373) -/

/-- The agent whose turn it is stands before the word `i` with the context `x`; no word check of R59 fails, no register that it
names is still owed by an operation in flight or holds an uncorrectable error, no fence that it stands behind and no throttle holds it. -/
structure Ready (i : Instr) (s : State) (x : Iss) : Prop where
  stands : s.stand (form i) = .ok x
  checked : wordFault x.form x.onCourier (s.ctx x.ctx).priv x.T.kobj.regs x.g.hints x.rep = none
  unlocked : x.interlocked s x.form = false
  intact : x.g.regErrs = []
  unfenced : ((x.behind s).any fun f => f.holds (kls i)) = false
  unthrottled : throttled i = true → x.onCourier = false → s.admits x.core x.t x.k = true

/-- The team runs alone for its faults: it is no pair group under DEFER, whose lanes retire one by one (R306). -/
def Iss.whole (x : Iss) (s : State) : Prop := s.defers x.T = false

/-! ## What a group shows -/

/-- Vector register `r` of lane `l`. -/
def Grp.vreg (g : Grp) (r l : Nat) : Word := Tab.get 0 g.v (96 * r + l)

/-- What a group holds apart from where its fragments stand and what its issue keeps of them. -/
def Grp.held (g : Grp) : Grp :=
  { g with quads := [], hints := {}, rep := none, hintPc := none, waits := [], yielded := none, last := 0, issues := 0, gave := [], denied := none,
           halting := none, inSlot := false }

/-- Where the quads of a group stand, without their ages. -/
def Grp.places (g : Grp) : List (Nat × Quad) := g.quads.map fun e => (e.1, { e.2 with age := 0 })

/-- A quad on the issuing fragment's path moved to a PC; any other as it was. -/
def Iss.moves (x : Iss) (to_ : DWord) (q : Quad) : Quad :=
  match q.path with
  | some p => if p.pc = x.pc then { q with path := some { p with pc := to_ } } else q
  | none => q

/-! ## What a step leaves alone -/

/-- Every byte of memory reads as before, as the device sees it. -/
def SameMemory (s u : State) : Prop := ∀ pa, u.cohRead pa 1 = s.cohRead pa 1

/-- A team apart from its groups. -/
def Team.bare (T : Team) : Team := { T with groups := [] }

/-- Nothing outside one group has changed. -/
def OnlyGroup (t k : Nat) (s u : State) : Prop :=
  { u with teams := [] } = { s with teams := [] } ∧ (∀ n, n ≠ t → u.team n = s.team n) ∧
  (u.team t).map Team.bare = (s.team t).map Team.bare ∧
  (∀ j, j ≠ k → u.grp t j = s.grp t j) ∧ SameMemory s u

/-- A word of a group has run: nothing outside the group has changed, its fragment stands at the next word with its hints
consumed, or at the same word for the next repetition (R61), and no other quad has moved. -/
def Ran (x : Iss) (s u : State) (h : Grp) : Prop :=
  u.grp x.t x.k = some h ∧ OnlyGroup x.t x.k s u ∧
  h.places = (if x.last then x.g.places.map fun e => (e.1, x.moves x.next e.2) else x.g.places) ∧
  (if x.last then h.hints = ({} : Hints) ∧ h.rep = none ∧ h.hintPc = none
   else h.hints = x.g.hints ∧ h.rep = some (BitVec.ofNat 6 (x.rep + 1)) ∧ h.hintPc = some x.pc)

/-- A word that moves its fragment itself has run: `f` says where each quad of the fragment stands; the other quads, what the
group holds and everything outside it are as before, and no hint is pending. -/
def Moved (x : Iss) (s u : State) (h : Grp) (f : Nat × Quad → Quad) : Prop :=
  u.grp x.t x.k = some h ∧ OnlyGroup x.t x.k s u ∧
  h.places = (x.g.places.map fun e => (e.1, if x.fq.contains e.1 then f e else e.2)) ∧
  h.hints = ({} : Hints) ∧ h.rep = none ∧ h.hintPc = none

/-- Nothing outside one core's courier has changed. -/
def OnlyCourier (c : Nat) (s u : State) (y : Courier) : Prop :=
  { u with cores := [] } = { s with cores := [] } ∧ (∀ d, d ≠ c → u.core d = s.core d) ∧
  u.core c = { s.core c with courier := some y } ∧ SameMemory s u

end Sys2Proof.Machine
end

