-- ==== Sys2Proof/Certificates/Slice0/Obligations.lean ====
section
/-! DEFINITION. The statements for the provers: what the spec's rules say of the model's instructions, events and state. -/


/-! ## Words that write vector registers -/

namespace Sys2Proof.Claims

open Sys2Proof Sys2Proof.Machine

/-- The value of a field that a word names as its source a, b or d, in a lane. -/
def valA (x : Iss) (l : Nat) : Word := x.g.code x.a l
def valB (x : Iss) (l : Nat) : Word := x.g.code x.b l
def valD (x : Iss) (l : Nat) : Word := x.g.code x.d l

/-- A shift left, logical right and arithmetic right by a whole 32-bit count (R84). -/
def shlOf (a n : Word) : Word := if 32 ≤ n.toNat then 0 else BitVec.ofNat 32 (a.toNat * 2 ^ n.toNat)
def shrOf (a n : Word) : Word := if 32 ≤ n.toNat then 0 else BitVec.ofNat 32 (a.toNat / 2 ^ n.toNat)
def sarOf (a n : Word) : Word :=
  if 32 ≤ n.toNat then (if a.toInt < 0 then 0xFFFFFFFF else 0) else BitVec.ofInt 32 (a.toInt / 2 ^ n.toNat)

/-- Offset and cut width of a bit field: w′ is 0 where the field is empty (R85). -/
def fieldAt (b : Word) : Nat × Nat :=
  let o := b.toNat % 256
  (o, min (min (b.toNat / 256 % 256) 32) (32 - o))

/-- The two-source forms of Tables 04-1 and 04-3: what an active lane writes, from the values of a and b. -/
def twoSource : Instr → Option (Word → Word → Word)
  | .iadd .. => some fun a b => BitVec.ofNat 32 (a.toNat + b.toNat)
  | .isub .. => some fun a b => BitVec.ofInt 32 ((a.toNat : Int) - b.toNat)
  | .imul .. => some fun a b => BitVec.ofNat 32 (a.toNat * b.toNat)
  | .imulhI32 .. => some fun a b => BitVec.ofInt 32 (a.toInt * b.toInt / 2 ^ 32)
  | .imulhN32 .. => some fun a b => BitVec.ofNat 32 (a.toNat * b.toNat / 2 ^ 32)
  | .idivI32 .. => some fun a b => if b = 0 then 0xFFFFFFFF else BitVec.ofInt 32 (a.toInt.tdiv b.toInt)
  | .idivN32 .. => some fun a b => if b = 0 then 0xFFFFFFFF else BitVec.ofNat 32 (a.toNat / b.toNat)
  | .iremI32 .. => some fun a b => if b = 0 then a else BitVec.ofInt 32 (a.toInt - a.toInt.tdiv b.toInt * b.toInt)
  | .iremN32 .. => some fun a b => if b = 0 then a else BitVec.ofNat 32 (a.toNat % b.toNat)
  | .iminI32 .. => some fun a b => BitVec.ofInt 32 (min a.toInt b.toInt)
  | .iminN32 .. => some fun a b => BitVec.ofNat 32 (min a.toNat b.toNat)
  | .imaxI32 .. => some fun a b => BitVec.ofInt 32 (max a.toInt b.toInt)
  | .imaxN32 .. => some fun a b => BitVec.ofNat 32 (max a.toNat b.toNat)
  | .and .. => some fun a b => a &&& b
  | .or .. => some fun a b => a ||| b
  | .xor .. => some fun a b => a ^^^ b
  | .andn .. => some fun a b => a &&& ~~~b
  | .shl .. => some shlOf
  | .shr .. => some shrOf
  | .sar .. => some sarOf
  | .rotl .. => some fun a b => BitVec.ofNat 32 (a.toNat * 2 ^ (b.toNat % 32) + a.toNat / 2 ^ (32 - b.toNat % 32))
  | .bfxN32 .. => some fun a b => BitVec.ofNat 32 (a.toNat / 2 ^ (fieldAt b).1 % 2 ^ (fieldAt b).2)
  | .bfxI32 .. => some fun a b =>
      let (o, w) := fieldAt b
      if w = 0 then 0 else BitVec.ofInt 32 (((a.toNat / 2 ^ o % 2 ^ w + 2 ^ (w - 1)) % 2 ^ w : Nat) - 2 ^ (w - 1))
  | _ => none

/-- The immediate of format I: SEXT(imm9, 9), or hi · 2^9 + imm9 under an IMM hint (R62, R83). -/
def immOf (x : Iss) (i : BitVec 9) : Word :=
  match x.g.hints.imm with
  | some hi => BitVec.ofNat 32 (hi.toNat * 512 + i.toNat)
  | none => BitVec.ofInt 32 i.toInt

/-- The other forms that write one vector register and set no flag: what an active lane writes. -/
def oneResult : Instr → Option (Iss → Nat → Word)
  | .imad .. => some fun x l => BitVec.ofNat 32 ((valA x l).toNat * (valB x l).toNat + (valD x l).toNat)
  | .clz .. => some fun x l => BitVec.ofNat 32 ((List.range 32).takeWhile fun i => !(valA x l).getLsbD (31 - i)).length
  | .popc .. => some fun x l => BitVec.ofNat 32 ((List.range 32).countP fun i => (valA x l).getLsbD i)
  | .brev .. => some fun x l => BitVec.ofNat 32 ((List.range 32).foldl (fun n i => 2 * n + ((valA x l).getLsbD i).toNat) 0)
  | .not .. => some fun x l => BitVec.ofNat 32 (2 ^ 32 - 1 - (valA x l).toNat)
  | .iabs .. => some fun x l => BitVec.ofNat 32 (valA x l).toInt.natAbs
  | .ineg .. => some fun x l => BitVec.ofInt 32 (-(valA x l).toInt)
  | .mov .. => some valA
  | .lane .. => some fun _ l => BitVec.ofNat 32 l
  | .isel g .. => some fun x l => if (x.g.pred g.toNat).getLsbD l then valA x l else valB x l
  | .p2v _ _ n => some fun x l => if (x.g.pred n.toNat).getLsbD l then 1 else 0
  | .iaddi _ _ _ i => some fun x l => BitVec.ofNat 32 ((valA x l).toNat + (immOf x i).toNat)
  | .andi _ _ _ i => some fun x l => valA x l &&& immOf x i
  | .ori _ _ _ i => some fun x l => valA x l ||| immOf x i
  | .xori _ _ _ i => some fun x l => valA x l ^^^ immOf x i
  | .shli _ _ _ i => some fun x l => shlOf (valA x l) (immOf x i)
  | .shri _ _ _ i => some fun x l => shrOf (valA x l) (immOf x i)
  | .sari _ _ _ i => some fun x l => sarOf (valA x l) (immOf x i)
  | .movi _ _ i => some fun x _ => immOf x i
  | .imuli _ _ _ i => some fun x l => BitVec.ofNat 32 ((valA x l).toNat * (immOf x i).toNat)
  | .fabs .. => some fun x l => BitVec.ofNat 32 ((valA x l).toNat % 2 ^ 31)
  | .fneg .. => some fun x l => BitVec.ofNat 32 ((valA x l).toNat + 2 ^ 31)
  | .fmin .. => some fun x l => NFmt.fp32.minOp (valA x l) (valB x l)
  | .fmax .. => some fun x l => NFmt.fp32.maxOp (valA x l) (valB x l)
  | .fcls .. => some fun x l => classOp (valA x l)
  | .upk _ _ _ n => some fun x l => upkOp n.toNat (valA x l)
  | _ => none

/-- The group after a word that writes one vector register in its active lanes and nothing else. -/
def WroteVector (x : Iss) (h : Grp) (f : Nat → Word) : Prop :=
  h.held = { x.g.held with v := h.v } ∧
  ∀ r l, l < 96 → h.vreg r l = if r = x.d ∧ x.act.getLsbD l = true then f l else x.g.vreg r l

/-- Bits of the field that `bfi` writes: those of d[o + w′ − 1 : o]. -/
def inField (b : Word) (i : Nat) : Bool := decide ((fieldAt b).1 ≤ i) && decide (i < (fieldAt b).1 + (fieldAt b).2)

/-- The forms whose destination is a pair: the 64-bit value of an active lane. -/
def pairResult : Instr → Option (Iss → Nat → DWord)
  | .madw .. => some fun x l => BitVec.ofNat 64 ((valA x l).toNat * (valB x l).toNat + (x.g.pair x.d l).toNat)
  | .add64 .. => some fun x l => BitVec.ofNat 64 ((x.g.pair x.a l).toNat + (x.g.pair x.b l).toNat)
  | _ => none

/-- Flagged forms that write one vector register: the value and flags of an active lane (Tables 05-11 to 05-15). -/
def flagged : Instr → Option (Iss → Nat → Word × Flags)
  | .fadd .. => some fun x l => NFmt.fp32.addOp x.mode (valA x l) (valB x l)
  | .fsub .. => some fun x l => NFmt.fp32.addOp x.mode (valA x l) (BitVec.ofNat 32 ((valB x l).toNat + 2 ^ 31))
  | .fmul .. => some fun x l => NFmt.fp32.mulOp x.mode (valA x l) (valB x l)
  | .ffma .. => some fun x l => NFmt.fp32.fmaOp x.mode (valA x l) (valB x l) (valD x l)
  | .fdiv .. => some fun x l => divOp x.mode (valA x l) (valB x l)
  | .fsqrt .. => some fun x l => sqrtOp x.mode (valA x l)
  | .fscale .. => some fun x l => scaleOp x.mode (valA x l) (valB x l).toInt
  | .frcp .. => some fun x l => frcpOp (valA x l)
  | .frsq .. => some fun x l => frsqOp (valA x l)
  | .fex2 .. => some fun x l => fex2Op (valA x l)
  | .flg2 .. => some fun x l => flg2Op (valA x l)
  | .fsin .. => some fun x l => fsinOp (valA x l)
  | .fcos .. => some fun x l => fcosOp (valA x l)
  | .frnd _ _ _ n => some fun x l => integralOp (frndMode n) (valA x l)
  | .hadd2F16 .. => some fun x l => pairOp (fun a b _ => NFmt.fp16.addOp x.mode a b) (valA x l) (valB x l) (valD x l)
  | .hmul2F16 .. => some fun x l => pairOp (fun a b _ => NFmt.fp16.mulOp x.mode a b) (valA x l) (valB x l) (valD x l)
  | .hfma2F16 .. => some fun x l => pairOp (fun a b d => NFmt.fp16.fmaOp x.mode a b d) (valA x l) (valB x l) (valD x l)
  | .hmax2F16 .. => some fun x l => pairOp (fun a b _ => (NFmt.fp16.maxOp a b, 0)) (valA x l) (valB x l) (valD x l)
  | .hadd2Bf16 .. => some fun x l => pairOp (fun a b _ => NFmt.bf16.addOp x.mode a b) (valA x l) (valB x l) (valD x l)
  | .hmul2Bf16 .. => some fun x l => pairOp (fun a b _ => NFmt.bf16.mulOp x.mode a b) (valA x l) (valB x l) (valD x l)
  | .hfma2Bf16 .. => some fun x l => pairOp (fun a b d => NFmt.bf16.fmaOp x.mode a b d) (valA x l) (valB x l) (valD x l)
  | .hmax2Bf16 .. => some fun x l => pairOp (fun a b _ => (NFmt.bf16.maxOp a b, 0)) (valA x l) (valB x l) (valD x l)
  | .cvt _ _ _ n => some fun x l => cvtOp x.g.nmode x.g.hints.modR x.g.hints.modS n.toNat (valA x l)
  | .scl .. => some fun x l => sclOp x.mode (valA x l) (valB x l)
  | .dot4E4m3 .. => some fun x l => dotOp .e4m3 4 (valA x l) (valB x l) (valD x l)
  | .dot4E5m2 .. => some fun x l => dotOp .e5m2 4 (valA x l) (valB x l) (valD x l)
  | .dot4I8 .. => some fun x l => dotIntOp 8 4 true (valA x l) (valB x l) (valD x l)
  | .dot4N8 .. => some fun x l => dotIntOp 8 4 false (valA x l) (valB x l) (valD x l)
  | .dot8E2m1 .. => some fun x l => dotOp .e2m1 8 (valA x l) (valB x l) (valD x l)
  | .dot8I4 .. => some fun x l => dotIntOp 4 8 true (valA x l) (valB x l) (valD x l)
  | .dot2F16 .. => some fun x l => dotOp .fp16 2 (valA x l) (valB x l) (valD x l)
  | .dot2Bf16 .. => some fun x l => dotOp .bf16 2 (valA x l) (valB x l) (valD x l)
  | _ => none

/-- The packing forms with their number of elements (R133). -/
def packs : Instr → Option Nat
  | .pk2 .. => some 2
  | .pk4 .. => some 4
  | .pk8 .. => some 8
  | _ => none

/-- The elements that a packing form packs: all of them, or as many as b[7:4] says. -/
def packCount (x : Iss) (n : Nat) : Nat :=
  let k := (valB x 0).toNat / 16 % 16
  if k = 0 ∨ n < k then n else k

/-- Every flag that an active lane raises is in GFLAGS, with those that were there before. -/
def MergedFlags (x : Iss) (h : Grp) (f : Nat → BitVec 5) : Prop :=
  ∀ b, b < 5 → (h.gflags.getLsbD b = true ↔ x.g.gflags.getLsbD b = true ∨ ∃ l, l < 96 ∧ x.act.getLsbD l = true ∧ (f l).getLsbD b = true)

/-- The group after a flagged form: its destination and GFLAGS, and nothing else. -/
def WroteFlagged (x : Iss) (h : Grp) (f : Nat → Word × Flags) : Prop :=
  h.held = { x.g.held with v := h.v, gflags := h.gflags } ∧ MergedFlags x h (fun l => (f l).2) ∧
  ∀ r l, l < 96 → h.vreg r l = if r = x.d ∧ x.act.getLsbD l = true then (f l).1 else x.g.vreg r l

/-- No active lane raises a flag that traps lane by lane (R123). -/
def Untrapped (x : Iss) (s : State) (f : Nat → Word × Flags) : Prop :=
  ∀ l, l < 96 → x.act.getLsbD l = true → (f l).2 &&& x.precise s = 0

end Sys2Proof.Claims

open Sys2Proof Sys2Proof.Machine Sys2Proof.Claims

/-- Tables 04-1 and 04-3 for the two-source forms: every active lane writes the exact result modulo 2^32, computed in integers;
the word completes, nothing else changes. -/
def Sys2Proof.Claims.TwoSourceFormsWriteTheirResult : Prop :=
  ∀ (i : Instr) (f : Word → Word → Word) (s : State) (x : Iss), twoSource i = some f → Ready i s x →
    ∃ u h, exec i s = .next u ∧ Ran x s u h ∧ WroteVector x h fun l => f (valA x l) (valB x l)

/-- The one-source, immediate and selecting forms of Tables 04-1 to 04-3, and the FP32 and unpacking forms that set no flag. -/
def Sys2Proof.Claims.SingleResultFormsWriteTheirResult : Prop :=
  ∀ (i : Instr) (f : Iss → Nat → Word) (s : State) (x : Iss), oneResult i = some f → Ready i s x →
    ∃ u h, exec i s = .next u ∧ Ran x s u h ∧ WroteVector x h (f x)

/-- R85 for `bfi`, bit by bit: the low bits of a enter the field of d, the other bits of d stay. -/
def Sys2Proof.Claims.BfiInsertsTheField : Prop :=
  ∀ (g : BitVec 3) (d a b : BitVec 7) (s : State) (x : Iss), Ready (.bfi g d a b) s x →
    ∃ u h, exec (.bfi g d a b) s = .next u ∧ Ran x s u h ∧ h.held = { x.g.held with v := h.v } ∧
      (∀ r l, l < 96 → ¬ (r = x.d ∧ x.act.getLsbD l = true) → h.vreg r l = x.g.vreg r l) ∧
      ∀ l j, l < 96 → x.act.getLsbD l = true → j < 32 →
        (h.vreg x.d l).getLsbD j =
          if inField (valB x l) j then (valA x l).getLsbD (j - (fieldAt (valB x l)).1) else (valD x l).getLsbD j

/-- Table 04-1 for `madw` and `add64`: the pair d holds the 64-bit result, the even register its low word. -/
def Sys2Proof.Claims.PairFormsWriteBothRegisters : Prop :=
  ∀ (i : Instr) (f : Iss → Nat → DWord) (s : State) (x : Iss), pairResult i = some f → Ready i s x →
    ∃ u h, exec i s = .next u ∧ Ran x s u h ∧ h.held = { x.g.held with v := h.v } ∧
      ∀ r l, l < 96 → h.vreg r l =
        if r = x.d ∧ x.act.getLsbD l = true then (f x l).setWidth 32
        else if r = x.d + 1 ∧ x.act.getLsbD l = true then (f x l >>> 32).setWidth 32
        else x.g.vreg r l

/-- R120 and R121 for the flagged forms: the value in every active lane, its flags in GFLAGS, no other lane's flags. -/
def Sys2Proof.Claims.FlaggedFormsWriteResultAndFlags : Prop :=
  ∀ (i : Instr) (f : Iss → Nat → Word × Flags) (s : State) (x : Iss), flagged i = some f → Ready i s x → Untrapped x s (f x) →
    ∃ u h, exec i s = .next u ∧ Ran x s u h ∧ WroteFlagged x h (f x)

/-- R133: a packing form with an accepted format code narrows its elements; with any other code it raises TAG_FORMAT. -/
def Sys2Proof.Claims.PackFormsNarrowTheirElements : Prop :=
  ∀ (i : Instr) (n : Nat) (s : State) (x : Iss), packs i = some n → Ready i s x →
    match pkFmt n ((valB x 0).toNat % 16) with
    | none => exec i s = .next (x.raise s .tagFormat)
    | some fm =>
      let (mode, sat) := narrowCtl x.g.nmode x.g.hints.modR x.g.hints.modS fm
      let f := fun l => packFrom (fun v => fm.narrow mode sat (NFmt.fp32.value v)) (32 / n) (packCount x n) (fun k => x.g.code (x.a + k) l) (List.range n)
      Untrapped x s f → ∃ u h, exec i s = .next u ∧ Ran x s u h ∧ WroteFlagged x h f

/-- R123 under HALT: an active lane with a lane-precise flag makes the whole word a precise FP_TRAP, FAUX naming the lowest such
lane and the flags of all of them, and no lane's effect is performed. -/
def Sys2Proof.Claims.LanePreciseFlagsTrap : Prop :=
  ∀ (i : Instr) (f : Iss → Nat → Word × Flags) (s : State) (x : Iss) (l : Nat), flagged i = some f → Ready i s x → x.whole s →
    l < 96 → x.act.getLsbD l = true → (f x l).2 &&& x.precise s ≠ 0 →
    (∀ j, j < l → x.act.getLsbD j = true → (f x j).2 &&& x.precise s = 0) →
    ∃ bits : BitVec 5, exec i s = .next (x.raise s .fpTrap (BitVec.ofNat 32 (2 ^ 31 + 2 ^ 8 * l + bits.toNat))) ∧
      ∀ b, b < 5 → (bits.getLsbD b = true ↔
        ∃ j, j < 96 ∧ x.act.getLsbD j = true ∧ (f x j).2 &&& x.precise s ≠ 0 ∧ (f x j).2.getLsbD b = true)

/-- R84, R85, R124, R131, R132 and Tables 04-1 to 04-3: the vector forms that set no flag write their result in every active lane, and nothing else changes. -/
def Obligations.VectorFormsWriteTheirResult : Prop :=
  Sys2Proof.Claims.TwoSourceFormsWriteTheirResult ∧ Sys2Proof.Claims.SingleResultFormsWriteTheirResult ∧ Sys2Proof.Claims.BfiInsertsTheField ∧ Sys2Proof.Claims.PairFormsWriteBothRegisters

/-- R119 to R121 and R133: the flagged and packing forms write their result and their flags, and an armed flag traps. -/
def Obligations.FlaggedFormsWriteResultFlagsOrTrap : Prop :=
  Sys2Proof.Claims.FlaggedFormsWriteResultAndFlags ∧ Sys2Proof.Claims.PackFormsNarrowTheirElements ∧ Sys2Proof.Claims.LanePreciseFlagsTrap

/-! ## Predicates, lane exchange, group-wide forms -/

namespace Sys2Proof.Claims

open Sys2Proof Sys2Proof.Machine

/-- The word fails its checks with a fault, whatever the privilege and the registers per lane, with no hint pending (R59). -/
def Bars (i : Instr) (c : FCode) : Prop := ∀ (priv : Bool) (regs : Nat), wordFault (form i) false priv regs {} 0 = some c

/-- Integer conditions of Table 03-18. -/
def icmpOf (c : BitVec 4) (a b : Word) : Bool :=
  if c = 0 then a = b else if c = 1 then a ≠ b
  else if c = 2 then a.toInt < b.toInt else if c = 3 then a.toInt ≤ b.toInt
  else if c = 4 then b.toInt < a.toInt else if c = 5 then b.toInt ≤ a.toInt
  else if c = 6 then a.toNat < b.toNat else if c = 7 then a.toNat ≤ b.toNat
  else if c = 8 then b.toNat < a.toNat else b.toNat ≤ a.toNat

/-- An FP32 word is a NaN: its magnitude bits are above those of infinity. -/
def nanBits (a : Word) : Bool := 0x7F800000 < a.toNat % 2 ^ 31

/-- A signaling NaN: its top fraction bit is 0. -/
def snanBits (a : Word) : Bool := nanBits a && !a.getLsbD 22

/-- The order of FP32 words that are no NaN: sign and magnitude, both zeros alike. -/
def floatKey (a : Word) : Int := if a.getLsbD 31 then -((a.toNat % 2 ^ 31 : Nat) : Int) else (a.toNat % 2 ^ 31 : Nat)

/-- FP32 conditions of Table 03-18. -/
def fcmpOf (c : BitVec 4) (a b : Word) : Bool :=
  let nan := nanBits a || nanBits b
  if c = 0 then !nan && floatKey a = floatKey b else if c = 1 then nan || floatKey a ≠ floatKey b
  else if c = 2 then !nan && floatKey a < floatKey b else if c = 3 then !nan && floatKey a ≤ floatKey b
  else if c = 4 then !nan && floatKey b < floatKey a else if c = 5 then !nan && floatKey b ≤ floatKey a
  else if c = 6 then !nan else nan

/-- `fcmp` sets NV (R89). -/
def fcmpNv (c : BitVec 4) (a b : Word) : Bool :=
  (decide (2 ≤ c.toNat ∧ c.toNat ≤ 5) && (nanBits a || nanBits b)) || snanBits a || snanBits b

/-- A compare's result combined with the old predicate bit (R57). -/
def combined (f : BitVec 2) (old c : Bool) : Bool := if f = 0 then c else if f = 1 then old && c else if f = 2 then old || c else !c

/-- The forms that write a predicate and set no flag: its number, and the bit of an active lane. -/
def predResult : Instr → Option (Nat × (Iss → Nat → Bool))
  | .icmp _ p c _ _ f => some (p.toNat, fun x l => combined f ((x.g.pred p.toNat).getLsbD l) (icmpOf c (valA x l) (valB x l)))
  | .pand _ p q r => some (p.toNat, fun x l => (x.g.pred q.toNat).getLsbD l && (x.g.pred r.toNat).getLsbD l)
  | .por _ p q r => some (p.toNat, fun x l => (x.g.pred q.toNat).getLsbD l || (x.g.pred r.toNat).getLsbD l)
  | .pxor _ p q r => some (p.toNat, fun x l => xor ((x.g.pred q.toNat).getLsbD l) ((x.g.pred r.toNat).getLsbD l))
  | .pnot _ p q => some (p.toNat, fun x l => !(x.g.pred q.toNat).getLsbD l)
  | .v2p _ _ n => some (n.toNat, fun x l => valA x l ≠ 0)
  | _ => none

/-- The predicates after a write of `p` in the active lanes. -/
def WrotePredicate (x : Iss) (h : Grp) (p : Nat) (f : Nat → Bool) : Prop :=
  ∀ n l, l < 96 → (h.pred n).getLsbD l = if n = p ∧ x.act.getLsbD l = true then f l else (x.g.pred n).getLsbD l

/-- The source lane of a `shfl` form (R91). -/
def shuffleFrom : Instr → Option (Nat → Nat → Int)
  | .shflIdx .. => some fun _ n => n
  | .shflXor .. => some fun l n => (l ^^^ n : Nat)
  | .shflUp .. => some fun l n => (l : Int) - n
  | .shflDn .. => some fun l n => (l : Int) + n
  | _ => none

/-- The group after a word with a destination of vector or scalar code (R79): in a vector every active lane gets its value, in
scalars the values listed are written once where a lane is active, an exited lane's enable bit staying 0 (R25). -/
def WroteAny (x : Iss) (h : Grp) (vec : Nat → Word) (sc : List Word) : Prop :=
  h.held = { x.g.held with v := h.v, s := h.s, gflags := h.gflags } ∧
  (∀ r l, l < 96 → h.vreg r l = if x.d < 96 ∧ r = x.d ∧ x.act.getLsbD l = true then vec l else x.g.vreg r l) ∧
  ∀ n, h.sreg n = if x.act ≠ 0 ∧ 96 ≤ x.d ∧ x.d - 96 ≤ n ∧ n < x.d - 96 + sc.length
    then (sc.getD (n - (x.d - 96)) 0) &&& ~~~exitedWord x.g.exited n else x.g.sreg n

/-- The operators of R94 with the flags of an addition. -/
def opOf (sel : Nat) (u w : Word) : Word × Flags :=
  match sel with
  | 0 => (BitVec.ofNat 32 (u.toNat + w.toNat), 0)
  | 1 => NFmt.fp32.addOp .rne u w
  | 2 => (BitVec.ofInt 32 (min u.toInt w.toInt), 0)
  | 3 => (BitVec.ofNat 32 (min u.toNat w.toNat), 0)
  | 4 => (NFmt.fp32.minOp u w, 0)
  | 5 => (BitVec.ofInt 32 (max u.toInt w.toInt), 0)
  | 6 => (BitVec.ofNat 32 (max u.toNat w.toNat), 0)
  | 7 => (NFmt.fp32.maxOp u w, 0)
  | 8 => (u &&& w, 0)
  | 9 => (u ||| w, 0)
  | _ => (u ^^^ w, 0)

/-- Two neighbours of the tree of R95, each with the flags of the additions under it; an absent one passes the other up. -/
def meet (sel : Nat) (u w : Option (Word × Flags)) : Option (Word × Flags) :=
  match u, w with
  | some u, some w => some ((opOf sel u.1 w.1).1, u.2 ||| w.2 ||| (opOf sel u.1 w.1).2)
  | none, w => w
  | u, none => u

/-- Element `m` of a level of the tree over the leaves (R95); level 0 is the leaves. -/
def treeAt (sel : Nat) (leaf : Nat → Option (Word × Flags)) : Nat → Nat → Option (Word × Flags)
  | 0, m => leaf m
  | n + 1, m => meet sel (treeAt sel leaf n (2 * m)) (treeAt sel leaf n (2 * m + 1))

/-- A leaf of the tree: a lane's value where the lane is active. -/
def leafOf_ (x : Iss) (l : Nat) : Option (Word × Flags) := if l < 96 ∧ x.act.getLsbD l = true then some (valA x l, 0) else none

/-- Identities of Table 04-6. -/
def identityOf (sel : Nat) : Word :=
  if sel = 1 ∨ sel = 5 then 0x80000000 else if sel = 2 then 0x7FFFFFFF else if sel = 3 ∨ sel = 8 then 0xFFFFFFFF
  else if sel = 4 then 0x7F800000 else if sel = 7 then 0xFF800000 else 0

/-- The accumulator of R96 before lane `k`, with the flags so far. -/
def accAt (x : Iss) (sel : Nat) : Nat → Word × Flags
  | 0 => (identityOf sel, 0)
  | k + 1 => if x.act.getLsbD k = true then ((opOf sel (accAt x sel k).1 (valA x k)).1, (accAt x sel k).2 ||| (opOf sel (accAt x sel k).1 (valA x k)).2)
      else accAt x sel k

/-- P(l) of a vote in an active lane, as a mask (R97). -/
def voteMask (x : Iss) : List Nat := (List.range 96).filter fun l => x.act.getLsbD l && valA x l ≠ 0

/-- The active lanes, ascending. -/
def activeLanes (x : Iss) : List Nat := (List.range 96).filter fun l => x.act.getLsbD l

/-- Word `b` of a ballot: bit `l mod 32` is P(l). -/
def ballotWord (x : Iss) (b : Nat) : Word := BitVec.ofNat 32 (((voteMask x).filter fun l => l / 32 = b).foldl (fun n l => n + 2 ^ (l % 32)) 0)

/-- The result of a vote: the value of a vector lane, and the scalars. -/
def voteResult (x : Iss) (sel : Nat) : (Nat → Word) × List Word :=
  let one := fun (b : Bool) => ((fun _ => if b then 1 else 0 : Nat → Word), [if b then (1 : Word) else 0])
  match sel with
  | 0 => one (!(voteMask x).isEmpty)
  | 1 => one (decide (voteMask x = activeLanes x))
  | 2 => one ((activeLanes x).all fun l => (activeLanes x).all fun j => valA x l = valA x j)
  | 3 => ((fun _ => BitVec.ofNat 32 (voteMask x).length), [BitVec.ofNat 32 (voteMask x).length])
  | _ => ((fun l => ballotWord x (l / 32)), [ballotWord x 0, ballotWord x 1, ballotWord x 2])

/-- The value that `compact` writes in an active lane (R98). -/
def compacted (x : Iss) (g : BitVec 3) (l : Nat) : Word :=
  let src := (activeLanes x).filter fun j => (x.g.pred g.toNat).getLsbD j
  match src[((activeLanes x).filter fun j => decide (j < l)).length]? with
  | some j => valA x j
  | none => 0

/-! ## The scalar ALU -/

/-- The scalar forms of Table 04-5 and `smovi`: what they write to sd. -/
def scalarResult : Instr → Option (Iss → Word)
  | .sadd .. => some fun x => BitVec.ofNat 32 ((x.g.sreg x.a).toNat + (x.g.sreg x.b).toNat)
  | .ssub .. => some fun x => BitVec.ofInt 32 (((x.g.sreg x.a).toNat : Int) - (x.g.sreg x.b).toNat)
  | .smul .. => some fun x => BitVec.ofNat 32 ((x.g.sreg x.a).toNat * (x.g.sreg x.b).toNat)
  | .sand .. => some fun x => x.g.sreg x.a &&& x.g.sreg x.b
  | .sor .. => some fun x => x.g.sreg x.a ||| x.g.sreg x.b
  | .sxor .. => some fun x => x.g.sreg x.a ^^^ x.g.sreg x.b
  | .sshl .. => some fun x => shlOf (x.g.sreg x.a) (x.g.sreg x.b)
  | .sshr .. => some fun x => shrOf (x.g.sreg x.a) (x.g.sreg x.b)
  | .ssar .. => some fun x => sarOf (x.g.sreg x.a) (x.g.sreg x.b)
  | .sminI32 .. => some fun x => BitVec.ofInt 32 (min (x.g.sreg x.a).toInt (x.g.sreg x.b).toInt)
  | .sminN32 .. => some fun x => BitVec.ofNat 32 (min (x.g.sreg x.a).toNat (x.g.sreg x.b).toNat)
  | .smaxI32 .. => some fun x => BitVec.ofInt 32 (max (x.g.sreg x.a).toInt (x.g.sreg x.b).toInt)
  | .smaxN32 .. => some fun x => BitVec.ofNat 32 (max (x.g.sreg x.a).toNat (x.g.sreg x.b).toNat)
  | .smov .. => some fun x => x.g.sreg x.a
  | .ssel .. => some fun x => if x.g.sreg x.d = 0 then x.g.sreg x.b else x.g.sreg x.a
  | .scmpEq .. => some fun x => if x.g.sreg x.a = x.g.sreg x.b then 1 else 0
  | .scmpNe .. => some fun x => if x.g.sreg x.a = x.g.sreg x.b then 0 else 1
  | .scmpLt .. => some fun x => if (x.g.sreg x.a).toInt < (x.g.sreg x.b).toInt then 1 else 0
  | .scmpLe .. => some fun x => if (x.g.sreg x.a).toInt ≤ (x.g.sreg x.b).toInt then 1 else 0
  | .scmpGt .. => some fun x => if (x.g.sreg x.b).toInt < (x.g.sreg x.a).toInt then 1 else 0
  | .scmpGe .. => some fun x => if (x.g.sreg x.b).toInt ≤ (x.g.sreg x.a).toInt then 1 else 0
  | .scmpLtn .. => some fun x => if (x.g.sreg x.a).toNat < (x.g.sreg x.b).toNat then 1 else 0
  | .scmpLen .. => some fun x => if (x.g.sreg x.a).toNat ≤ (x.g.sreg x.b).toNat then 1 else 0
  | .scmpGtn .. => some fun x => if (x.g.sreg x.b).toNat < (x.g.sreg x.a).toNat then 1 else 0
  | .scmpGen .. => some fun x => if (x.g.sreg x.b).toNat ≤ (x.g.sreg x.a).toNat then 1 else 0
  | .smovi _ i => some fun x => match x.g.hints.imm with
      | some hi => BitVec.ofNat 32 (hi.toNat * 2 ^ 14 + i.toNat)
      | none => BitVec.ofInt 32 i.toInt
  | _ => none

/-- A scalar written by either agent: a group's `s` register, an exited lane's enable bit staying 0 (R25, R88), or the courier's,
which moves to the next word. -/
def WroteScalar (x : Iss) (s u : State) (n : Nat) (v : Word) : Prop :=
  match x.who with
  | .grp _ _ => ∃ h, Ran x s u h ∧ h.held = { x.g.held with s := h.s } ∧
      ∀ r, h.sreg r = if r = n then v &&& ~~~exitedWord x.g.exited n else x.g.sreg r
  | .courier c => ∃ y z, (s.core c).courier = some y ∧ OnlyCourier c s u z ∧
      z = { y with s := z.s, cpc := x.pc + 4, wait := none, last := s.gtime } ∧ ∀ r, Tab.get 0 z.s r = if r = n then v else x.g.sreg r

end Sys2Proof.Claims

/-- R57 and R90, R89 for `icmp` and R93 for `v2p`: the predicate's bit in every active lane; no other predicate, lane or register. -/
def Sys2Proof.Claims.PredicateFormsWriteActiveLanes : Prop :=
  ∀ (i : Instr) (p : Nat) (f : Iss → Nat → Bool) (s : State) (x : Iss), predResult i = some (p, f) → Ready i s x →
    ∃ u h, exec i s = .next u ∧ Ran x s u h ∧ h.held = { x.g.held with p := h.p } ∧ WrotePredicate x h p (f x)

/-- R89 for `fcmp`: the FP32 relation by sign and magnitude, and NV from the active lanes alone. -/
def Sys2Proof.Claims.FcmpComparesAndSetsNv : Prop :=
  ∀ (g p : BitVec 3) (c : BitVec 4) (a b : BitVec 7) (f : BitVec 2) (s : State) (x : Iss), Ready (.fcmp g p c a b f) s x →
    (∀ l, l < 96 → x.act.getLsbD l = true → fcmpNv c (valA x l) (valB x l) = true → x.precise s &&& 1 = 0) →
    ∃ u h, exec (.fcmp g p c a b f) s = .next u ∧ Ran x s u h ∧ h.held = { x.g.held with p := h.p, gflags := h.gflags } ∧
      WrotePredicate x h p.toNat (fun l => combined f ((x.g.pred p.toNat).getLsbD l) (fcmpOf c (valA x l) (valB x l))) ∧
      MergedFlags x h (fun l => if fcmpNv c (valA x l) (valB x l) then 1 else 0)

/-- R91: each active lane takes the value of its source lane where that lane is in the group and active, else its own. -/
def Sys2Proof.Claims.ShufflesTakeActiveSources : Prop :=
  ∀ (i : Instr) (src : Nat → Nat → Int) (s : State) (x : Iss), shuffleFrom i = some src → Ready i s x →
    ∃ u h, exec i s = .next u ∧ Ran x s u h ∧ WroteVector x h fun l =>
      let n := src l (valB x l).toNat
      if 0 ≤ n ∧ n ≤ 95 ∧ x.act.getLsbD n.toNat = true then valA x n.toNat else valA x l

/-- R92, R97 and R98: `bcast`, `vote` and `compact`. -/
def Sys2Proof.Claims.BcastVoteCompactWriteTheirResult : Prop :=
  (∀ (g : BitVec 3) (d a b : BitVec 7) (s : State) (x : Iss), Ready (.bcast g d a b) s x →
    ∃ u h, exec (.bcast g d a b) s = .next u ∧ Ran x s u h ∧ h.gflags = x.g.gflags ∧
      let v := if (valB x 0).toNat ≤ 95 then valA x (valB x 0).toNat else 0
      WroteAny x h (fun _ => v) [v]) ∧
  (∀ (g : BitVec 3) (d a n : BitVec 7) (s : State) (x : Iss), Ready (.vote g d a n) s x →
    ∃ u h, exec (.vote g d a n) s = .next u ∧ Ran x s u h ∧ h.gflags = x.g.gflags ∧
      WroteAny x h (voteResult x n.toNat).1 (voteResult x n.toNat).2) ∧
  ∀ (g : BitVec 3) (d a : BitVec 7) (s : State) (x : Iss), Ready (.compact g d a) s x →
    ∃ u h, exec (.compact g d a) s = .next u ∧ Ran x s u h ∧ WroteVector x h (compacted x g)

/-- R95: `gred` gives the root of the fixed tree over the active lanes, with the flags of the additions the tree performs, where none of them is
lane-precise (R123); without an active lane nothing changes; and the rule's own word. -/
def Obligations.GredCombinesInTheFixedTree : Prop :=
  encode (.gred 7 110 8 1) = 0x5BEE1004#32 ∧
  ∀ (g : BitVec 3) (d a n : BitVec 7) (s : State) (x : Iss), Ready (.gred g d a n) s x →
    match treeAt n.toNat (leafOf_ x) 7 0 with
    | some (v, f) => f &&& x.precise s = 0 →
        ∃ u h, exec (.gred g d a n) s = .next u ∧ Ran x s u h ∧ WroteAny x h (fun _ => v) [v] ∧ h.gflags = x.g.gflags ||| f
    | none => x.act = 0 ∧ ∃ u h, exec (.gred g d a n) s = .next u ∧ Ran x s u h ∧ h.held = x.g.held

/-- R96: `gscan` combines in ascending lane order from the identity; a vector lane holds the value before or after its own, a
scalar the serial total; the flags are those of every addition, where none of them is lane-precise (R123). -/
def Obligations.GscanCombinesSerially : Prop :=
  ∀ (g : BitVec 3) (d a n : BitVec 7) (s : State) (x : Iss), Ready (.gscan g d a n) s x → (accAt x (n.toNat % 16) 96).2 &&& x.precise s = 0 →
    ∃ u h, exec (.gscan g d a n) s = .next u ∧ Ran x s u h ∧ h.gflags = x.g.gflags ||| (accAt x (n.toNat % 16) 96).2 ∧
      WroteAny x h (fun l => (accAt x (n.toNat % 16) (if 16 ≤ n.toNat then l else l + 1)).1) [(accAt x (n.toNat % 16) 96).1]

/-- R86, R87 and Table 04-5: a scalar form writes sd once, whatever lanes are enabled, on a group and on a courier. -/
def Obligations.ScalarFormsWriteOnce : Prop :=
  ∀ (i : Instr) (f : Iss → Word) (s : State) (x : Iss), scalarResult i = some f → Ready i s x →
    ∃ u, exec i s = .next u ∧ WroteScalar x s u x.d (f x)

/-- R57 and R89: an unassigned condition raises ILLEGAL, and `p7` as the destination OPERAND; as a source `p7` reads true. -/
def Sys2Proof.Claims.PredicatesAreChecked : Prop :=
  (∀ g p c a b f, 10 ≤ c.toNat → Bars (.icmp g p c a b f) .illegal) ∧ (∀ g p c a b f, 8 ≤ c.toNat → Bars (.fcmp g p c a b f) .illegal) ∧
  (∀ g c a b f, c.toNat < 10 → Bars (.icmp g 7 c a b f) .operand) ∧ (∀ g c a b f, c.toNat < 8 → Bars (.fcmp g 7 c a b f) .operand) ∧
  (∀ g q r, Bars (.pand g 7 q r) .operand ∧ Bars (.por g 7 q r) .operand ∧ Bars (.pxor g 7 q r) .operand ∧ Bars (.pnot g 7 q) .operand) ∧
  ∀ g : Grp, g.pred 7 = BitVec.allOnes 96

/-- R91, R92, R97 and R98: the registers that these forms refuse. -/
def Sys2Proof.Claims.CrossLaneClassesAreChecked : Prop :=
  (∀ (g : BitVec 3) (d a b : BitVec 7), 96 ≤ d.toNat ∨ 96 ≤ a.toNat →
    Bars (.shflIdx g d a b) .operand ∧ Bars (.shflXor g d a b) .operand ∧ Bars (.shflUp g d a b) .operand ∧ Bars (.shflDn g d a b) .operand ∧
    Bars (.compact g d a) .operand) ∧
  (∀ (g : BitVec 3) (d a b : BitVec 7), 96 ≤ a.toNat ∨ b.toNat < 96 → Bars (.bcast g d a b) .operand) ∧
  ∀ (g : BitVec 3) (d a : BitVec 7), 125 < d.toNat → Bars (.vote g d a 4) .operand

/-- R57, R89 and R90: the compares and the predicate forms, and their checks; and R93 for `v2p`. -/
def Obligations.ComparesAndPredicatesWriteActiveLanes : Prop :=
  Sys2Proof.Claims.PredicateFormsWriteActiveLanes ∧ Sys2Proof.Claims.FcmpComparesAndSetsNv ∧ Sys2Proof.Claims.PredicatesAreChecked

/-- R91, R92, R97 and R98: shuffles, `bcast`, `vote` and `compact`, and the registers that they refuse. -/
def Obligations.CrossLaneFormsTakeActiveLanes : Prop :=
  Sys2Proof.Claims.ShufflesTakeActiveSources ∧ Sys2Proof.Claims.BcastVoteCompactWriteTheirResult ∧ Sys2Proof.Claims.CrossLaneClassesAreChecked

/-! ## Control flow, hints and traps -/

namespace Sys2Proof.Claims

open Sys2Proof Sys2Proof.Machine

/-- The target of a direct branch: the address of the branch word or its D word, plus four times the displacement (R58). -/
def target {w : Nat} (x : Iss) (n : BitVec w) : DWord := BitVec.ofInt 64 ((x.pc.toNat - x.pc.toNat % 4 : Nat) + 4 * n.toInt)

/-- The next PC of lane `i` of quad `n` at a branch (R100): an active lane its target, a lane whose guard is false the
fall-through, a disabled lane the lowest next PC among the active lanes of its path, or the fall-through. -/
def nextPcOf (x : Iss) (dest : Nat → DWord) (n : Nat) (p : Path) (i : Nat) : DWord :=
  let act := fun j => decide (j < 4) && p.mask.getLsbD j && x.act.getLsbD (4 * n + j)
  if x.act.getLsbD (4 * n + i) then dest (4 * n + i)
  else if x.en.getLsbD (4 * n + i) then x.next
  else match (List.range 4).filter act with
    | [] => x.next
    | j :: js => js.foldl (fun m k => if (dest (4 * n + k)).toNat < m.toNat then dest (4 * n + k) else m) (dest (4 * n + j))

/-- A quad after a branch whose lanes have these next PCs (R100): its lanes grouped by next PC, the lowest the new path, the others
on top of the deferral stack so that they pop in ascending order. -/
def Diverged (q q' : Quad) (fall : DWord) (goal : Path → Nat → DWord) : Prop :=
  match q.path with
  | none => q' = q
  | some p =>
    if p.mask = 0 then q' = { q with path := some (Machine.Path.mk fall 0) }
    else ∃ (a : Path) (ps : List Path), q' = { q with path := some a, defer := ps ++ q.defer } ∧
      (a :: ps).Pairwise (fun b c => b.pc.toNat < c.pc.toNat) ∧
      (∀ r, r ∈ a :: ps → r.mask ≠ 0 ∧ ∀ i, i < 4 → r.mask.getLsbD i = (p.mask.getLsbD i && decide (goal p i = r.pc))) ∧
      ∀ i, i < 4 → p.mask.getLsbD i = true → ∃ r, r ∈ a :: ps ∧ r.pc = goal p i

/-- The fragment of a group continues at a PC, or the courier does. -/
def JumpedTo (x : Iss) (s u : State) (pc : DWord) : Prop :=
  match x.who with
  | .grp _ _ => ∃ h, Moved x s u h (fun e => x.moves pc e.2) ∧ h.held = x.g.held
  | .courier c => ∃ y, (s.core c).courier = some y ∧ OnlyCourier c s u { y with cpc := pc, wait := none, last := s.gtime }

/-- A quad after `call` (R104). -/
def calledFrom (x : Iss) (dest : DWord) (e : Nat × Quad) : Quad :=
  match e.2.path with
  | none => e.2
  | some p =>
    let calls := p.mask &&& quadBits x.act e.1
    let waits := p.mask &&& quadBits x.en e.1 &&& ~~~quadBits x.act e.1
    if calls = 0 then { e.2 with path := some (Machine.Path.mk x.next p.mask) }
    else { e.2 with path := some (Machine.Path.mk dest (p.mask &&& ~~~waits)), ret := Machine.Path.mk x.next waits :: e.2.ret }

/-- A quad after `ret` (R104). -/
def returned (e : Nat × Quad) : Quad :=
  match e.2.path, e.2.ret with
  | some p, r :: rest => { e.2 with path := some (Machine.Path.mk r.pc (p.mask ||| r.mask)), ret := rest }
  | _, _ => e.2

/-- Lanes parked at an address. -/
def parkedAt (ps : List Path) (pc : DWord) : BitVec 4 :=
  match ps.find? fun p => p.pc = pc with
  | some p => p.mask
  | none => 0

/-- A quad after `regang` (R102 steps 1 and 2). -/
def Regathered (pc : DWord) (q q' : Quad) : Prop :=
  match q.path with
  | none => q' = q
  | some p => q'.path = q.defer.head? ∧ q'.defer = q.defer.tail ∧ q'.ret = q.ret ∧
      parkedAt q'.park pc = (parkedAt q.park pc ||| p.mask) ∧ ∀ a, a ≠ pc → parkedAt q'.park a = parkedAt q.park a

/-- A hint with what it makes pending (R61 to R65). -/
def hintOf : Instr → Option (Hints → Hints)
  | .hintImm h => some fun y => { y with imm := some h }
  | .hintMod h => some fun y => { y with mod := some (BitVec.ofNat 23 h.toNat) }
  | .hintRep c d a b => some fun y => { y with rep := some (BitVec.ofNat 23 (64 * c.toNat + 16 * d.toNat + 4 * a.toNat + b.toNat)) }
  | .hintPref h => some fun y => { y with pref := some h }
  | .hintBar h => some fun y => { y with bar := some (BitVec.ofNat 23 h.toNat) }
  | _ => none

/-- The traps with their code in FAUX (R108, R212). -/
def trapOf : Instr → Option Word
  | .brk => some 0x80000000
  | .trap c => some (BitVec.ofNat 32 c.toNat)
  | _ => none

/-- The group of the issuing word holds the fault's record (R235, R373): code, PC, auxiliary values, the quads of its fragment;
it is the team's primary group where no other is, pending else, and it issues no more. -/
def Recorded (x : Iss) (h : Grp) (code : Nat) (faux : Word) (faddr : DWord) (first : Bool) : Prop :=
  h.fcode.toNat = code ∧ h.fpc = x.pc ∧ h.faux = faux ∧ h.faddr = faddr ∧ h.fhalt = false ∧ h.skid = 0 ∧ h.run = .faulted ∧
  h.primary = first ∧ h.pending = !first ∧ h.waits = [] ∧ (∀ q, q < 24 → h.frag.getLsbD q = x.fq.contains q)

/-- A team that its handler may serve at a fault of this word (R374): the kernel binds one, the context names one, the group is not
in one, and the team is not ending. -/
def Handled (x : Iss) (s : State) : Prop :=
  x.T.kobj.hbind = true ∧ (s.ctx x.ctx).handler ≠ 0 ∧ x.g.frame = none ∧ x.T.ending = none

/-- The host fault entry of a group's fault that no handler serves, and of a courier's (Table 12-6). -/
def groupFault (x : Iss) (c : FCode) (faux : Word) (faddr : DWord) : HFault :=
  { source := 1, fcode := c.code, ctx := x.ctx, core := x.core, who := x.T.teamn, lid := x.T.lid, aux := faux.toNat, pc := x.pc.toNat, addr := faddr.toNat }

def courierFault (x : Iss) (n : Nat) (y : Courier) (c : FCode) (faux : Word) (faddr : DWord) : HFault :=
  { source := 2, fcode := c.code, ctx := x.ctx, core := n, who := y.num, aux := faux.toNat, pc := x.pc.toNat, addr := faddr.toNat }

/-- Another group of the team is primary already. -/
def hasPrimary (T : Team) : Bool := T.groups.any fun e => e.2.primary

end Sys2Proof.Claims

/-- R58, R100 and R103 for `bra`: each lane of a fragment's quads goes where the rule sends it; on a courier the branch is taken. -/
def Sys2Proof.Claims.BraSendsEachLaneItsWay : Prop :=
  ∀ (g : BitVec 3) (n : BitVec 23) (s : State) (x : Iss), Ready (.bra g n) s x →
    ∃ u, exec (.bra g n) s = .next u ∧
      match x.who with
      | .grp _ _ => ∃ h f, Moved x s u h f ∧ h.held = x.g.held ∧
          ∀ e, e ∈ x.g.places → x.fq.contains e.1 = true → Diverged e.2 (f e) x.next (nextPcOf x (fun _ => target x n) e.1)
      | .courier c => ∃ y, (s.core c).courier = some y ∧ OnlyCourier c s u { y with cpc := target x n, wait := none, last := s.gtime }

/-- R103 for `sbra` and R41 for `loop`: the whole path goes by the scalar, which `loop` has lowered by one first. -/
def Sys2Proof.Claims.ScalarBranchesMoveTheWholePath : Prop :=
  (∀ (a : BitVec 6) (n : BitVec 20) (s : State) (x : Iss), Ready (.sbra a n) s x →
    ∃ u, exec (.sbra a n) s = .next u ∧ JumpedTo x s u (if x.g.sreg x.a = 0 then x.next else target x n)) ∧
  ∀ (a : BitVec 6) (n : BitVec 20) (s : State) (x : Iss), Ready (.loop a n) s x →
    ∃ u, exec (.loop a n) s = .next u ∧
      match x.who with
      | .grp _ _ =>
        let v := (x.g.sreg x.d - 1) &&& ~~~exitedWord x.g.exited x.d
        ∃ h, Moved x s u h (fun e => x.moves (if v = 0 then x.next else target x n) e.2) ∧ h.held = { x.g.held with s := h.s } ∧
          ∀ r, h.sreg r = if r = x.d then v else x.g.sreg r
      | .courier c => ∃ y z, (s.core c).courier = some y ∧ OnlyCourier c s u z ∧
          z = { y with s := z.s, cpc := (if x.g.sreg x.d - 1 = 0 then x.pc + 4 else target x n), wait := none, last := s.gtime } ∧
          ∀ r, Tab.get 0 z.s r = if r = x.d then x.g.sreg x.d - 1 else x.g.sreg r

/-- R104 for `call`: without a full return stack each quad pushes its return entry and its calling lanes go to the target; a push
of a 17th entry raises CALL_DEPTH; a courier pushes its return PC (R239). -/
def Sys2Proof.Claims.CallPushesOrRaisesCallDepth : Prop :=
  ∀ (g : BitVec 3) (n : BitVec 23) (s : State) (x : Iss), Ready (.call g n) s x →
    match x.who with
    | .grp _ _ =>
      let full := fun m => match (Tab.get {} x.g.quads m).path with
        | some p => p.mask &&& quadBits x.act m ≠ 0 ∧ 16 ≤ (Tab.get {} x.g.quads m).ret.length
        | none => False
      ((∃ m, m ∈ x.fq ∧ full m) → exec (.call g n) s = .next (x.raise s .callDepth)) ∧
      ((∀ m, m ∈ x.fq → ¬ full m) → ∃ u h, exec (.call g n) s = .next u ∧ Moved x s u h (calledFrom x (target x n)) ∧ h.held = x.g.held)
    | .courier c => ∃ y, (s.core c).courier = some y ∧
        (16 ≤ y.ret.length → exec (.call g n) s = .next (x.raise s .callDepth)) ∧
        (y.ret.length < 16 → ∃ u, exec (.call g n) s = .next u ∧
          OnlyCourier c s u { y with cpc := target x n, ret := (x.pc + 4) :: y.ret, wait := none, last := s.gtime })

/-- R104 for `ret`: each quad pops its top entry, its waiting lanes joining the path; an empty stack raises CALL_DEPTH. -/
def Sys2Proof.Claims.RetPopsOrRaisesCallDepth : Prop :=
  ∀ (s : State) (x : Iss), Ready .ret s x →
    match x.who with
    | .grp _ _ =>
      ((∃ m, m ∈ x.fq ∧ (Tab.get {} x.g.quads m).ret = []) → exec .ret s = .next (x.raise s .callDepth)) ∧
      ((∀ m, m ∈ x.fq → (Tab.get {} x.g.quads m).ret ≠ []) → ∃ u h, exec .ret s = .next u ∧ Moved x s u h returned ∧ h.held = x.g.held)
    | .courier c => ∃ y, (s.core c).courier = some y ∧
        match y.ret with
        | [] => exec .ret s = .next (x.raise s .callDepth)
        | pc :: rest => ∃ u, exec .ret s = .next u ∧ OnlyCourier c s u { y with cpc := pc, ret := rest, wait := none, last := s.gtime }

/-- R102 steps 1 and 2 for `regang`, and R107 for `yield`, which only gives way. -/
def Obligations.RegangParksAndYieldGivesWay : Prop :=
  (∀ (s : State) (x : Iss), Ready .regang s x →
    ∃ u h f, exec .regang s = .next u ∧ Moved x s u h f ∧ h.held = x.g.held ∧
      ∀ e, e ∈ x.g.places → x.fq.contains e.1 = true → Regathered x.pc e.2 (f e)) ∧
  ∀ (s : State) (x : Iss), Ready .yield s x →
    ∃ u h, exec .yield s = .next u ∧ Ran x s u h ∧ h.held = x.g.held ∧ h.yielded = some x.next

/-- R39, R106 and R381 for `exit`. In a handler it raises ILLEGAL; elsewhere it completes, and the fragment's enabled lanes exit for
good. While other lanes are left, their enable bits read 0, they leave their quads, and nothing else changes. The last lanes of a
group end the group, and the last group of a team that has nothing in flight and no window ends the team, where no other team is
about to end and no group waits at a latch. -/
def Obligations.ExitRemovesTheEnabledLanes : Prop :=
  ∀ (s : State) (x : Iss), Ready .exit s x →
    (x.g.frame.isSome = true → exec .exit s = .next (x.raise s .illegal)) ∧
    (x.g.frame = none → ∃ u, exec .exit s = .next u ∧ ∀ h, u.grp x.t x.k = some h → x.en &&& ~~~h.exited = 0) ∧
    (x.g.frame = none → x.g.exited ||| x.en ≠ BitVec.allOnes 96 →
      ∃ u h, exec .exit s = .next u ∧ u.grp x.t x.k = some h ∧ OnlyGroup x.t x.k s u ∧
        h.held = { x.g.held with exited := x.g.exited ||| x.en, s := h.s } ∧
        (∀ r, h.sreg r = if r = 61 ∨ r = 62 ∨ r = 63 then x.g.sreg r &&& ~~~exitedWord (x.g.exited ||| x.en) r else x.g.sreg r) ∧
        ∀ n q, n < 24 → Tab.find h.quads n = some q → ∀ p, p ∈ q.path.toList ++ q.defer ++ q.park ++ q.ret → p.mask &&& quadBits x.en n = 0) ∧
    (x.g.frame = none → x.g.exited ||| x.en = BitVec.allOnes 96 → Tab.rising 0 x.T.groups = true → (∀ e, e ∈ x.T.groups → e.2.muster = none) →
      (∀ e, e ∈ s.teams → e.2.ending = none) →
      ((∃ j g, j ≠ x.k ∧ Tab.find x.T.groups j = some g ∧ g.run ≠ .ended) →
        ∃ u h, exec .exit s = .next u ∧ u.grp x.t x.k = some h ∧ h.run = .ended ∧ h.exited = BitVec.allOnes 96 ∧ h.mops = []) ∧
      ((∀ j g, j ≠ x.k → Tab.find x.T.groups j = some g → g.run = .ended) → x.T.wins = [] →
        (∀ e, e ∈ s.ops → e.2.who.ofTeam x.t = true → e.2.drained = true) → (∀ e m, e ∈ s.mcast → m ∈ e.2.members → m.2.team ≠ x.t) →
        ∃ u, exec .exit s = .next u ∧ u.team x.t = none))

/-- R105 for `jmpi`: an index at or above n raises BRANCH_RANGE with the lowest such lane, then a table address that is no multiple
of 4 raises ALIGN. -/
def Sys2Proof.Claims.JmpiChecksItsIndicesFirst : Prop :=
  ∀ (g : BitVec 3) (d a b : BitVec 7) (s : State) (x : Iss), Ready (.jmpi g d a b) s x → x.whole s →
    (∀ l, l < 96 → x.act.getLsbD l = true → d.toNat ≤ (valA x l).toNat →
      (∀ j, j < l → x.act.getLsbD j = true → (valA x j).toNat < d.toNat) →
      exec (.jmpi g d a b) s = .next (x.raise s .branchRange (BitVec.ofNat 32 l))) ∧
    ((∀ l, l < 96 → x.act.getLsbD l = true → (valA x l).toNat < d.toNat) → (x.g.pair x.b 0).toNat % 4 ≠ 0 →
      exec (.jmpi g d a b) s = .next (x.raise s .align))

/-- R105 for a `jmpi` that no check stops: every active lane reads its table entry, a signed word displacement, where it is in
memory now, and the lanes diverge to their targets. No copy of the table is held in the L1, no line of it is poisoned, no
earlier access of the group to it is outstanding, and its tables and homes can be reached (R325, R402). Where repetitions are left the issue stays at the word (the model's choice, log
47). -/
def Sys2Proof.Claims.JmpiBranchesThroughItsTable : Prop :=
  ∀ (g : BitVec 3) (d a b : BitVec 7) (s : State) (x : Iss) (pa : Nat → Nat), Ready (.jmpi g d a b) s x →
    let va := fun l => (x.g.pair x.b 0).toNat + 4 * (valA x l).toNat
    (x.g.pair x.b 0).toNat % 4 = 0 →
    (∀ l, l < 96 → x.act.getLsbD l = true → (valA x l).toNat < d.toNat ∧ va l < 2 ^ 60 ∧ x.earlierPend s (va l) 4 = false ∧ s.vaReady x.core x.ctx .r (va l) 4 = true ∧
      (∃ t, s.trans x.core x.ctx .r (va l) = .ok t ∧ t.pa = pa l) ∧ s.l1Hit x.core (pa l) = none ∧ s.poisonedAt (pa l) = false) →
    ∃ (u : State) (h : Grp) (f : Nat × Quad → Quad), exec (.jmpi g d a b) s = .next u ∧ u.grp x.t x.k = some h ∧ OnlyGroup x.t x.k s u ∧ h.held = x.g.held ∧
      h.places = (x.g.places.map fun e => (e.1, if x.fq.contains e.1 then f e else e.2)) ∧
      (if x.last then h.hints = ({} : Hints) ∧ h.rep = none ∧ h.hintPc = none
       else h.hints = x.g.hints ∧ h.rep = some (BitVec.ofNat 6 (x.rep + 1)) ∧ h.hintPc = some x.pc) ∧
      ∀ e, e ∈ x.g.places → x.fq.contains e.1 = true →
        Diverged e.2 (f e) x.next (nextPcOf x (fun l => target x (BitVec.ofNat 32 (leNat (s.cohRead (pa l) 4)))) e.1)

/-- R61 to R65 for the hints: the payload is pending beside those before it, and the fragment issues the next word; PREF may
bring its block of code into the pod's instruction cache, where a read of HBM counts at the page (R327), and touches nothing else. -/
def Obligations.HintsBecomePending : Prop :=
  ∀ (i : Instr) (f : Hints → Hints) (s : State) (x : Iss), hintOf i = some f → Ready i s x →
    ∃ u h, exec i s = .next u ∧ u.grp x.t x.k = some h ∧ h.hints = f x.g.hints ∧ h.hintPc = some x.next ∧ h.rep = none ∧
      h.held = x.g.held ∧ h.places = (x.g.places.map fun e => (e.1, x.moves x.next e.2)) ∧
      OnlyGroup x.t x.k { s with icache := u.icache, placement := u.placement } u ∧ ((form i).hk ≠ 3 → u.icache = s.icache ∧ u.placement = s.placement)

/-- R108 and R212: `brk` and `trap` raise TRAP with their code in FAUX. In a team whose handler serves it the group records it and
stops at the word, and its siblings are told to halt (R372, R373). -/
def Obligations.TrapsRecordTheirCode : Prop :=
  ∀ (i : Instr) (v : Word) (s : State) (x : Iss), trapOf i = some v → Ready i s x →
    exec i s = .next (x.raise s .trap v) ∧
    (x.onCourier = false → x.whole s → Handled x s →
      ∃ u h, exec i s = .next u ∧ u.grp x.t x.k = some h ∧ Recorded x h 0x41 v 0 (!hasPrimary x.T) ∧
        (u.team x.t).map (·.halted) = some true ∧
        ∀ j g, j ≠ x.k → s.grp x.t j = some g → g.run = .running → g.halting = none → (u.grp x.t j).map (·.halting) = some (some 0))

/-- Table 03-19 and R373: a word that fails a word check raises that fault and has no effect, for every word but a D word, whose
slots are checked one by one. -/
def Sys2Proof.Claims.FailedWordChecksRaise : Prop :=
  ∀ (i : Instr) (s : State) (x : Iss) (c : FCode), isWord i = true → (form i).fmt ≠ .D → s.stand (form i) = .ok x →
    wordFault x.form x.onCourier (s.ctx x.ctx).priv x.T.kobj.regs x.g.hints x.rep = some c → exec i s = .next (x.raise s c)

/-- R373 and R374 for a fault of a group: with a handler that may serve it the group records it and its team halts; without one the
host is told with SOURCE 1 and the team's kill has begun (Table 16-6); R239 for a courier: it stops at its word and the host is told. -/
def Obligations.FaultsAreRecordedOrReported : Prop :=
  ∀ (s : State) (f : Form) (x : Iss) (c : FCode) (faux : Word) (faddr : DWord), s.stand f = .ok x → x.whole s →
    match x.who with
    | .grp _ _ =>
      (Handled x s → ∃ h, (x.raise s c faux faddr).grp x.t x.k = some h ∧ Recorded x h c.code faux faddr (!hasPrimary x.T) ∧
        ((x.raise s c faux faddr).team x.t).map (·.halted) = some true ∧ SameMemory s (x.raise s c faux faddr)) ∧
      (¬ Handled x s → x.T.ending = none →
        (∀ T, (x.raise s c faux faddr).team x.t = some T → T.ending.isSome = true) ∧
        (s.ring.set = false → s.ring.kept.length < 64 → Tab.rising 0 x.T.groups = true →
          ∃ es, (x.raise s c faux faddr).ring.kept = s.ring.kept ++ (groupFault x c faux faddr).bytes s.gtime :: es))
    | .courier n => ∃ y, (s.core n).courier = some y ∧
        ((x.raise s c faux faddr).core n).courier = some { y with stopped := true, wait := none } ∧
        (s.ring.set = false → s.ring.kept.length < 64 → (x.raise s c faux faddr).ring.kept = s.ring.kept ++ [(courierFault x n y c faux faddr).bytes s.gtime])

/-- R66, R67 and R271 for a D word. Without a dictionary and in a handler it raises DICT. With the dictionary loaded, slot A, or slot
B at PC + 2, executes the entry's word with its vector registers moved by 8 times the offset, and slot A knows whether slot B
follows; where that word may run and is one of the two-source forms, it has its result. An entry with a D or H word raises DICT. -/
def Obligations.DictRunsItsEntry : Prop :=
  ∀ (a : BitVec 10) (o : BitVec 3) (b : BitVec 10) (y : BitVec 3) (s : State) (x : Iss),
    s.stand (form (.dict a o b y)) = .ok x → x.onCourier = false → x.g.hints.pend = 0 → (x.pc.getLsbD 1 = true → b ≠ 1023) →
    (x.T.kobj.dict = 0 ∨ x.g.frame.isSome = true → exec (.dict a o b y) s = .next (x.raise s .dict)) ∧
    ∀ (p : DictPlace) (i : Instr), x.T.kobj.dict ≠ 0 → x.g.frame = none →
      (s.core x.core).dicts.find? (fun p => p.ctx = x.ctx && p.addr = x.T.kobj.dict) = some p →
      let second := x.pc.getLsbD 1
      let e := if second then b else a
      let off := if second then y.toNat else o.toNat
      let j := mapCodes (offCode off) i
      let s' := s.modGrp x.t x.k fun g => { g with inSlot := !second && decide (b ≠ 1023) }
      Tab.find p.bad e.toNat = none → decode (p.words.getD e.toNat 0) = .ok i →
      ((form i).fmt = .H ∨ (form i).fmt = .D → exec (.dict a o b y) s = .next (x.raise s .dict)) ∧
      ((form i).fmt ≠ .H → (form i).fmt ≠ .D →
        exec (.dict a o b y) s = exec j s' ∧ (∃ u, exec (.dict a o b y) s = .next u) ∧
        ∀ (f : Word → Word → Word) (x' : Iss), twoSource j = some f → Ready j s' x' →
          ∃ u h, exec (.dict a o b y) s = .next u ∧ Ran x' s' u h ∧ WroteVector x' h fun l => f (valA x' l) (valB x' l))

/-- R59, R60 and R64: a word that is no instruction raises ILLEGAL; where only its zero fields are wrong, ILLEGAL outside the courier's
subset, HINT_SEQ where the pending hints do not fit the instruction, else RESERVED_BITS; and it has no other effect. -/
def Sys2Proof.Claims.UnassignedEncodingRaises : Prop :=
  ∀ (w : Word) (s : State) (x : Iss), s.stand { fmt := .S } = .ok x →
    (decode w = .error .illegal → exec (.unassignedEncoding w) s = .next (x.raise s .illegal)) ∧
    (∀ i, decode w = .error (.reservedBits i) →
      let y : Iss := { x with form := form i }
      (x.onCourier = true → (form i).courier = false → exec (.unassignedEncoding w) s = .next (y.raise s .illegal)) ∧
      ((x.onCourier = true → (form i).courier = true) → hintBad x.g.hints (form i) = true →
        exec (.unassignedEncoding w) s = .next (y.raise s .hintSeq)) ∧
      ((x.onCourier = true → (form i).courier = true) → hintBad x.g.hints (form i) = false →
        exec (.unassignedEncoding w) s = .next (y.raise s .reservedBits)))

/-- R41, R58, R100 and R103: `bra`, `sbra` and `loop`. -/
def Obligations.BranchesMoveTheirLanes : Prop :=
  Sys2Proof.Claims.BraSendsEachLaneItsWay ∧ Sys2Proof.Claims.ScalarBranchesMoveTheWholePath

/-- R105 for `jmpi`: its indices and its table are checked, then each lane goes where its entry says. -/
def Obligations.JmpiChecksThenBranches : Prop :=
  Sys2Proof.Claims.JmpiChecksItsIndicesFirst ∧ Sys2Proof.Claims.JmpiBranchesThroughItsTable

/-- R104: `call` and `ret`, and CALL_DEPTH past the stack's ends. -/
def Obligations.CallsAndReturnsUseTheStack : Prop :=
  Sys2Proof.Claims.CallPushesOrRaisesCallDepth ∧ Sys2Proof.Claims.RetPopsOrRaisesCallDepth

/-- R59 and R60: a word that fails a check raises it, and so does an encoding that is not assigned. -/
def Obligations.WordsThatMayNotRunRaise : Prop :=
  Sys2Proof.Claims.FailedWordChecksRaise ∧ Sys2Proof.Claims.UnassignedEncodingRaises

/-! ## Memory: what issue leaves in flight -/

namespace Sys2Proof.Claims

open Sys2Proof Sys2Proof.Machine

/-- The shares of an operation: one for each lane of a mask, each at its place, one part for each sector of each place (R140), or for
each word of a gather (R142). -/
def Shares (o : MemOp) (m : LaneMask) (place : Nat → Place) (name addr : Nat → Nat) (data : Nat → BitVec 128) : Prop :=
  (∀ l, (l < 96 ∧ m.getLsbD l = true) ↔ ∃ p a, p ∈ o.parts ∧ a ∈ p.lanes ∧ a.lane = l) ∧
  (∀ p a, p ∈ o.parts → a ∈ p.lanes → p.place = place a.lane ∧ p.sector = addr a.lane / 64 ∧ a.name = name a.lane ∧
    a.addr = addr a.lane ∧ a.data = data a.lane) ∧
  (o.kind ≠ .hgath → o.parts.Pairwise fun p q => p.place ≠ q.place ∨ p.sector ≠ q.sector) ∧
  (o.kind = .hgath → (∀ p a b, p ∈ o.parts → a ∈ p.lanes → b ∈ p.lanes → a.addr = b.addr) ∧
    o.parts.Pairwise fun p q => ∀ a b, a ∈ p.lanes → b ∈ q.lanes → a.addr ≠ b.addr)

/-- The core has `n` miss-status entries free (R19). -/
def MissRoom (x : Iss) (s : State) (n : Nat) : Prop := s.missesOf x.core + n ≤ 1024

/-- A core apart from its L1 and its throttle. -/
def coreRest (k : Core) : Core := { k with l1 := [], victims := [], thr := false, nmem := 0, threshold := 0 }

/-- A word of a group has left operation `o` in flight under the next number, and counted it; beside it only the core's L1 and the
throttle may have noticed. Every byte of memory is as before. -/
def LeftInFlight (x : Iss) (s u : State) (o : MemOp) : Prop :=
  u.nextOp = s.nextOp + 1 ∧ (∀ j, Tab.find u.ops j = if j = s.nextOp then some o else Tab.find s.ops j) ∧
  o.who = x.owner ∧ o.core = x.core ∧ o.ctx = x.ctx ∧ o.pc = x.pc ∧ o.replied = false ∧
  (∀ c, coreRest (u.core c) = coreRest (s.core c)) ∧
  ∃ h, Ran x { s with ops := u.ops, nextOp := u.nextOp, cores := u.cores, order := u.order, freeCtr := u.freeCtr } u h ∧ SameMemory s u ∧
    { h.held with score := 0 } =
      (match o.ifc with | some n => (fun (g : Grp) => { g with score := 0 }) (x.g.held.modIfc n (· + 1)) | none => { x.g.held with score := 0 })

/-- Nothing of the operation has been performed, but for sectors that the L1 served under a lease (R258). -/
def Fresh (o : MemOp) (now : Nat) : Prop :=
  ∀ p, p ∈ o.parts → p.st = .waiting ∨ (o.kind.isWrite = false ∧ p.place = .home ∧ p.leased = true ∧ p.st = .done now)

/-- A global access of one value per active lane: its operation, size and alignment, the kind of its translation, each lane's
address, the name and place it accesses from that address, its data, its destination and its in-flight counter. -/
structure Access where
  kind : OpK
  size : Nat
  align : Nat
  acc : Acc
  addr : Iss → Nat → Nat
  base : Nat → Nat := id
  data : Iss → Nat → BitVec 128 := fun _ _ => 0
  dst : Iss → Dst := fun _ => .none
  ifc : Iss → Nat

/-- A load into `n` registers. -/
def loadAs (kind : OpK) (size n : Nat) (addr : Iss → Nat → Nat) : Access :=
  { kind := kind, size := size, align := size, acc := .r, addr := addr, dst := fun x => .vec x.d n, ifc := fun _ => 0 }

/-- A store of `n` registers. -/
def storeAs (size n : Nat) (addr : Iss → Nat → Nat) : Access :=
  { kind := .store, size := size, align := size, acc := .w, addr := addr, data := fun x => x.data x.d n, ifc := fun _ => 3 }

/-- An atomic operation: without a destination it is counted as a store (Table 06-7). -/
def atomicAs (k : AtomK) : Access :=
  { kind := .atomic k, size := atomSize k, align := atomSize k, acc := .rw, addr := Iss.addrT, data := fun x => x.atomData k,
    dst := fun x => if x.d = 127 then .none else .vec x.d (atomSize k / 4), ifc := fun x => if x.d = 127 then 3 else 0 }

/-- The atomic operation of a word (Table 06-5). -/
def atomKind : Instr → Option AtomK
  | .atomAdd _ _ _ _ t => some (if t = 0 then .addI32 else if t = 1 then .addF32 else if t = 2 then .addI64 else .addF16x2)
  | .atomMin _ _ _ _ t => some (if t = 0 then .minI32 else if t = 1 then .minN32 else if t = 2 then .minF32 else .minI64)
  | .atomMax _ _ _ _ t => some (if t = 0 then .maxI32 else if t = 1 then .maxN32 else if t = 2 then .maxF32 else .maxI64)
  | .atomAnd .. => some .and32
  | .atomOr .. => some .or32
  | .atomXor .. => some .xor32
  | .atomExch .. => some .exch
  | .cas _ _ _ _ t => some (if t = 0 then .cas32 else .cas64)
  | _ => none

/-- The global accesses (R139, R141, R142, R144, R151, R152). -/
def accessOf : Instr → Option Access
  | .ld _ _ _ z m => some (loadAs (.load (sizeSigned z)) (sizeBytes z) (wordsOf (sizeBytes z)) fun x => x.addrM m (sizeBytes z))
  | .ldx _ _ _ _ c => some (loadAs (.load false) 4 1 fun x => x.addrX c)
  | .hgath _ _ _ _ c => some (loadAs .hgath 4 1 fun x => x.addrX c)
  | .ldt _ _ _ m => some { loadAs .ldt 64 1 fun x => x.addrM m 64 with align := 1, base := fun a => a / 64 * 64 }
  | .st _ _ _ z m => some (storeAs (sizeBytes z) (wordsOf (sizeBytes z)) fun x => x.addrM m (sizeBytes z))
  | .stx _ _ _ _ c => some (storeAs 4 1 fun x => x.addrX c)
  | .stt _ _ _ m => some { storeAs 64 1 fun x => x.addrM m 64 with kind := .stt, align := 1, base := fun a => a / 64 * 64 }
  | i => (atomKind i).map atomicAs

/-- No active lane fails a check of Table 06-2: its address is aligned and below 2^60, the tables that translate it can be read (R402), and
its translation holds. -/
def LanesPass (x : Iss) (s : State) (al : Nat) (k : Acc) (addr : Nat → Nat) (tr : Nat → Tr) : Prop :=
  ∀ l, l < 96 → x.act.getLsbD l = true → addr l % al = 0 ∧ addr l < 2 ^ 60 ∧ s.tablesReady x.core x.ctx (addr l) = true ∧ s.trans x.core x.ctx k (addr l) = .ok (tr l)

/-- The lanes of a gather name at most 16 distinct words of one 4 KiB range (R142). -/
def GatherFits (x : Iss) (addr : Nat → Nat) : Prop :=
  (∀ l j, l < 96 → j < 96 → x.act.getLsbD l = true → x.act.getLsbD j = true → addr l / 4096 = addr j / 4096) ∧
  ((lanesOf x.act).map addr).eraseDups.length ≤ 16

/-- A float atomic that a DETERMINISTIC launch sends to the hamper (R154). -/
def hampered (x : Iss) (i : Instr) : Bool :=
  match atomKind i with
  | some k => x.T.kobj.mode = 2 && [AtomK.addF32, .addF16x2, .minF32, .maxF32].contains k && !x.g.hints.now
  | none => false

/-- The form of a stash access (R139, R153): kind, size, whether it writes, lanes' addresses, data and destination. -/
def stashOf : Instr → Option (OpK × Nat × Bool × (Iss → Nat → Nat) × (Iss → Nat → BitVec 128) × (Iss → Dst))
  | .lds _ _ _ z m => some (.load (sizeSigned z), sizeBytes z, false, fun x => x.stashM m (sizeBytes z), fun _ _ => 0, fun x => .vec x.d (wordsOf (sizeBytes z)))
  | .sts _ _ _ z m => some (.store, sizeBytes z, true, fun x => x.stashM m (sizeBytes z), fun x => x.data x.d (wordsOf (sizeBytes z)), fun _ => .none)
  | .satom _ _ _ _ t =>
    let k : AtomK := if t = 0 then .addI32 else if t = 1 then .addF32 else if t = 2 then .maxN32 else .exch
    some (.atomic k, 4, true, fun x l => (x.g.code x.a l).toNat, fun x => x.atomData k, fun x => if x.d = 127 then .none else .vec x.d 1)
  | _ => none

/-- What a scalar access leaves in flight on a group or a courier: one share, counted only on a group. -/
def LeftOne (x : Iss) (s u : State) (o : MemOp) (va pa : Nat) (data : BitVec 128) : Prop :=
  (match x.who with
    | .grp _ _ => LeftInFlight x s u o
    | .courier c => u.nextOp = s.nextOp + 1 ∧ (∀ j, Tab.find u.ops j = if j = s.nextOp then some o else Tab.find s.ops j) ∧
        o.who = x.owner ∧ SameMemory s u ∧ { u with ops := [], nextOp := 0, cores := [], order := 0 } = { s with ops := [], nextOp := 0, cores := [], order := 0 } ∧
        (∀ d, d ≠ c → u.core d = s.core d) ∧
        (u.core c).courier = (s.core c).courier.map fun (y : Courier) => { y with cpc := x.next, wait := none, last := s.gtime }) ∧
  ∃ p a, o.parts = [p] ∧ p.lanes = [a] ∧ p.place = .home ∧ p.sector = pa / 64 ∧ a.name = va ∧ a.addr = pa ∧ a.data = data

/-- The issuing agent's counter has room. -/
def CounterRoom (x : Iss) (n : Nat) : Prop := x.onCourier = false → x.g.ifc n < 1024

/-- A record that `l`'s float atomic leaves in the core's hamper (R154). -/
def hamperRecord (x : Iss) (k : AtomK) (tr : Nat → Tr) (l : Nat) : HRec :=
  { ctx := x.ctx, lid := x.T.lid, pa := (tr l).pa, va := x.addrT l, k := k, value := (x.g.code x.b l).setWidth 64, teamn := x.g.id.teamn.toNat, gint := x.k, lane := l,
    prog := x.g.hcount, epoch := x.g.epoch, team := x.t, loc := .core x.core, leaf := (tr l).leaf, ipa := (tr l).ipa, lsz := (tr l).lsz, dset := (tr l).d }

/-- Hamper records of a core. -/
def hampersOn (s : State) (core : Nat) : Nat := (s.hamper.filter fun r => decide (r.loc = HLoc.core core)).length


end Sys2Proof.Claims

/-- R139 to R142, R144, R151, R152 and Table 06-7: a global load, store, gather, tag access or atomic whose active lanes pass the
checks of Table 06-2 leaves one operation in flight, with each active lane's address, data and destination, and its counter rises,
where the counter and the core's miss-status entries have room. -/
def Obligations.AccessesLeaveTheirOperation : Prop :=
  ∀ (i : Instr) (a : Access) (s : State) (x : Iss) (tr : Nat → Tr), accessOf i = some a → Ready i s x → hampered x i = false →
    LanesPass x s a.align a.acc (a.addr x) tr → (a.kind = .hgath → GatherFits x (a.addr x)) → x.g.ifc (a.ifc x) < 1024 →
    MissRoom x s (lanesOf x.act).length →
    ∃ u o, exec i s = .next u ∧ LeftInFlight x s u o ∧ Fresh o (s.dieNow (dieOf x.core)) ∧ o.kind = a.kind ∧ o.size = a.size ∧ o.dst = a.dst x ∧
      o.ifc = some (a.ifc x) ∧ o.bar = none ∧
      Shares o x.act (fun _ => .home) (fun l => a.base (a.addr x l)) (fun l => a.base (tr l).pa) (a.data x)

/-- R154: a float atomic of a DETERMINISTIC launch with a destination raises OPERAND; without one, each active lane leaves a record
in its core's hamper where that has room and IFC3 is below 1,024 (R227), and the group's program count rises by one. -/
def Obligations.DeterministicFloatsGoToTheHamper : Prop :=
  ∀ (i : Instr) (k : AtomK) (s : State) (x : Iss), atomKind i = some k → Ready i s x → hampered x i = true →
    (x.d ≠ 127 → exec i s = .next (x.raise s .operand)) ∧
    ∀ tr : Nat → Tr, x.d = 127 → LanesPass x s (atomSize k) .rw x.addrT tr → hampersOn s x.core + (lanesOf x.act).length ≤ 2048 → x.g.ifc3 < 1024 →
      ∃ u h, exec i s = .next u ∧ u.hamper = s.hamper ++ (lanesOf x.act).map (hamperRecord x k tr) ∧
        Ran x { s with hamper := u.hamper } u h ∧ SameMemory s u ∧ h.held = { x.g.held with hcount := x.g.hcount + 1 }

/-- R137, R139, R153 and R156: a stash load, store or atomic whose active lanes name aligned stash bytes, no live barrier object
being written, leaves one operation in flight at the stashes named; no counter counts it (for `satom` the model's choice, log 52). -/
def Obligations.StashAccessesLeaveTheirOperation : Prop :=
  ∀ (i : Instr) (kind : OpK) (size : Nat) (wr : Bool) (addr : Iss → Nat → Nat) (data : Iss → Nat → BitVec 128) (dst : Iss → Dst)
    (s : State) (x : Iss) (team off : Nat → Nat), stashOf i = some (kind, size, wr, addr, data, dst) → Ready i s x →
    (∀ l, l < 96 → x.act.getLsbD l = true → addr x l % size = 0 ∧ s.stashRef x.t x.T (addr x l) size = some (team l, off l) ∧
      (wr = true → ∀ U, s.team (team l) = some U → U.overBar (off l) size = false)) → MissRoom x s 0 →
    ∃ u o, exec i s = .next u ∧ LeftInFlight x s u o ∧ (∀ p, p ∈ o.parts → p.st = .waiting) ∧ o.kind = kind ∧ o.size = size ∧ o.dst = dst x ∧
      o.ifc = none ∧ Shares o x.act (fun l => .stash (team l)) (addr x) off (data x)

/-- R139 for `sld` and `sst`, R202 for `pread`: one access for the whole issue, on a group and, for the first two, on a courier;
`sld` and `sst` without an active lane do nothing. -/
def Obligations.ScalarAccessesHappenOnce : Prop :=
  (∀ (g : BitVec 3) (d a : BitVec 6) (z : BitVec 3) (m : BitVec 6) (s : State) (x : Iss) (t : Tr), Ready (.sld g d a z m) s x → x.act ≠ 0 →
    let va := x.addrS m (sizeBytes z)
    va % sizeBytes z = 0 → va < 2 ^ 60 → s.tablesReady x.core x.ctx va = true → s.trans x.core x.ctx .r va = .ok t → CounterRoom x 0 → MissRoom x s 1 →
    ∃ u o, exec (.sld g d a z m) s = .next u ∧ LeftOne x s u o va t.pa 0 ∧ Fresh o (s.dieNow (dieOf x.core)) ∧ o.kind = .load (sizeSigned z) ∧ o.size = sizeBytes z ∧
      o.dst = .scal x.d (wordsOf (sizeBytes z)) ∧ o.ifc = if x.onCourier then none else some 0) ∧
  (∀ (g : BitVec 3) (d a : BitVec 6) (z : BitVec 3) (m : BitVec 6) (s : State) (x : Iss) (t : Tr), Ready (.sst g d a z m) s x → x.act ≠ 0 →
    let va := x.addrS m (sizeBytes z)
    va % sizeBytes z = 0 → va < 2 ^ 60 → s.tablesReady x.core x.ctx va = true → s.trans x.core x.ctx .w va = .ok t → CounterRoom x 3 → MissRoom x s 1 →
    ∃ u o, exec (.sst g d a z m) s = .next u ∧
      LeftOne x s u o va t.pa (if sizeBytes z = 8 then (x.g.spair x.d).setWidth 128 else (x.g.sreg x.d).setWidth 128) ∧
      Fresh o (s.dieNow (dieOf x.core)) ∧ o.kind = .store ∧ o.size = sizeBytes z ∧ o.dst = .none ∧ o.ifc = if x.onCourier then none else some 3) ∧
  (∀ (i : Instr) (s : State) (x : Iss), (∃ g d a z m, i = .sld g d a z m ∨ i = .sst g d a z m) → Ready i s x → x.act = 0 → x.onCourier = false →
    ∃ u h, exec i s = .next u ∧ Ran x s u h ∧ h.held = x.g.held) ∧
  ∀ (d a b : BitVec 6) (s : State) (x : Iss) (t : Tr), Ready (.pread d a b) s x →
    let va := (x.g.spair x.a).toNat + 16 * (x.g.sreg x.b).toNat
    (x.g.sreg x.b).toNat ≤ 7 → x.act ≠ 0 → MissRoom x s 1 → (x.g.spair x.a).toNat % 16 = 0 → va < 2 ^ 60 → s.tablesReady x.core x.ctx va = true → s.trans x.core x.ctx .r va = .ok t → isLocal t.pa = true →
    ∃ u o, exec (.pread d a b) s = .next u ∧ LeftOne x s u o va t.pa 0 ∧ (∀ p, p ∈ o.parts → p.st = .waiting) ∧ o.kind = .pread ∧ o.size = 16 ∧
      o.dst = .scal x.d 4 ∧ o.ifc = none

/-- R146: a lane copy whose active lanes pass the checks of both sides leaves one operation in flight, counted in IFC1, with each
lane's global sector and stash bytes, and the barrier object of a BAR hint at its generation now. -/
def Sys2Proof.Claims.LaneCopiesLeaveTheirOperation : Prop :=
  ∀ (toStash : Bool) (g : BitVec 3) (d a : BitVec 7) (m : BitVec 6) (s : State) (x : Iss) (tr : Nat → Tr) (team off : Nat → Nat),
    let i : Instr := if toStash then .cpaIn g d a m else .cpaOut g d a m
    Ready i s x → LanesPass x s 16 (if toStash then .r else .w) (x.addrM m 16) tr → x.g.ifc 1 < 1024 → MissRoom x s (lanesOf x.act).length →
    (∀ l, l < 96 → x.act.getLsbD l = true → (x.g.code x.d l).toNat % 16 = 0 ∧ s.stashRef x.t x.T (x.g.code x.d l).toNat 16 = some (team l, off l) ∧
      (toStash = true → ∀ U, s.team (team l) = some U → U.overBar (off l) 16 = false)) →
    ∃ u o, exec i s = .next u ∧ LeftInFlight x s u o ∧ Fresh o (s.dieNow (dieOf x.core)) ∧ o.kind = (if toStash then .cpaIn else .cpaOut) ∧
      o.size = 16 ∧ o.dst = .none ∧ o.ifc = some 1 ∧ o.bar = x.creditBar ∧
      Shares o x.act (fun _ => .home) (x.addrM m 16) (fun l => (tr l).pa) (fun _ => 0) ∧
      ∀ p c, p ∈ o.parts → c ∈ p.lanes → c.aux = packStash (team c.lane) (off c.lane)

/-- R145 for `pf`: addresses that fail a check are dropped, and it goes on with nothing changed where all are. A line of local or peer memory
that one lane names, neither owned by a stash nor asked for under cache policy 3, is in the core's L1 then, where L2 has or can take the line; under
cache policy 3 it is in L2 alone. No byte changes. It waits while the line's home takes no request (R325, R402). -/
def Sys2Proof.Claims.PrefetchFillsTheL1 : Prop :=
  ∀ (g : BitVec 3) (a : BitVec 7) (m : BitVec 6) (s : State) (x : Iss), Ready (.pf g a m) s x →
    let va := x.addrM m 128
    ((∀ l, l < 96 → x.act.getLsbD l = true → 2 ^ 60 ≤ va l ∨ (s.tablesReady x.core x.ctx (va l) = true ∧ ∃ f, s.trans x.core x.ctx .r (va l) = .error f)) →
      ∃ u h, exec (.pf g a m) s = .next u ∧ Ran x s u h ∧ h.held = x.g.held) ∧
    ∀ l t, l < 96 → x.act = (1 : LaneMask) <<< l → va l < 2 ^ 60 → s.tablesReady x.core x.ctx (va l) = true → s.trans x.core x.ctx .r (va l) = .ok t →
      (s.takes t.pa = false → exec (.pf g a m) s = .next (x.hold s)) ∧
      (s.takes t.pa = true → isHost t.pa = false → s.ownerOf (lineOf t.pa) = none → (s.line (lineOf t.pa)).present = true ∨ isPeer t.pa = true ∨ s.setFull (lineOf t.pa) = false →
        ∃ u h, exec (.pf g a m) s = .next u ∧ { h.held with score := 0 } = { x.g.held with score := 0 } ∧ SameMemory s u ∧
          Ran x { s with lines := u.lines, cores := u.cores, order := u.order, placement := u.placement, freeCtr := u.freeCtr } u h ∧
          (∀ c, coreRest (u.core c) = coreRest (s.core c)) ∧
          (x.g.hints.policy ≠ 3 → (Tab.find (u.core x.core).l1 (lineOf t.pa)).isSome = true) ∧
          (x.g.hints.policy = 3 → u.cores = s.cores ∧ (isPeer t.pa = false → (u.line (lineOf t.pa)).present = true)))

/-- R138 and Table 06-2 for a global access: the checks come in order, each over all active lanes before the next, and the lowest
lane that fails one raises it with that lane in FAUX and its address in FADDR, before anything is accessed. The tables that translate the
addresses can be read: the word waits otherwise (R402). -/
def Obligations.MemoryChecksComeInOrder : Prop :=
  ∀ (i : Instr) (a : Access) (s : State) (x : Iss) (l : Nat), accessOf i = some a → Ready i s x → x.whole s → hampered x i = false →
    a.kind ≠ .hgath → l < 96 → x.act.getLsbD l = true →
    let raised := fun (c : FCode) => exec i s = .next (x.raise s c (BitVec.ofNat 32 l) (BitVec.ofNat 64 (a.addr x l)))
    let first := fun (bad : Nat → Prop) => bad l ∧ ∀ j, j < l → x.act.getLsbD j = true → ¬ bad j
    let all := fun (ok : Nat → Prop) => ∀ j, j < 96 → x.act.getLsbD j = true → ok j
    let tr := fun j => s.trans x.core x.ctx a.acc (a.addr x j)
    (first (fun j => a.addr x j % a.align ≠ 0) → raised .align) ∧
    (all (fun j => a.addr x j % a.align = 0) → first (fun j => 2 ^ 60 ≤ a.addr x j) → raised .address) ∧
    (all (fun j => a.addr x j % a.align = 0 ∧ a.addr x j < 2 ^ 60 ∧ s.tablesReady x.core x.ctx (a.addr x j) = true) →
      (first (fun j => tr j = .error .translation) → raised .translation) ∧
      (all (fun j => tr j ≠ .error .translation) → first (fun j => tr j = .error .permission) → raised .permission) ∧
      (all (fun j => tr j ≠ .error .translation ∧ tr j ≠ .error .permission) → first (fun j => tr j = .error .stage2) → raised .stage2))

/-- R145 to R147: `cpa` and `pf`. -/
def Obligations.CopiesAndPrefetchesLeave : Prop :=
  Sys2Proof.Claims.LaneCopiesLeaveTheirOperation ∧ Sys2Proof.Claims.PrefetchFillsTheL1

/-! ## Fences, waits, barriers, windows and caches -/

namespace Sys2Proof.Claims

open Sys2Proof Sys2Proof.Machine

/-- A word went on, on a group with `f` done to what the group holds, on a courier with `q` done to it; nothing else changed. -/
def WentOn (x : Iss) (s u : State) (f : Grp → Grp) (q : Courier → Courier) : Prop :=
  match x.who with
  | .grp _ _ => ∃ h, Ran x s u h ∧ h.held = f x.g.held
  | .courier c => ∃ y, (s.core c).courier = some y ∧ OnlyCourier c s u (q { y with cpc := x.next, wait := none, last := s.gtime })

/-- A group's word wrote one scalar and nothing else; an exited lane's enable bit stays 0. -/
def ScalarInGroup (x : Iss) (h : Grp) (n : Nat) (v : Word) : Prop :=
  h.held = { x.g.held with s := h.s } ∧ ∀ r, h.sreg r = if r = n then v &&& ~~~exitedWord x.g.exited n else x.g.sreg r

/-- The fences with their kind and scope. -/
def fenceOf : Instr → Option (FenceK × Nat)
  | .fenceAcq a => some (.acq, a.toNat)
  | .fenceRel a => some (.rel, a.toNat)
  | .fenceAr a => some (.ar, a.toNat)
  | .fenceNs a => some (.ns, a.toNat)
  | _ => none

/-- No check of R165 stops a wait: it waits already, or no task bound is beaten and no armed flag is set. -/
def MayWait (x : Iss) (s : State) : Prop :=
  x.onCourier = true ∨ (x.g.waits.any fun w => w.pc = x.pc) = true ∨ (s.taskDead x.T x.g = false ∧ x.g.gflags &&& x.g.garm = 0)

/-- CTIME at the start of the wait of the issuing word (R343). -/
def waitStart (x : Iss) (s : State) : Nat :=
  match x.wait? s with
  | some w => w.start
  | none => s.ctime x.ctx x.core

/-- The word waits: its record stands with the time of its start, and nothing else has changed. -/
def Waiting (x : Iss) (s u : State) : Prop :=
  match x.who with
  | .grp _ _ => ∃ h w, u.grp x.t x.k = some h ∧ OnlyGroup x.t x.k s u ∧ h.held = x.g.held ∧ h.places = x.g.places ∧
      h.waits = w :: x.g.waits.filter (fun v => decide (v.pc ≠ x.pc)) ∧ w.pc = x.pc ∧ w.start = waitStart x s
  | .courier c => ∃ y w, (s.core c).courier = some y ∧ OnlyCourier c s u { y with wait := some w } ∧ w.start = waitStart x s

/-- The launch of a group is past its predecessors (R210, R283): pair groups and launches without any are. -/
def PredsDone (x : Iss) (s : State) : Prop :=
  x.T.kind = .pair ∨ ∀ l, s.launch x.T.ctx x.T.lid = some l → ∀ p, p ∈ l.waits → ∀ q, q ∈ s.launches → q.order ≠ p

/-- A group's records are in its core's hamper. -/
def Hampered (x : Iss) (s : State) : Prop := ∃ r, r ∈ s.hamper ∧ r.team = x.t ∧ r.gint = x.k ∧ r.loc = HLoc.core x.core

/-- The waits on counters, time and launches: the condition (R162, R164, R210, R211), and what the group holds after. -/
def waitOf (i : Instr) (x : Iss) (s : State) : Option (Prop × (Grp → Grp)) :=
  match i with
  | .wcnt a _ => some (x.g.ifc a.toNat ≤ (x.g.sreg x.b).toNat, id)
  | .sleep _ => some ((match x.wait? s with
      | some w => w.till.getD (w.start + (x.g.sreg x.a).toNat)
      | none => s.ctime x.ctx x.core + (x.g.sreg x.a).toNat) ≤ s.ctime x.ctx x.core, id)
  | .wpred => some (PredsDone x s, fun g => { g with fences := g.fences ++ [{ kind := .acq, scope := 3, bound := s.nextOp }] })
  | .drain => some (x.T.kobj.mode = 2 → ¬ Hampered x s, fun g => if x.T.kobj.mode = 2 then { g with epoch := g.epoch + 1 } else g)
  | _ => none

/-- The spans of the barriers (R166): 1 the team, 2 its cluster, 3 its grid. -/
def barSpan : Instr → Option Nat
  | .tbar => some 1
  | .cbar => some 2
  | .gsync => some 3
  | _ => none

/-- The wait record of a barrier's fragment that has arrived. -/
def arrival (x : Iss) (s : State) (n : Nat) : Wait :=
  let w := x.waitNow s
  { w with span := n, arrived := true, latched := if w.span = n then w.latched else s.nextOp }

/-- The fragment may arrive: it has, or its implied fence is complete, and its records have left the hamper at a `gsync`. -/
def Arrives (x : Iss) (s : State) (n : Nat) : Prop :=
  let w := x.waitNow s
  (w.span = n ∧ w.arrived = true) ∨
  (s.doneBefore x.owner (if w.span = n then w.latched else s.nextOp) n = true ∧ s.loadsBefore x.owner (if w.span = n then w.latched else s.nextOp) = true ∧
    (n = 3 → x.T.kobj.mode = 2 → ¬ Hampered x s))

/-- The state in which the issuing fragment has arrived. -/
def arrivedState (x : Iss) (s : State) (n : Nat) : State :=
  s.modGrp x.t x.k fun g =>
    ({ (if g.waitsAt x.pc then g else g.age x.fq) with waits := arrival x s n :: g.waits.filter fun v => decide (v.pc ≠ x.pc), yielded := none } : Grp).hold

/-- A quad whose path stands at a wait goes on where the wait says. -/
def passes (ws : List Wait) (q : Quad) : Quad :=
  match q.path with
  | none => q
  | some p => match ws.find? fun w => w.pc = p.pc with
    | some w => { q with path := some { p with pc := w.next } }
    | none => q

/-- The 16 bytes of a barrier object (Table 06-8). -/
def objBytes (aq an sq turn bq bn : Nat) : List Byte :=
  leBytes 2 aq ++ leBytes 2 an ++ leBytes 2 sq ++ leBytes 2 turn ++ leBytes 4 bq ++ leBytes 4 bn

/-- A well-formed object's bytes: its zero fields are zero. -/
def IsObj (b : List Byte) (aq an sq turn bq bn : Nat) : Prop :=
  b = objBytes aq an sq turn bq bn ∧ aq < 2 ^ 16 ∧ an < 2 ^ 16 ∧ sq < 2 ^ 16 ∧ turn < 2 ^ 16 ∧ bq < 2 ^ 24 ∧ bn < 2 ^ 24

/-- CHECK of R169. -/
def checked (aq an sq turn bq bn : Nat) : List Byte :=
  if an = aq ∧ bq ≤ bn then objBytes aq 0 sq ((turn + 1) % 2 ^ 16) (16 * sq) (bn - bq) else objBytes aq an sq turn bq bn

/-- Bytes put into a team's stash; a matrix operation that reads them is noted as overwritten (R193). -/
def stashWith (s : State) (u off : Nat) (b : List Byte) : State :=
  (s.touched u off b.length).modTeam u fun U => { U with stash := writeBytes U.stash off b }

/-- The stash of a team at an object. -/
def objAt (s : State) (u off : Nat) : List Byte :=
  match s.team u with
  | some U => readBytes U.stash off 16
  | none => zeros 16

/-- The object of a team at an offset is live, at its generation. -/
def liveAt (s : State) (u off : Nat) : Option (BitVec 16) := (s.team u).bind fun U => Tab.find U.bars off

/-- No line of a team's window is dirty. -/
def CleanWindow (u : State) (t w : Nat) : Prop :=
  ∀ T W i l, u.team t = some T → Tab.find T.wins w = some W → Tab.find W.lines i = some l → l.dirty = false

/-- Translations of a context that an invalidation drops (Table 07-6): kinds 0 and 1 leave the entries of stage 2 alone. -/
def invalidates (c kind addr : Nat) (e : TlbEntry) : Bool :=
  e.ctx = c && (kind = 3 || (kind = 2 && e.ipa / 2 ^ 30 = addr / 2 ^ 30) ||
    (!e.only2 && (kind = 1 || (kind = 0 && e.base / 2 ^ 30 = addr / 2 ^ 30))))

end Sys2Proof.Claims

/-- R158 and R160: a fence stands pending, ordering the agent's accesses so far; one of system scope that releases first leaves no
dirty line in the team's windows, where no line is held at its home and no sector of the stash holds an error. -/
def Sys2Proof.Claims.FencesStandPending : Prop :=
  ∀ (i : Instr) (k : FenceK) (n : Nat) (s : State) (x : Iss), fenceOf i = some (k, n) → Ready i s x →
    let f : Fence := { kind := k, scope := n, bound := s.nextOp }
    (n ≠ 4 ∨ k = .acq ∨ x.onCourier = true ∨ x.T.wins = [] →
      ∃ u, exec i s = .next u ∧ WentOn x s u (fun g => { g with fences := g.fences ++ [f] }) fun y => { y with fences := y.fences ++ [f] }) ∧
    ∀ v, n = 4 → k ≠ .acq → x.onCourier = false → x.allPerformed s = true → (s.winsOf x.t).any (s.winHeld x.t) = false → x.T.spoison = [] →
      s.flushWins x.t (s.winsOf x.t) = .ok v →
      ∃ u h, exec i s = .next u ∧ Ran x v u h ∧ h.held = { x.g.held with fences := x.g.fences ++ [f] } ∧ ∀ w, CleanWindow u x.t w

/-- R161, R162, R164, R165, R210 and R211: `wcnt`, `sleep`, `wpred` and `drain` go on where their condition holds and wait where
it does not. -/
def Sys2Proof.Claims.WaitsEndWithTheirCondition : Prop :=
  ∀ (i : Instr) (c : Prop) (f : Grp → Grp) (s : State) (x : Iss), waitOf i x s = some (c, f) → Ready i s x → MayWait x s →
    (c → ∃ u, exec i s = .next u ∧ WentOn x s u f id) ∧ (¬ c → ∃ u, exec i s = .next u ∧ Waiting x s u)

/-- R163 for `wvalue`: it ends when the word at its home equals sb or a write since its wait began has shown it so, and writes the
ticks that it waited; else it waits, and its word is watched. Without an active lane it goes on with no effect: R38 skips its read, and that it
does not wait is the model's reading (log 59). -/
def Sys2Proof.Claims.WvalueWaitsForItsWord : Prop :=
  ∀ (d a b : BitVec 6) (s : State) (x : Iss), Ready (.wvalue d a b) s x → MayWait x s →
    (x.act = 0 → ∃ u, exec (.wvalue d a b) s = .next u ∧ WentOn x s u id id) ∧
    ∀ t : Tr,
      let va := (x.g.spair x.a).toNat
      x.act ≠ 0 → va % 4 = 0 → va < 2 ^ 60 → s.tablesReady x.core x.ctx va = true → s.trans x.core x.ctx .r va = .ok t →
      let mine := fun (w : Watch) => w.who = x.owner ∧ w.pc = x.pc
      let shown := (x.wait? s).isSome = true ∧ ∃ w, x.watch? s = some w ∧ w.pa = t.pa ∧ w.want = x.g.sreg x.b ∧ w.seen = true
      let v := BitVec.ofNat 32 (leNat (s.cohRead t.pa 4))
      let ends := ∃ u, exec (.wvalue d a b) s = .next u ∧ (∀ w, w ∈ u.watches → ¬ mine w) ∧
        WroteScalar x { s with watches := u.watches } u x.d (BitVec.ofNat 32 (min 0xFFFFFFFF (s.ctime x.ctx x.core - waitStart x s)))
      (shown → ends) ∧
      (x.earlierPend s va 4 = false → s.takes t.pa = true → s.poisonedAt t.pa = false →
        (v = x.g.sreg x.b → ends) ∧
        (¬ shown → v ≠ x.g.sreg x.b → ∃ u, exec (.wvalue d a b) s = .next u ∧ Waiting x { s with watches := u.watches, nextOp := u.nextOp } u ∧
          ∃ w, w ∈ u.watches ∧ mine w ∧ w.pa = t.pa ∧ w.want = x.g.sreg x.b))

/-- R166 and R167: a fragment that may arrive at `tbar`, `cbar` or `gsync` waits there until every live group of the span has
arrived; then every fragment that waits at the barrier goes on, and no byte changes. -/
def Obligations.BarriersOpenForTheLast : Prop :=
  ∀ (i : Instr) (n : Nat) (s : State) (x : Iss), barSpan i = some n → Ready i s x → MayWait x s → Arrives x s n →
    let s' := arrivedState x s n
    let opens := s'.spanReady x.t x.T n = true ∧ (n = 3 → x.T.kobj.mode = 2 → s'.recordsBefore x.ctx x.T.lid = false)
    (¬ opens → exec i s = .next s') ∧
    (opens → ∃ u h, exec i s = .next u ∧ u.grp x.t x.k = some h ∧
      h.places = (x.g.places.map fun e =>
        (e.1, passes ((arrival x s n :: x.g.waits.filter fun v => decide (v.pc ≠ x.pc)).filter fun w => decide (w.span = n)) e.2)) ∧
      SameMemory s u ∧ { u with teams := [] } = { s with teams := [] } ∧
      (∀ t, (∀ U, (t, U) ∉ s'.spanTeams x.t x.T n) → t ≠ x.t → u.team t = s.team t) ∧
      ∀ t U V k g, (t, U) ∈ s'.spanTeams x.t x.T n → u.team t = some V → Tab.find V.groups k = some g → g.run ≠ .ended →
        ∀ w, w ∈ g.waits → w.span ≠ n)

/-- R169 and R171 for `bini`: the object is made with its quotas and a new generation, or destroyed; the checks come in order, and the object
is made once the group's earlier accesses of its bytes are performed (R351). No lane active: no effect but the check of its operand (R38). Nothing else
changes at a destruction where no group waits at the object and no team is ending. -/
def Sys2Proof.Claims.BiniMakesOrDestroysAnObject : Prop :=
  (∀ (a b : BitVec 6) (s : State) (x : Iss), Ready (.bini a b) s x → x.act = 0 →
    let v := (x.g.sreg x.b).toNat
    (v ≠ 0 → v % 2 ^ 16 = 0 → exec (.bini a b) s = .next (x.raise s .operand)) ∧
    (v = 0 ∨ v % 2 ^ 16 ≠ 0 → ∃ u h, exec (.bini a b) s = .next u ∧ Ran x s u h ∧ h.held = x.g.held)) ∧
  ∀ (a b : BitVec 6) (s : State) (x : Iss), Ready (.bini a b) s x → x.act ≠ 0 →
    let i := Instr.bini a b
    let addr := (x.g.sreg x.a).toNat
    let v := (x.g.sreg x.b).toNat
    let raised := fun (c : FCode) => exec i s = .next (x.raiseAt s c addr)
    (addr % 16 ≠ 0 → raised .align) ∧
    (addr % 16 = 0 → s.stashRef x.t x.T addr 16 = none → raised .stashRange) ∧
    ∀ t off, addr % 16 = 0 → s.stashRef x.t x.T addr 16 = some (t, off) →
      (2 ^ 20 ≤ addr ∨ (x.T.winAt off).isSome = true → raised .stashRange) ∧
      (t = x.t → addr < 2 ^ 20 → x.T.winAt off = none →
        (v = 0 → ∃ u, exec i s = .next u ∧ liveAt u x.t off = none ∧
          (s.barWaiters x.t (fun n => decide (n = off)) = [] → (∀ e, e ∈ s.teams → e.2.ending = none) →
            ∃ h, h.held = x.g.held ∧ Ran x (s.modTeam x.t fun T => { T with bars := Tab.del T.bars off }) u h)) ∧
        (v ≠ 0 → liveAt s x.t off ≠ none → raised .barrierClobber) ∧
        (v ≠ 0 → liveAt s x.t off = none → v % 2 ^ 16 = 0 → exec i s = .next (x.raise s .operand)) ∧
        (v % 2 ^ 16 ≠ 0 → liveAt s x.t off = none → s.stashBefore x.owner s.nextOp [addr] = false → ∃ u h gen, exec i s = .next u ∧ h.held = x.g.held ∧ gen = Tab.get 0 x.T.gens off + 1 ∧
          Ran x ((stashWith s x.t off (objBytes (v % 2 ^ 16) 0 (v / 2 ^ 16) 0 (16 * (v / 2 ^ 16)) 0)).modTeam x.t fun T =>
            { T with bars := Tab.put T.bars off gen, gens := Tab.set 0 T.gens off gen }) u h))

/-- R169 for `barr` and `bexp` on a live object: arrivals or expected bytes are added and CHECK applied; a quota that would be
passed raises OPERAND, and an object that is not live BARRIER_ABANDONED. What comes first is performed: for `barr` every earlier access, for
`bexp` those of the object's bytes (R351). -/
def Sys2Proof.Claims.BarrAndBexpCount : Prop :=
  ∀ (arr : Bool) (a b : BitVec 6) (s : State) (x : Iss) (t off aq an sq turn bq bn : Nat),
    let i : Instr := if arr then .barr a b else .bexp a b
    Ready i s x → x.act ≠ 0 → (x.g.sreg x.a).toNat % 16 = 0 → s.stashRef x.t x.T (x.g.sreg x.a).toNat 16 = some (t, off) →
    let v := (x.g.sreg x.b).toNat
    (liveAt s t off = none → exec i s = .next (x.raiseAt s .barrierAbandoned (x.g.sreg x.a).toNat)) ∧
    (liveAt s t off ≠ none → IsObj (objAt s t off) aq an sq turn bq bn →
      (if arr then s.doneBefore x.owner s.nextOp (if t = x.t then 1 else 2) = true else s.stashBefore x.owner s.nextOp [(x.g.sreg x.a).toNat] = false) →
      ((if arr then aq < an + v else 0xFFFFFF < bq + v) → exec i s = .next (x.raise s .operand)) ∧
      (¬ (if arr then aq < an + v else 0xFFFFFF < bq + v) → ∃ u h, exec i s = .next u ∧ h.held = x.g.held ∧
        Ran x (stashWith s t off (if arr then checked aq (an + v) sq turn bq bn else checked aq an sq turn (bq + v) bn)) u h))

/-- R169 and R171 for `bwait`: it goes on with an acquire where TURN differs from sb, waits at the object where it does not, and fails
where the object is not live. -/
def Sys2Proof.Claims.BwaitWaitsForTheTurn : Prop :=
  ∀ (a b : BitVec 6) (s : State) (x : Iss) (t off : Nat), Ready (.bwait a b) s x → MayWait x s → x.act ≠ 0 → (x.g.sreg x.a).toNat % 16 = 0 →
    s.stashRef x.t x.T (x.g.sreg x.a).toNat 16 = some (t, off) →
    let turn := BitVec.ofNat 16 (leNat (((objAt s t off).drop 6).take 2))
    (liveAt s t off = none → exec (.bwait a b) s = .next (x.raiseAt s .barrierAbandoned (x.g.sreg x.a).toNat)) ∧
    (liveAt s t off ≠ none → turn ≠ (x.g.sreg x.b).extractLsb' 0 16 → ∃ u h, exec (.bwait a b) s = .next u ∧ Ran x s u h ∧
      h.held = { x.g.held with fences := x.g.fences ++ [{ kind := .acq, scope := if t = x.t then 1 else 2, bound := s.nextOp }] }) ∧
    (liveAt s t off ≠ none → turn = (x.g.sreg x.b).extractLsb' 0 16 → ∃ u, exec (.bwait a b) s = .next u ∧ Waiting x s u ∧
      ∀ h, u.grp x.t x.k = some h → ∃ w, w ∈ h.waits ∧ w.pc = x.pc ∧ w.bar = some (t, off))

/-- R148 and R150: `stmap` makes a window and gives its number, the lowest free one; `stflush` leaves no dirty line in a window,
and `stunmap` frees its number as well, its lines unowned. -/
def Sys2Proof.Claims.WindowsAreMappedAndFlushed : Prop :=
  (∀ (d a b : BitVec 6) (s : State) (x : Iss) (n : Nat), Ready (.stmap d a b) s x →
    let base := x.g.spair x.a
    let off := (x.g.sreg x.b).toNat % 2 ^ 16
    let len := (x.g.sreg x.b).toNat / 2 ^ 16
    base.toNat % 1024 = 0 → base.toNat < 2 ^ 60 → x.T.windowBad base.toNat off len = false → s.vaTables x.core x.ctx .r base.toNat (len * 1024) = true → s.checkLocal x.core x.ctx .r base.toNat (len * 1024) = .ok () →
    n < 16 → Tab.find x.T.wins n = none → (∀ m, m < n → Tab.find x.T.wins m ≠ none) →
    ∃ u h, exec (.stmap d a b) s = .next u ∧ ScalarInGroup x h x.d (BitVec.ofNat 32 n) ∧
      Ran x (s.modTeam x.t fun T => { T with wins := Tab.put T.wins n { base := base, off := off, len := len } }) u h) ∧
  ∀ (unmap : Bool) (a : BitVec 6) (s : State) (x : Iss) (v : State),
    let i : Instr := if unmap then .stunmap a else .stflush a
    let w := (x.g.sreg x.a).toNat
    Ready i s x →
    (Tab.find x.T.wins w = none → exec i s = .next (x.raise s .stashRange)) ∧
    (Tab.find x.T.wins w ≠ none → x.allPerformed s = true → s.winHeld x.t w = false → x.T.spoison = [] → s.flushWin x.t w = .ok v →
      ∃ u h, exec i s = .next u ∧ Ran x (if unmap then v.dropWin x.t w else v) u h ∧ h.held = x.g.held ∧ CleanWindow u x.t w ∧
        (unmap = true → ∀ T, u.team x.t = some T → Tab.find T.wins w = none))

/-- R218 for `cflush` and `cinv`, R216 for `tlbinv`: a range that translates has its dirty lines written back, or its L1 copies
dropped; translations named by an invalidation are dropped from every TLB; and the checks of `tlbinv`. -/
def Sys2Proof.Claims.CachesAndTlbsDrop : Prop :=
  (∀ (a b : BitVec 6) (s v : State) (x : Iss), Ready (.cflush a b) s x →
    let va := (x.g.spair x.a).toNat
    let n := (x.g.sreg x.b).toNat
    s.vaReady x.core x.ctx .r va n = true → s.checkVA x.core x.ctx .r va n = .ok () → x.allPerformed s = true → s.rangeHeld x.core x.ctx (linesOver va n) = false → s.flushLines x.core x.ctx (linesOver va n) = .ok v →
    ∃ u h, exec (.cflush a b) s = .next u ∧ Ran x v u h ∧ h.held = x.g.held) ∧
  (∀ (a b : BitVec 6) (s : State) (x : Iss), Ready (.cinv a b) s x →
    let va := (x.g.spair x.a).toNat
    let n := (x.g.sreg x.b).toNat
    s.vaReady x.core x.ctx .r va n = true → s.checkVA x.core x.ctx .r va n = .ok () →
    ∃ u h, exec (.cinv a b) s = .next u ∧ Ran x { s with cores := u.cores } u h ∧ h.held = x.g.held ∧ (∀ c, c ≠ x.core → u.core c = s.core c) ∧
      { u.core x.core with l1 := [] } = { s.core x.core with l1 := [] } ∧
      (∀ l t, l ∈ linesOver va n → s.trans x.core x.ctx .r l = .ok t → Tab.find (u.core x.core).l1 (lineOf t.pa) = none) ∧
      ∀ k, (∀ l t, l ∈ linesOver va n → s.trans x.core x.ctx .r l = .ok t → lineOf t.pa ≠ k) → Tab.find (u.core x.core).l1 k = Tab.find (s.core x.core).l1 k) ∧
  ∀ (a b : BitVec 6) (s : State) (x : Iss), Ready (.tlbinv a b) s x →
    let addr := (x.g.spair x.a).toNat
    let kind := (x.g.sreg x.b).toNat
    (3 < kind ∨ (kind % 2 = 0 ∧ addr % 4096 ≠ 0) → exec (.tlbinv a b) s = .next (x.raise s .operand)) ∧
    (kind ≤ 3 → (kind % 2 = 0 → addr % 4096 = 0) → 2 ≤ kind → (s.ctx x.ctx).priv = false → exec (.tlbinv a b) s = .next (x.raise s .privilege)) ∧
    (kind ≤ 3 → (kind % 2 = 0 → addr % 4096 = 0) → (2 ≤ kind → (s.ctx x.ctx).priv = true) →
      ∃ u h, exec (.tlbinv a b) s = .next u ∧ Ran x (s.tlbDrop x.ctx (invalidates x.ctx kind addr)) u h ∧ h.held = x.g.held)

/-- R158, R160 to R165, R210 and R211: fences stand pending, and waits end with their condition. -/
def Obligations.WaitsAndFencesEnd : Prop :=
  Sys2Proof.Claims.FencesStandPending ∧ Sys2Proof.Claims.WaitsEndWithTheirCondition ∧ Sys2Proof.Claims.WvalueWaitsForItsWord

/-- R169 and R171: the objects of `bini`, their counts, and the wait for their phase. -/
def Obligations.BarrierObjectsCount : Prop :=
  Sys2Proof.Claims.BiniMakesOrDestroysAnObject ∧ Sys2Proof.Claims.BarrAndBexpCount ∧ Sys2Proof.Claims.BwaitWaitsForTheTurn

/-- R148, R150, R216 and R218: windows, cache operations and `tlbinv`. -/
def Obligations.WindowsAndCachesAreManaged : Prop :=
  Sys2Proof.Claims.WindowsAreMappedAndFlushed ∧ Sys2Proof.Claims.CachesAndTlbsDrop

/-! ## Engines: matrix, multicast, copies, pairs, search, launches -/

namespace Sys2Proof.Claims

open Sys2Proof Sys2Proof.Machine

/-- Scalar `n` of a group is written, subject to R25; its other scalars are as before. -/
def SetsScalar (x : Iss) (h : Grp) (n : Nat) (v : Word) : Prop :=
  ∀ r, h.sreg r = if r = n then v &&& ~~~exitedWord x.g.exited n else x.g.sreg r

/-- A little-endian field of some bytes. -/
def fieldOf (b : List Byte) (off n : Nat) : Nat := leNat ((b.drop off).take n)

/-- A word can read its record of `n` bytes at an address and gets these: its tables and homes can be reached (R325, R402), no earlier access of
its agent to them is outstanding (R351), and no sector is poisoned. -/
def ReadsRecord (x : Iss) (s : State) (va n : Nat) (b : List Byte) : Prop :=
  s.vaReady x.core x.ctx .r va n = true ∧ x.earlierPend s va n = false ∧ s.readClean x.core x.ctx va n = .ok b

/-- The state once the record is read: reads of HBM are counted at their pages (R327), and nothing else has changed. -/
def recordRead (x : Iss) (s : State) (va n : Nat) : State := s.countVA x.core x.ctx .r va n

/-- Where row or column `i` of an operand lies (R183, R188 checks 5 and 6): in a stash, or in local memory. -/
def RowAt (x : Iss) (s : State) (stash : Bool) (name loc : Nat) : Prop :=
  if stash then ∃ u off, s.stashRef x.t x.T name 512 = some (u, off) ∧ loc = packStash u off
  else name < 2 ^ 60 ∧ ∃ t, s.trans x.core x.ctx .r name = .ok t ∧ isLocal t.pa = true ∧ loc = t.pa

/-- An `mma`'s operands are aligned to 512 bytes (R188 check 5). -/
def MmaAligned (x : Iss) (a b : BitVec 6) : Prop :=
  (x.g.spair a.toNat).toNat % 512 = 0 ∧ (x.g.sreg (a.toNat + 2)).toNat % 512 = 0 ∧
  (x.g.spair b.toNat).toNat % 512 = 0 ∧ (x.g.sreg (b.toNat + 2)).toNat % 512 = 0

/-- MRED of the issuing core (R242). -/
def redundant (x : Iss) (s : State) : Bool := (s.core x.core).cfg.getLsbD 1

/-- The operation that an `mma` of a group in no party issues (R183). -/
def mmaOp (x : Iss) (mred : Bool) (c : BitVec 7) (a b : BitVec 6) (r z : BitVec 1) (p q : BitVec 2) (i : BitVec 1) (la lb : Nat → Nat) : MatOp :=
  { batch := x.g.bopen, idx := x.g.bops, acc := c.toNat, red := r = 1 || mred, z := z = 1, int := i = 1, asrc := p = 1, bsrc := q = 1,
    ovr := BitVec.ofNat 4 x.g.hints.format, abase := x.g.spair a.toNat, apitch := x.g.sreg (a.toNat + 2), bbase := x.g.spair b.toNat,
    bpitch := x.g.sreg (b.toNat + 2), members := x.g.members, lanes := x.en, alocs := (List.range 32).map la, blocs := (List.range 96).map lb,
    st := if x.g.defer.isSome then .discarded else .issued }

/-- The member record that `mcjoin` makes (Table 06-10). -/
def memberOf (x : Iss) (b : List Byte) : McMember :=
  { team := x.t, stashid := x.T.stashid, ring := fieldOf b 8 4, depth := fieldOf b 1 1, stat := fieldOf b 16 4,
    bar := if fieldOf b 20 4 = 0xFFFFFFFF then none else some (fieldOf b 20 4) }

/-- A pending request of a group in a member record. -/
def pendingOf (m : McMember) (k : Nat) : Nat := (m.reqs.filter fun q => decide (q.2 = k)).length

/-- The copy that a courier's list takes in (R178 to R180). -/
def newCopy (fill : Bool) (b : List Byte) (serial : Nat) : Copy :=
  let bad := fill && bitOf (fieldOf b 60 2) 0
  { fill := fill, desc := b, serial := serial, status := if bad then some .operand else none,
    finished := bad || decide (fieldOf b 16 4 * fieldOf b 20 4 * fieldOf b 24 4 = 0) }

/-- A ring size that R181 allows. -/
def RingSize (n : Nat) : Prop := ∃ i, i < 15 ∧ n = 2 ^ (6 + i)

/-- The pair launch that `plaunch` enters (R198). -/
def newPair (x : Iss) (s : State) (b : List Byte) (n : Nat) : PairLaunch :=
  { ctx := x.ctx, lid := n, daddr := x.g.spair x.a, desc := b, pages := s.pairPages x.core x.ctx b, ring := s.pieces x.core x.ctx (fieldOf b 160 8) (fieldOf b 168 4) }

/-- The pair emitters: `one`, `two`, and the registers of an emitted force in units of the channel count (R200). -/
def emitOf : Instr → Option (Bool × Bool)
  | .pemitSym .. => some (false, false)
  | .pemitOne .. => some (true, false)
  | .pemitTwo .. => some (false, true)
  | _ => none

/-- The slot is one of the eight and belongs to the context. -/
def OwnsSlot (s : State) (n c : Nat) : Prop :=
  n ≤ 7 ∧ (Tab.get {} s.slots n).owned = true ∧ (Tab.get {} s.slots n).owner.toNat = c

/-- The word `i` of a sixteen-word scalar block. -/
def blockWord (x : Iss) (i : Nat) : Word := x.g.sreg (x.a + i)

/-- A task as `tspawn` enters it (R203, Table 07-5). -/
def taskOf (x : Iss) (order : Nat) : Task :=
  { ctx := x.ctx, lid := if x.T.kind = .pair then 2 ^ 33 + x.T.lid else x.T.lid, payload := (List.range 10).map (blockWord x), bound := x.g.spair (x.a + 10),
    entry := x.g.spair (x.a + 12), slot := (blockWord x 14).toNat, kobj := x.T.kobj, id := x.g.id, order := order }

end Sys2Proof.Claims

/-- R183, R188 and R189 for `mma`: a group in no party whose rows and columns can be read issues its operation into the open batch;
a full batch raises BATCH and misaligned operands ALIGN; and the last member of a party starts every member's operation. -/
def Sys2Proof.Claims.MmaIssuesItsOperation : Prop :=
  ∀ (c : BitVec 7) (a b : BitVec 6) (r z : BitVec 1) (p q : BitVec 2) (i : BitVec 1) (s : State) (x : Iss),
    let w := Instr.mma c a b r z p q i
    Ready w s x →
    let o := x.matOp (redundant x s) c a b r z p q i
    (256 ≤ x.g.bops → exec w s = .next (x.raise s .batch)) ∧
    (x.g.bops < 256 → (partyOf x.g.members).length < 2 →
      (¬ MmaAligned x a b → exec w s = .next (x.raise s .align)) ∧
      (∀ la lb : Nat → Nat, MmaAligned x a b → (∀ n, n < 32 → RowAt x s (p = 1) (rowName (p = 1) o.abase o.apitch n) (la n)) →
        (∀ n, n < 96 → RowAt x s (q = 1) (rowName (q = 1) o.bbase o.bpitch n) (lb n)) →
        ∃ u h, exec w s = .next u ∧ Ran x s u h ∧
          h.held = { x.g.held with mops := x.g.mops ++ [mmaOp x (redundant x s) c a b r z p q i la lb], bops := x.g.bops + 1, nextop := x.g.nextop + 1 })) ∧
    (x.g.bops < 256 → x.partyBad = false → 2 ≤ (partyOf x.g.members).length →
      (∀ j g, j ∈ partyOf x.g.members → Tab.find x.T.groups j = some g → g.run ≠ .ended) → x.g.muster = none →
      let s' := (x.stall s).modGrp x.t x.k fun g => { g with muster := some { pc := x.pc, num := x.g.nextop, op := o } }
      (s'.mustered x.t x.g.nextop (partyOf x.g.members) = none → exec w s = .next s') ∧
      ∀ l, s'.mustered x.t x.g.nextop (partyOf x.g.members) = some l → (∀ e f, e ∈ l → f ∈ l → e.2.op.differs f.2.op = false) →
        (∀ e, e ∈ l → ∃ o', s'.matCheck x.t x.T e.2.op = .ok o') →
        ∃ u, exec w s = .next u ∧ ∀ j g, j ∈ partyOf x.g.members → s.grp x.t j = some g →
          ∃ h, u.grp x.t j = some h ∧ h.muster = none ∧ h.nextop = g.nextop + 1 ∧ h.mops.length = g.mops.length + 1)

/-- R194 to R196: `mfence` closes the batch and gives its number, waiting while 16 are closed; `mwait` goes on once its batch has
drained; both raise a deferred fault first, and `mwait` BATCH for a number out of range. -/
def Sys2Proof.Claims.BatchesCloseAndDrain : Prop :=
  (∀ (d : BitVec 6) (s : State) (x : Iss), Ready (.mfence d) s x →
    (∀ f, x.g.defer = some f → exec (.mfence d) s = .next (x.raise (s.modGrp x.t x.k fun g => { g with defer := none }) f.code f.faux f.faddr)) ∧
    (x.g.defer = none → 16 ≤ x.g.closed.length → ∃ u, exec (.mfence d) s = .next u ∧ Waiting x s u) ∧
    (x.g.defer = none → x.g.closed.length < 16 → ∃ u h, exec (.mfence d) s = .next u ∧ Ran x s u h ∧
      SetsScalar x h x.d (x.g.bopen.setWidth 32) ∧
      h.held = { x.g.held with s := h.s, closed := x.g.closed ++ [x.g.bopen], bopen := x.g.bopen + 1, bops := 0 })) ∧
  ∀ (a : BitVec 6) (s : State) (x : Iss), Ready (.mwait a) s x → MayWait x s →
    let n : BitVec 16 := (x.g.sreg x.a).extractLsb' 0 16
    let back := (x.g.bopen - n).toNat
    (∀ f, x.g.defer = some f → exec (.mwait a) s = .next (x.raise (s.modGrp x.t x.k fun g => { g with defer := none }) f.code f.faux f.faddr)) ∧
    (x.g.defer = none → (back = 0 ∨ 32768 < back) → exec (.mwait a) s = .next (x.raise s .batch)) ∧
    (x.g.defer = none → 1 ≤ back → back ≤ 32768 →
      (n ∈ x.g.closed → ∃ u, exec (.mwait a) s = .next u ∧ Waiting x s u) ∧
      (n ∉ x.g.closed → ∃ u h, exec (.mwait a) s = .next u ∧ Ran x s u h ∧ h.held = x.g.held))

/-- R172 and R173 for `mcjoin`: with a good descriptor it writes a status in the order 3, 1, 4, 2, and joins where none applies. -/
def Sys2Proof.Claims.McjoinGivesItsStatus : Prop :=
  ∀ (d a : BitVec 6) (s : State) (x : Iss) (b : List Byte), Ready (.mcjoin d a) s x → x.act ≠ 0 → (x.g.spair x.a).toNat % 32 = 0 →
    ReadsRecord x s (x.g.spair x.a).toNat 32 b →
    let s' := recordRead x s (x.g.spair x.a).toNat 32
    (x.T.mcBad b = true → exec (.mcjoin d a) s = .next (x.raise s' .mcast)) ∧
    (x.T.mcBad b = false →
      let gives := fun (v : Word) (m : Tab McEntry) => ∃ u h, exec (.mcjoin d a) s = .next u ∧ Ran x { s' with mcast := m } u h ∧ ScalarInGroup x h x.d v
      (∀ k e, s.mcFind x.T (fieldOf b 0 1) = some (k, e) →
        let other := e.mask ≠ fieldOf b 2 2 ∨ e.timer ≠ fieldOf b 4 4 ∨ e.slot ≠ fieldOf b 12 4
        (Tab.find e.members x.T.rank ≠ none → gives 3 s.mcast) ∧
        (Tab.find e.members x.T.rank = none → other → gives 1 s.mcast) ∧
        (Tab.find e.members x.T.rank = none → ¬ other → e.deliv = true → gives 4 s.mcast) ∧
        (Tab.find e.members x.T.rank = none → ¬ other → e.deliv = false →
          gives 0 (Tab.put s.mcast k { e with members := Tab.put e.members x.T.rank (memberOf x b), joinAt := some s.gtime }))) ∧
      (s.mcFind x.T (fieldOf b 0 1) = none →
        (s.mcFree (dieOf x.core) = none → gives 2 s.mcast) ∧
        (∀ k, s.mcFree (dieOf x.core) = some k →
          let e : McEntry := { ctx := x.ctx, lid := x.T.lid, cluster := x.T.cluster, g := fieldOf b 0 1, mask := fieldOf b 2 2,
                               timer := fieldOf b 4 4, slot := fieldOf b 12 4, members := [(x.T.rank, memberOf x b)], joinAt := some s.gtime }
          gives 0 (Tab.put s.mcast k e))))

/-- R174, R176 and R177 for a member: `mcload` makes its request, `mcrel` clears FULL, and `mcleave` withdraws the team; each
advances its own sequence. The slot's status is touched first where it lies in a window, and a withdrawal waits for the tick after a
delivery (Table 13-9). A team that is no member raises MCAST. With no active lane `mcload` and `mcrel` make the checks that depend on no lane and
have no effect (the model's reading of R38, log 59). -/
def Sys2Proof.Claims.MulticastMembersRequestReleaseAndLeave : Prop :=
  (∀ (i : Instr) (n : Nat) (s : State) (x : Iss), (∃ a b, i = .mcload a b ∧ n = (x.g.sreg x.b).toNat) ∨ (∃ a b, i = .mcrel a b ∧ n = (x.g.sreg x.a).toNat) ∨
      (∃ a, i = .mcleave a ∧ n = (x.g.sreg x.a).toNat) → Ready i s x → s.mcMember x.t x.T n = none → exec i s = .next (x.raise s .mcast)) ∧
  (∀ (i : Instr) (n q : Nat) (s : State) (x : Iss) (k : Nat) (e : McEntry) (m : McMember), Ready i s x → x.act = 0 → s.mcMember x.t x.T n = some (k, e, m) →
    (∃ a b, i = .mcload a b ∧ n = (x.g.sreg x.b).toNat ∧ q = m.nreq ∧ (x.g.sreg (x.a + 3)).toNat = q % 2 ^ 32 ∧
      1 ≤ (x.g.sreg (x.a + 2)).toNat ∧ (x.g.sreg (x.a + 2)).toNat % 64 = 0 ∧ (x.g.sreg (x.a + 2)).toNat ≤ e.slot) ∨
    (∃ a b, i = .mcrel a b ∧ n = (x.g.sreg x.a).toNat ∧ q = m.nrel ∧ (x.g.sreg x.b).toNat = q % 2 ^ 32) →
    ∃ u h, exec i s = .next u ∧ Ran x s u h ∧ h.held = x.g.held) ∧
  (∀ (a b : BitVec 6) (s : State) (x : Iss) (k : Nat) (e : McEntry) (m : McMember), Ready (.mcload a b) s x → x.act ≠ 0 →
    let addr := (x.g.spair x.a).toNat
    let len := (x.g.sreg (x.a + 2)).toNat
    s.mcMember x.t x.T (x.g.sreg x.b).toNat = some (k, e, m) → (x.g.sreg (x.a + 3)).toNat = m.nreq % 2 ^ 32 → 1 ≤ len → len % 64 = 0 → len ≤ e.slot →
    addr % 64 = 0 → s.vaTables x.core x.ctx .r addr len = true → s.checkLocal x.core x.ctx .r addr len = .ok () →
    (∀ v, e.past x.T.rank m.nreq = true → s.readyStash x.t (m.stat + 8 * (m.nreq % m.depth)) 8 = some v →
      ∃ u h, exec (.mcload a b) s = .next u ∧ h.held = x.g.held ∧ Ran x { v.lateRequest x.t m m.nreq addr len with
        mcast := Tab.put s.mcast k { e with members := Tab.put e.members x.T.rank { m with nreq := m.nreq + 1 } } } u h) ∧
    (e.past x.T.rank m.nreq = false → ((e.seq m.nreq).isSome = true ∨ e.seqs.length < 32) → x.g.ifc2 < 1024 →
      ∃ u h e' m' r, exec (.mcload a b) s = .next u ∧ Ran x { s with mcast := u.mcast } u h ∧ h.held = { x.g.held with ifc2 := x.g.ifc2 + 1 } ∧
        u.mcast = Tab.put s.mcast k e' ∧ Tab.find e'.members x.T.rank = some m' ∧
        m' = { m with nreq := m.nreq + 1, reqs := m.reqs ++ [(m.nreq, x.k)] } ∧ r ∈ e'.seqs ∧ r.n = m.nreq ∧ x.T.rank ∈ r.asked ∧
        ((e.seq m.nreq).isNone = true → r.addr = addr ∧ r.len = len ∧ r.t0 = s.ctime x.ctx x.core))) ∧
  (∀ (a b : BitVec 6) (s v : State) (x : Iss) (k : Nat) (e : McEntry) (m : McMember), Ready (.mcrel a b) s x →
    let n := (x.g.sreg x.b).toNat
    let off := m.stat + 8 * (n % m.depth)
    s.mcMember x.t x.T (x.g.sreg x.a).toNat = some (k, e, m) →
    (n ≠ m.nrel % 2 ^ 32 → exec (.mcrel a b) s = .next (x.raise s .mcast)) ∧
    (n = m.nrel % 2 ^ 32 → x.act ≠ 0 → s.touchStash x.t off 8 = some v →
      let st := v.locRead (.st x.t off) 8
      let w := v.markStash x.t off 8
      let good := fieldOf st 4 4 = n ∧ fieldOf st 0 4 % 2 = 1
      (¬ good → exec (.mcrel a b) s = .next (x.raise v .mcast)) ∧
      (good → w.stashMayDirty x.t off 8 = true → ∃ u h, exec (.mcrel a b) s = .next u ∧ h.held = x.g.held ∧
        Ran x { w.locPut (.st x.t off) (leBytes 4 (fieldOf st 0 4 - 1) ++ leBytes 4 n) with
          mcast := Tab.put s.mcast k { e with members := Tab.put e.members x.T.rank { m with nrel := m.nrel + 1 } } } u h))) ∧
  ∀ (a : BitVec 6) (s : State) (x : Iss) (k : Nat) (e : McEntry) (m : McMember), Ready (.mcleave a) s x →
    s.mcMember x.t x.T (x.g.sreg x.a).toNat = some (k, e, m) → Tab.find s.mcast k = some e → m.lastAt ≠ some s.gtime →
    ∃ u h, exec (.mcleave a) s = .next u ∧ u.grp x.t x.k = some h ∧ h.held = { x.g.held with ifc2 := x.g.ifc2 - pendingOf m x.k } ∧ SameMemory s u ∧
      (∀ e', Tab.find u.mcast k = some e' → Tab.find e'.members x.T.rank = none) ∧ (∀ j, j ≠ k → Tab.find u.mcast j = Tab.find s.mcast j) ∧
      ∀ j g, j ≠ x.k → s.grp x.t j = some g → u.grp x.t j = some { g with ifc2 := g.ifc2 - pendingOf m j }

/-- R178 to R181: on a courier `bcopy` and `bfill` put the copy of their descriptor into its list under the next serial, and `cring`
sets the ring and restarts the serials; the checks of each. On a group they raise ILLEGAL (R27, R390). -/
def Obligations.CourierCopiesAndRing : Prop :=
  (∀ (i : Instr) (s : State) (x : Iss), ((∃ a, i = .bcopy a ∨ i = .bfill a) ∨ ∃ a b, i = .cring a b) → s.stand (form i) = .ok x → x.onCourier = false →
    exec i s = .next (x.raise s .illegal)) ∧
  (∀ (i : Instr) (fill : Bool) (s : State) (x : Iss), (∃ a, i = if fill then Instr.bfill a else Instr.bcopy a) → Ready i s x →
    let va := (x.g.spair x.a).toNat
    (va % 64 ≠ 0 → exec i s = .next (x.raiseAt s .align va)) ∧
    ∀ b, va % 64 = 0 → ReadsRecord x s va 64 b → (fieldOf b 44 4 ≠ 0 ∨ 16 ≤ fieldOf b 60 2) → exec i s = .next (x.raise (recordRead x s va 64) .reservedBits)) ∧
  (∀ (a : BitVec 6) (s : State) (x : Iss) (b : List Byte), Ready (.bcopy a) s x → (x.g.spair x.a).toNat % 64 = 0 →
    ReadsRecord x s (x.g.spair x.a).toNat 64 b → fieldOf b 44 4 = 0 → fieldOf b 60 2 < 16 →
    ∃ u y, exec (.bcopy a) s = .next u ∧ (s.core x.core).courier = some y ∧
      OnlyCourier x.core (recordRead x s (x.g.spair x.a).toNat 64) u { y with copies := y.copies ++ [newCopy false b y.next], next := y.next + 1, cpc := x.next, wait := none, last := s.gtime }) ∧
  (∀ (a : BitVec 6) (s : State) (x : Iss) (b : List Byte), Ready (.bfill a) s x → (x.g.spair x.a).toNat % 64 = 0 →
    ReadsRecord x s (x.g.spair x.a).toNat 64 b → fieldOf b 44 4 = 0 → fieldOf b 60 2 < 16 →
    ∃ u y, exec (.bfill a) s = .next u ∧ (s.core x.core).courier = some y ∧
      OnlyCourier x.core (recordRead x s (x.g.spair x.a).toNat 64) u { y with copies := y.copies ++ [newCopy true b y.next], next := y.next + 1, cpc := x.next, wait := none, last := s.gtime }) ∧
  ∀ (a b : BitVec 6) (s : State) (x : Iss), Ready (.cring a b) s x →
    let base := x.g.spair x.a
    let size := (x.g.sreg x.b).toNat
    (base.toNat % 32 ≠ 0 ∨ ¬ RingSize size → exec (.cring a b) s = .next (x.raise s .operand)) ∧
    (base.toNat % 32 = 0 → RingSize size →
      ∃ u y, exec (.cring a b) s = .next u ∧ (s.core x.core).courier = some y ∧
        OnlyCourier x.core s u { y with ring := base, size := size, next := 1, cpc := x.next, wait := none, last := s.gtime })

/-- R198, R200 and R201: `plaunch` enters its launch under the next identifier, `pfin` writes the outputs of a launch that is not in
flight, and the pair emitters send their lanes' contributions and mark those lanes. A launch enters beside those in flight, each of which notes what
its fault ring shares with the others' (R309). That `plaunch` and `pfin` do nothing with no active lane is the model's reading of R38 (log 59); what
a launch emits whose inputs were written in the meantime is not stated here (log 5). -/
def Obligations.PairWordsLaunchEmitAndFinish : Prop :=
  (∀ (i : Instr) (s : State) (x : Iss) (b : List Byte) (off : Nat), ((∃ d a, i = .plaunch d a) ∨ ∃ a, i = .pfin a) → Ready i s x →
    (x.act = 0 → ∃ u h, exec i s = .next u ∧ Ran x s u h ∧ h.held = x.g.held) ∧
    (x.act ≠ 0 → (x.g.spair x.a).toNat % 256 ≠ 0 → exec i s = .next (x.raiseAt s .align (x.g.spair x.a).toNat)) ∧
    (x.act ≠ 0 → (x.g.spair x.a).toNat % 256 = 0 → ReadsRecord x s (x.g.spair x.a).toNat 256 b → pairBad b = some off →
      exec i s = .next (x.raise (recordRead x s (x.g.spair x.a).toNat 256) .operand (BitVec.ofNat 32 off)))) ∧
  (∀ (d a : BitVec 6) (s : State) (x : Iss) (b : List Byte), Ready (.plaunch d a) s x → x.act ≠ 0 → (x.g.spair x.a).toNat % 256 = 0 →
    ReadsRecord x s (x.g.spair x.a).toNat 256 b → pairBad b = none → s.doneBefore x.owner s.nextOp 3 = true →
    (s.pairLaunches.filter fun p => p.ctx = x.ctx).length < 16 →
    let n := (s.ctx x.ctx).nextPair
    let v := (recordRead x s (x.g.spair x.a).toNat 256).modCtx x.ctx fun c => { c with nextPair := if n + 1 = 2 ^ 32 then 1 else n + 1 }
    ∃ u h, exec (.plaunch d a) s = .next u ∧ ScalarInGroup x h x.d (BitVec.ofNat 32 n) ∧ Ran x (v.enterPairs (newPair x v b n)) u h) ∧
  (∀ (a : BitVec 6) (s v : State) (x : Iss) (b : List Byte), Ready (.pfin a) s x → x.act ≠ 0 → (x.g.spair x.a).toNat % 256 = 0 →
    ReadsRecord x s (x.g.spair x.a).toNat 256 b → pairBad b = none → (∀ p, p ∈ s.pairLaunches → p.ctx = x.ctx → p.daddr ≠ x.g.spair x.a) →
    let n := pairSlots b * pairK b
    let s' := recordRead x s (x.g.spair x.a).toNat 256
    let w := s'.outMark x.core x.ctx (fieldOf b 120 8) (4 * n)
    s'.vaReady x.core x.ctx .r (fieldOf b 112 8) (16 * n) = true → s'.vaTables x.core x.ctx .w (fieldOf b 120 8) (4 * n) = true →
    s'.checkLocal x.core x.ctx .r (fieldOf b 112 8) (16 * n) = .ok () → s'.checkLocal x.core x.ctx .w (fieldOf b 120 8) (4 * n) = .ok () →
    w.outReady x.core x.ctx (fieldOf b 120 8) (4 * n) = true → (w.countVA x.core x.ctx .r (fieldOf b 112 8) (16 * n)).finAll x.core x.ctx b (List.range n) = (v, []) →
    ∃ u h, exec (.pfin a) s = .next u ∧ Ran x (v.staleVA x.t x.core x.ctx (fieldOf b 120 8) (4 * n)) u h ∧ h.held = x.g.held) ∧
  ∀ (i : Instr) (one two : Bool) (s : State) (x : Iss) (p : PairLaunch), emitOf i = some (one, two) → Ready i s x → x.T.kind = .pair →
    s.pairLaunch x.ctx x.T.lid = some p →
    (∀ n, n < x.g.hints.count → x.a + n * repStep (x.g.hints.rep.getD 0) 1 + ((if two then 2 else 1) * pairK p.desc - 1) < x.T.kobj.regs) →
    (x.whole s → ∀ l, l < 96 → x.act.getLsbD l = true → x.g.emitted.getLsbD l = true →
      (∀ j, j < l → x.act.getLsbD j = true → x.g.emitted.getLsbD j = false) → exec i s = .next (x.raise s .pairEmit (BitVec.ofNat 32 l))) ∧
    (x.act &&& x.g.emitted = 0 → x.g.ifc3 < 1024 → s.racesOf x.ctx x.T.lid = [] →
      let adds := x.additions p.desc one two (fun _ => false) s.freeCtr s.nextOp
      MissRoom x s 0 →
      (adds = [] → ∃ u h, exec i s = .next u ∧ Ran x s u h ∧ h.held = x.g.held) ∧
      (adds ≠ [] → ∃ u h o, exec i s = .next u ∧ u.padds = s.padds ++ adds ∧ Tab.find u.ops s.nextOp = some o ∧ o.kind = .padd ∧ o.parts.length = adds.length ∧
        o.ifc = some 3 ∧ Ran x { s with padds := u.padds, ops := u.ops, nextOp := s.nextOp + 1 } u h ∧
        h.held = { x.g.held with ifc3 := x.g.ifc3 + 1, emitted := x.g.emitted ||| x.act }))

/-- R203 and R205: `tspawn` with a good block drops a task strictly worse than its pod's shadow and counts it, or enters it into the
pod's heap, which counts it in its launch; `tchk` ends a task group that is strictly worse, and no other. -/
def Sys2Proof.Claims.TasksSpawnAndDie : Prop :=
  (∀ (a : BitVec 6) (s : State) (x : Iss), Ready (.tspawn a) s x →
    let slot := (blockWord x 14).toNat
    let good := slot ≤ 7 ∧ blockWord x 15 = 0 ∧ OwnsSlot s slot x.ctx
    let h0 := Tab.get {} s.shadows (8 * (x.core / 16) + slot)
    let entry := x.g.spair (x.a + 12)
    let heap := Tab.get [] s.heaps (x.core / 16)
    (¬ good → exec (.tspawn a) s = .next (x.raise s .operand)) ∧
    (good → entry.toNat % 4 ≠ 0 → exec (.tspawn a) s = .next (x.raise s .align)) ∧
    (good → entry.toNat % 4 = 0 → 2 ^ 60 ≤ entry.toNat → exec (.tspawn a) s = .next (x.raise s .address)) ∧
    (good → entry.toNat % 4 = 0 → entry.toNat < 2 ^ 60 →
      (worse h0.sense (x.g.spair (x.a + 10)) h0.key = true →
        ∃ u h, exec (.tspawn a) s = .next u ∧ Ran x (s.countEvent x.ctx 0x010) u h ∧ h.held = x.g.held) ∧
      (worse h0.sense (x.g.spair (x.a + 10)) h0.key = false → heap.length < 4096 →
        ∃ u h, exec (.tspawn a) s = .next u ∧ h.held = x.g.held ∧
          Ran x (({ s with heaps := Tab.set [] s.heaps (x.core / 16) (heap ++ [taskOf x s.order]), order := s.order + 1 } : State).modLaunch x.ctx (taskOf x 0).lid
            fun l => { l with tasks := l.tasks + 1 }) u h))) ∧
  ∀ (s : State) (x : Iss), Ready .tchk s x →
    let h0 := Tab.get {} s.shadows (8 * (x.T.core / 16) + x.g.tslot.toNat)
    let dead := x.T.kind = .task ∧ worse h0.sense x.g.tbound h0.key = true
    (dead → exec .tchk s = .next ((s.countEvent x.T.ctx 0x020).endTeam x.t)) ∧
    (¬ dead → ∃ u h, exec .tchk s = .next u ∧ Ran x s u h ∧ h.held = x.g.held)

/-- R206 and R207: `imprv` and `incrd` send their request to the incumbent unit and owe their registers; a slot that is not the
context's raises OPERAND. -/
def Sys2Proof.Claims.IncumbentRequestsLeave : Prop :=
  ∀ (read : Bool) (d a b : BitVec 6) (s : State) (x : Iss),
    let i : Instr := if read then .incrd d b else .imprv d a b
    Ready i s x →
    let n := (x.g.sreg x.b).toNat
    (¬ OwnsSlot s n x.ctx → exec i s = .next (x.raise s .operand)) ∧
    (OwnsSlot s n x.ctx → (read = false → s.doneBefore x.owner s.nextOp 3 = true) →
      ∃ u h, exec i s = .next u ∧ h.held = { x.g.held with owed := x.g.owed ++ [(x.d, if read then 4 else 1)] } ∧
        Ran x { s with increqs := s.increqs ++ [if read then { who := x.who, slot := n, read := true, sd := x.d }
          else { who := x.who, slot := n, read := false, sd := x.d, key := x.g.spair x.a, payload := x.g.spair (x.a + 2) }] } u h)

/-- R208, R209, R282 and R285: `succ` counts its team once; `launch` writes its record and advances TAIL, or reports why not; and
`claunch` joins the open grid of its kernel that is not due for a flush, or opens one. That `launch` and `claunch` do nothing with no active lane is
the model's reading of R38 (log 59). -/
def Obligations.LaunchWordsEnterTheirRecord : Prop :=
  (∀ (s : State) (x : Iss), Ready .succ s x →
    (x.T.kind = .team → x.T.succ = false → ∃ u h, exec .succ s = .next u ∧ h.held = x.g.held ∧
      Ran x ((s.modTeam x.t fun T => { T with succ := true }).modLaunch x.ctx x.T.lid fun l => { l with succs := l.succs + 1 }) u h) ∧
    (x.T.kind ≠ .team ∨ x.T.succ = true → ∃ u h, exec .succ s = .next u ∧ Ran x s u h ∧ h.held = x.g.held)) ∧
  (∀ (i : Instr) (s : State) (x : Iss), (∃ a, i = .launch a ∨ i = .claunch a) → Ready i s x →
    (x.act = 0 → ∃ u h, exec i s = .next u ∧ Ran x s u h ∧ h.held = x.g.held) ∧
    (x.act ≠ 0 → (x.g.spair x.a).toNat % 64 ≠ 0 → exec i s = .next (x.raiseAt s .align (x.g.spair x.a).toNat))) ∧
  (∀ (a : BitVec 6) (s : State) (x : Iss) (b : List Byte), Ready (.launch a) s x → x.act ≠ 0 → (x.g.spair x.a).toNat % 64 = 0 →
    ReadsRecord x s (x.g.spair x.a).toNat 64 b → s.doneBefore x.owner s.nextOp 3 = true →
    let n := fieldOf b 59 1
    let q := s.queue n
    let s' := recordRead x s (x.g.spair x.a).toNat 64
    let refused := fun (r c va : Nat) => ∃ u h, exec (.launch a) s = .next u ∧ Ran x (x.notEntered s' r (fieldOf b 28 4) c va) u h ∧ h.held = x.g.held
    (q.ctx ≠ x.ctx → refused 1 0 0) ∧ (q.ctx = x.ctx → q.enable = false ∨ q.stopped = true → refused 2 0 0) ∧
    (q.ctx = x.ctx → q.enable = true → q.stopped = false →
      s'.vaTables x.core x.ctx .w (q.recordAddr q.tail) 64 = true → s'.vaTables x.core x.ctx .w q.taila.toNat 8 = true →
      ∀ f va, s'.checkVA x.core x.ctx .w (q.recordAddr q.tail) 64 = .error (f, va) ∨
        (s'.checkVA x.core x.ctx .w (q.recordAddr q.tail) 64 = .ok () ∧ s'.checkVA x.core x.ctx .w q.taila.toNat 8 = .error (f, va)) → refused 3 f.code va) ∧
    ∀ v w : State, q.ctx = x.ctx → q.enable = true → q.stopped = false →
      s'.vaTables x.core x.ctx .w (q.recordAddr q.tail) 64 = true → s'.vaTables x.core x.ctx .w q.taila.toNat 8 = true → s'.checkVA x.core x.ctx .w (q.recordAddr q.tail) 64 = .ok () →
      s'.checkVA x.core x.ctx .w q.taila.toNat 8 = .ok () → q.tail - q.head < 2 ^ q.loge →
      s'.writeVA x.core x.ctx (q.recordAddr q.tail) b (.queue n) = .ok v →
      v.writeVA x.core x.ctx q.taila.toNat (leBytes 8 (q.tail + 1)) (.queue n) = .ok w →
      ∃ u h, exec (.launch a) s = .next u ∧
        Ran x (((w.staleVA x.t x.core x.ctx (q.recordAddr q.tail) 64).staleVA x.t x.core x.ctx q.taila.toNat 8).setQueue n { q with tail := q.tail + 1 }) u h ∧ h.held = x.g.held) ∧
  ∀ (a : BitVec 6) (s : State) (x : Iss) (b : List Byte), Ready (.claunch a) s x → x.act ≠ 0 → (x.g.spair x.a).toNat % 64 = 0 →
    ReadsRecord x s (x.g.spair x.a).toNat 64 b → s.doneBefore x.owner s.nextOp 3 = true →
    let pod := x.core / 16
    let kaddr := BitVec.ofNat 64 (fieldOf b 0 8)
    let gs := Tab.get [] s.grids pod
    let s' := recordRead x s (x.g.spair x.a).toNat 64
    ∀ (v : State) (pos : Nat) (y : Ctx), (s.ctx x.ctx).childTake 64 = some (pos, y) → s'.vaReady ioCore x.ctx .r kaddr.toNat 64 = true →
      s'.vaTables x.core x.ctx .w ((s.ctx x.ctx).childAddr pos) 64 = true →
      let block := b.drop 8 ++ leBytes 4 x.T.teamn ++ leBytes 4 x.T.lid
      let joined := fun (k : Nat) (g : OpenGrid) (gs : List OpenGrid) => ∃ u h, exec (.claunch a) s = .next u ∧ h.held = x.g.held ∧
        Ran x { v.modCtx x.ctx (fun z => { z with childHead := y.childHead, childFree := y.childFree }) with
          grids := Tab.set [] v.grids pod (gs.set k { g with children := g.children ++ [{ pos := pos, team := x.t, tick := s.gtime }] }) } u h
      (∀ k g, s.gridOf pod x.ctx kaddr = some k → gs[k]? = some g → s.gridDue g = false → g.children.length < 95 →
        s'.writeVA x.core x.ctx ((s.ctx x.ctx).childAddr pos) block (.child x.ctx) = .ok v → joined k g gs) ∧
      ∀ o, s.gridOf pod x.ctx kaddr = none → gs.length < 8 → s'.readKObj x.ctx kaddr.toNat = .ok o → o.cx * o.cy = 1 →
        let g : OpenGrid := { ctx := x.ctx, kaddr := kaddr, kobj := o, children := [], first := s.gtime }
        ({ s' with grids := Tab.set [] s'.grids pod (gs ++ [g]) } : State).writeVA x.core x.ctx ((s.ctx x.ctx).childAddr pos) block (.child x.ctx) = .ok v →
        joined gs.length g (gs ++ [g])

/-! ## Special registers and the rest of the system words -/

namespace Sys2Proof.Claims

open Sys2Proof Sys2Proof.Machine

/-- What QPC of a quad shows (Table 08-15): its path's mask and low PC bits, 0 for an idle quad. -/
def qpcOf (g : Grp) (q : Nat) : Nat :=
  match (Tab.get {} g.quads q).path with
  | some p => if p.mask = 0 then 0 else 2 ^ 28 * p.mask.toNat + p.pc.toNat % 2 ^ 28
  | none => 0

/-- HSTAT of a core (Table 09-8), field by field. -/
def hstatOf (s : State) (c : Nat) : Nat :=
  let k := s.core c
  let live := s.teams.flatMap fun e => if e.2.core = c then e.2.groups.filter fun g => decide (g.2.run ≠ .ended) else []
  2 ^ 31 * k.ctx.isSome.toNat + 2 ^ 30 * (k.courier.any fun y => y.stopped).toNat + 2 ^ 29 * (k.courier.any fun y => y.wait.isSome).toNat +
  2 ^ 28 * (live.any fun g => g.2.frame.isSome).toNat + 2 ^ 27 * k.pre.toNat + 2 ^ 26 * k.thr.toNat + 2 ^ 21 * (k.nmem % 32) + 2 ^ 18 * (k.dicts.length % 8) +
  2 ^ 13 * (k.slots.length % 32) + 2 ^ 8 * (live.length % 32)

/-- A register of the context resident on a core, 0 while none is (R244). -/
def residentReg (s : State) (c : Nat) (f : Nat → Ctx → Nat) : Nat :=
  match (s.core c).ctx with
  | some i => f i (s.ctx i)
  | none => 0

/-- STASHID of the team in a slot of a core, 0 where the slot is free or the team has no stash (Table 09-4). -/
def slotStash (s : State) (c n : Nat) : Nat :=
  match (Tab.find (s.core c).slots n).bind s.team with
  | some T => T.stashid.toNat
  | none => 0

/-- Special registers by number with their 64-bit or 32-bit value, field by field as their tables lay them out (Tables 08-4 to 08-17 and 09-1
to 09-14). -/
def srTable (x : Iss) (s : State) : List (Nat × Nat) :=
  [(0x000, x.g.nmode.toNat), (0x001, x.g.gflags.toNat), (0x002, x.g.garm.toNat), (0x003, x.g.members.toNat + 2 ^ 16 * x.g.nextop.toNat),
   (0x004, 2 ^ 31 * x.g.defer.isSome.toNat + 2 ^ 26 * (x.g.closed.length % 32) + 2 ^ 17 * (x.g.bops % 512) + x.g.bopen.toNat),
   (0x008, x.g.ifc0), (0x009, x.g.ifc1), (0x00A, x.g.ifc2), (0x00B, x.g.ifc3), (0x010, x.g.tbound.toNat), (0x012, x.g.tslot.toNat),
   (0x014, x.g.gtcmp.toNat), (0x016, s.ctime x.ctx x.core), (0x018, x.T.ccyc), (0x01C, 0), (0x01D, 0)] ++
  ((List.range 24).map fun q => (0x020 + q, qpcOf x.g q)) ++
  [(0x040, x.g.id.teamx.toNat), (0x041, x.g.id.teamy.toNat), (0x042, x.g.id.teamz.toNat),
   (0x043, x.g.id.gridx.toNat), (0x044, x.g.id.gridy.toNat), (0x045, x.g.id.gridz.toNat), (0x046, x.g.id.gint.toNat), (0x047, x.g.id.teamn.toNat),
   (0x048, x.g.id.clusx.toNat), (0x049, x.g.id.clusy.toNat), (0x04A, x.g.id.param.toNat % 2 ^ 32), (0x04B, x.g.id.param.toNat / 2 ^ 32),
   (0x04C, x.g.id.stashid.toNat), (0x04D, x.g.id.teamg.toNat), (0x04E, 2 ^ 4 * x.g.id.height.toNat + x.g.id.width.toNat), (0x04F, x.g.id.gkind.toNat),
   (0x060, x.g.fcode.toNat), (0x061, x.g.fpc.toNat), (0x063, x.g.faddr.toNat), (0x065, x.g.skid.toNat + 16 * x.g.fhalt.toNat), (0x066, x.g.faux.toNat),
   (0x100, (s.core x.core).cfg.toNat), (0x101, hstatOf s x.core), (0x102, (s.core x.core).cyc), (0x104, residentReg s x.core fun _ c => c.quant),
   (0x105, residentReg s x.core fun _ c => c.wdog), (0x106, residentReg s x.core fun i c => 2 ^ 31 * c.priv.toNat + i % 64),
   (0x108, residentReg s x.core fun _ c => c.handler.toNat), (0x10A, residentReg s x.core fun _ c => c.s1root.toNat),
   (0x10C, residentReg s x.core fun _ c => c.s2root.toNat), (0x110, ((s.core x.core).courier.map fun (y : Courier) => y.cpc.toNat % 2 ^ 60 / 4 * 4).getD 0),
   (0x200, s.dieNow (dieOf x.core)), (0x202, s.ready.toNat), (0x204, s.smapsn.toNat)] ++
  ((List.range 8).flatMap fun n =>
    [(0x210 + 2 * n, (Tab.get {} s.slots n).key.toNat), (0x220 + 2 * n, (Tab.get {} s.slots n).payload.toNat),
     (0x230 + 2 * n, 2 ^ 32 * (Tab.get {} s.slots n).serial.toNat + 2 ^ 31 * (Tab.get {} s.slots n).owned.toNat + 2 ^ 8 * (Tab.get {} s.slots n).owner.toNat +
       (Tab.get {} s.slots n).sense.toNat),
     (0x300 + n, 2 ^ 16 * slotStash s x.core (2 * n + 1) + slotStash s x.core (2 * n))])

/-- The number read last by `mfsr` and its high word. -/
def Latched (x : Iss) (n : Nat) (w : Word) (s u : State) (d : Nat) (v : Word) : Prop :=
  match x.who with
  | .grp _ _ => ∃ h, Ran x s u h ∧ h.held = { x.g.held with s := h.s, latch := some (n, w) } ∧ SetsScalar x h d v
  | .courier c => ∃ y z, (s.core c).courier = some y ∧ OnlyCourier c s u z ∧
      z = { y with s := z.s, latch := some (n, w), cpc := x.pc + 4, wait := none, last := s.gtime } ∧ ∀ r, Tab.get 0 z.s r = if r = d then v else x.g.sreg r

/-- A group's word only did `f` to its group. -/
def GroupDid (x : Iss) (s u : State) (f : Grp → Grp) : Prop := ∃ h, Ran x s u h ∧ h.held = (f x.g).held

end Sys2Proof.Claims

/-- R215, R223 to R235, R237 and R240 to R246 for `mfsr`: the low number of a register gives its low word and, where it has a high number, latches
the high word; a high number gives the latch where the last low number read named its register; and every register of Tables 08-4 and 09-1 has its
fields where its table puts them. -/
def Obligations.MfsrReadsItsRegister : Prop :=
  ∀ (d : BitVec 6) (r : BitVec 12) (s : State) (x : Iss), Ready (.mfsr d r) s x →
    let n := r.toNat
    (∀ l, srLow n = some l → ∃ u, exec (.mfsr d r) s = .next u ∧ WroteScalar x s u x.d
      (match x.g.latch with
        | some (m, w) => if m = l then w else BitVec.ofNat 32 (x.sr s l / 2 ^ 32)
        | none => BitVec.ofNat 32 (x.sr s l / 2 ^ 32))) ∧
    (srLow n = none → srWide n = true →
      ∃ u, exec (.mfsr d r) s = .next u ∧ Latched x n (BitVec.ofNat 32 (x.sr s n / 2 ^ 32)) s u x.d (BitVec.ofNat 32 (x.sr s n))) ∧
    (srLow n = none → srWide n = false → ∃ u, exec (.mfsr d r) s = .next u ∧ WroteScalar x s u x.d (BitVec.ofNat 32 (x.sr s n))) ∧
    ∀ v, (n, v) ∈ srTable x s → x.sr s n = v

/-- R224, R120, R225, R229, R235, R242, R246 and R247 for `mtsr`: each writable register takes its value, a read-only one keeps its
own; a write of INCCTL sets its slot in every pod's shadow at once. MRED set marks the launches whose teams run on the core (R400). -/
def Obligations.MtsrWritesItsRegister : Prop :=
  (∀ (d : BitVec 6) (r : BitVec 12) (s : State) (x : Iss), Ready (.mtsr d r) s x → x.onCourier = false →
    let n := r.toNat
    let w := x.g.sreg x.a
    let did := fun (s' : State) (f : Grp → Grp) => ∃ u, exec (.mtsr d r) s = .next u ∧ GroupDid x s' u f
    (n = 0x000 → did s fun g => { g with nmode := w &&& 0x1FFFFF }) ∧
    (n = 0x002 → did s fun g => { g with garm := w.setWidth 5 }) ∧
    (n = 0x061 → did s fun g => if x.g.frame.isSome then { g with fpc := x.g.fpc.extractLsb' 32 32 ++ w } else g) ∧
    (n = 0x062 → did s fun g => if x.g.frame.isSome then { g with fpc := w ++ x.g.fpc.extractLsb' 0 32 } else g) ∧
    (n = 0x100 → did ((s.modCore x.core fun k => k.setCfg w).noteMred x.core) id) ∧
    (∀ i, i < 8 →
      (n = 0x210 + 2 * i → did { s with slots := Tab.set {} s.slots i { s.slotAt i with stageKey := (s.slotAt i).stageKey.extractLsb' 32 32 ++ w } } id) ∧
      (n = 0x211 + 2 * i → did { s with slots := Tab.set {} s.slots i { s.slotAt i with stageKey := w ++ (s.slotAt i).stageKey.extractLsb' 0 32 } } id) ∧
      (n = 0x220 + 2 * i → did { s with slots := Tab.set {} s.slots i { s.slotAt i with stagePay := (s.slotAt i).stagePay.extractLsb' 32 32 ++ w } } id) ∧
      (n = 0x221 + 2 * i → did { s with slots := Tab.set {} s.slots i { s.slotAt i with stagePay := w ++ (s.slotAt i).stagePay.extractLsb' 0 32 } } id)) ∧
    (n ∉ [0x000, 0x002, 0x061, 0x062, 0x100] → ¬ (0x210 ≤ n ∧ n ≤ 0x22F) → did s id)) ∧
  (∀ (d : BitVec 6) (r : BitVec 12) (s : State) (x : Iss), Ready (.mtsr d r) s x → x.onCourier = true →
    ∃ u, exec (.mtsr d r) s = .next u ∧ WentOn x s u id id) ∧
  (∀ (d : BitVec 6) (s : State) (x : Iss), Ready (.mtsrGflags d) s x →
    ∃ u, exec (.mtsrGflags d) s = .next u ∧ GroupDid x s u fun g => { g with gflags := (x.g.sreg x.a).setWidth 5 }) ∧
  (∀ (d : BitVec 6) (s : State) (x : Iss), Ready (.mtsrParty d) s x →
    (x.g.muster = none → ∃ u, exec (.mtsrParty d) s = .next u ∧ GroupDid x s u fun g => { g with members := (x.g.sreg x.a).setWidth 16, nextop := 0 }) ∧
    (x.g.muster ≠ none → ∃ u, exec (.mtsrParty d) s = .next u ∧ Waiting x s u)) ∧
  (∀ (d : BitVec 6) (s : State) (x : Iss), Ready (.mtsrGtcmp d) s x →
    ∃ u, exec (.mtsrGtcmp d) s = .next u ∧ GroupDid x s u fun g => { g with stage := x.g.sreg x.a, gtcmp := 0 }) ∧
  (∀ (d : BitVec 6) (s : State) (x : Iss), Ready (.mtsrGtcmph d) s x →
    ∃ u, exec (.mtsrGtcmph d) s = .next u ∧ GroupDid x s u fun g => { g with gtcmp := x.g.sreg x.a ++ x.g.stage }) ∧
  ∀ (d : BitVec 6) (n : BitVec 3) (s : State) (x : Iss), Ready (.mtsrIncctl d n) s x →
    let c := x.g.sreg x.a
    let t := s.slotAt n.toNat
    ∃ u h, exec (.mtsrIncctl d n) s = .next u ∧ h.held = x.g.held ∧ Ran x { s with slots := u.slots, shadows := u.shadows, broadcasts := u.broadcasts } u h ∧
      (∀ m, u.slotAt m = if m = n.toNat then { t with key := t.stageKey, payload := t.stagePay, owned := c.getLsbD 31, owner := c.extractLsb' 8 6,
                                                      sense := c.getLsbD 0, serial := 0 } else s.slotAt m) ∧
      (∀ p m, p < 24 → m < 8 → Tab.get {} u.shadows (8 * p + m) = if m = n.toNat then
          { key := t.stageKey, sense := c.getLsbD 0, owner := c.extractLsb' 8 6, owned := c.getLsbD 31, serial := 0 } else Tab.get {} s.shadows (8 * p + m)) ∧
      ∀ p b, b ∈ Tab.get [] u.broadcasts p → b.1 ≠ n.toNat

/-- R214 and R217: `kteam` begins the kill of the issuing group's team, none of whose groups issues any more; where the team has
nothing in flight, no window and no multicast membership, no group waits at its barrier objects and no other team is ending, the team
ends at once and its launch counts it as killed (Table 16-6). `sevent` sends the context's event with its tag and time, where the
context has a counter block. -/
def Obligations.KteamAndSevent : Prop :=
  (∀ (s : State) (x : Iss), Ready .kteam s x → ∃ u, exec .kteam s = .next u ∧
    (∀ T, u.team x.t = some T → T.ending = some .kill ∧ ∀ e, e ∈ T.groups → e.2.run = .ended) ∧
    ((∀ e, e ∈ s.ops → e.2.who.ofTeam x.t = true → e.2.drained = true) → x.T.wins = [] →
      (∀ e m, e ∈ s.mcast → m ∈ e.2.members → m.2.team ≠ x.t) → s.barWaiters x.t (fun _ => true) = [] → (∀ e, e ∈ s.teams → e.2.ending = none) →
      u.team x.t = none ∧ ∀ l, x.T.kind = .team → s.launch x.T.ctx x.T.lid = some l →
        ∃ m, u.launch x.T.ctx x.T.lid = some m ∧ m.ended = l.ended + 1 ∧ m.killed = true)) ∧
  ∀ (c : BitVec 12) (s : State) (x : Iss), Ready (.sevent c) s x →
    let e : CountAdd := { ctx := x.ctx, off := 0x100 + 16 * (c.toNat % 16), tag := some (BitVec.ofNat 8 (c.toNat / 16), BitVec.ofNat 32 (s.ctime x.ctx x.core)), at_ := s.gtime }
    ∃ u h, exec (.sevent c) s = .next u ∧ h.held = x.g.held ∧
      Ran x (if (s.ctx x.ctx).cntblk = 0 then s else { s with counts := s.counts ++ [e] }) u h

/-- R183, R188, R189 and R194 to R196: `mma`, `mfence` and `mwait`. -/
def Obligations.MatrixWordsIssueAndDrain : Prop :=
  Sys2Proof.Claims.MmaIssuesItsOperation ∧ Sys2Proof.Claims.BatchesCloseAndDrain

/-- R172 to R174, R176 and R177: `mcjoin`, `mcload`, `mcrel` and `mcleave`. -/
def Obligations.MulticastWordsJoinAskAndLeave : Prop :=
  Sys2Proof.Claims.McjoinGivesItsStatus ∧ Sys2Proof.Claims.MulticastMembersRequestReleaseAndLeave

/-- R203 and R205 to R207: tasks spawn and die, and requests go to the incumbent unit. -/
def Obligations.TaskAndIncumbentWordsLeave : Prop :=
  Sys2Proof.Claims.TasksSpawnAndDie ∧ Sys2Proof.Claims.IncumbentRequestsLeave

/-! ## Events: accesses at their homes -/

namespace Sys2Proof.Claims

open Sys2Proof Sys2Proof.Machine

/-- The lanes of a part lie in its sector. -/
def InSector (o : MemOp) (p : Part) : Prop := ∀ a, a ∈ p.lanes → a.addr / 64 = p.sector ∧ a.addr % 64 + o.size ≤ 64

/-- What a list of stores leaves at an address: the byte of the last lane that covers it, else what stood there. -/
def storedAt (size : Nat) (lanes : List LaneAcc) (pa : Nat) (old : Byte) : Byte :=
  match (lanes.filter fun a => decide (a.addr ≤ pa) && decide (pa < a.addr + size)).getLast? with
  | some a => (leBytes size a.data.toNat).getD (pa - a.addr) 0
  | none => old

/-- A request to a peer has not yet left by an Ellek Link port (R395), or a write to the host has not been accepted by its port (R365). -/
def AtPort (o : MemOp) (p : Part) : Prop := (p.peer = true ∧ p.port = none) ∨ (p.peer = false ∧ o.kind.isWrite = true ∧ p.host = true ∧ p.ported = false)

/-- A waiting part may be acted on at its home now: no earlier access of its agent must come first (R351), its port has taken it, no
earlier request for its line of a peer is left (R395), its request was hashed under the current map, nothing holds new requests for its
line, its stack is ready (R402), and no window line it takes bytes from is absent. -/
def AtHome (s : State) (op n : Nat) (o : MemOp) (p : Part) : Prop :=
  s.part? op n = some (o, p) ∧ p.st = .waiting ∧ p.place = .home ∧ o.kind ≠ .padd ∧ s.blocked op o p = false ∧ ¬ AtPort o p ∧
  (p.peer = true → s.lineBefore op p.line false = false) ∧
  s.firstMap.remapped p = false ∧ s.mapHeld (p.sector * 64) = false ∧ s.stackReady (p.sector * 64) = true ∧ s.spansAbsent (stashSpans o p) = false

/-- L2 holds the line of a part, or has room for it, or the line is a peer's (R260, R391). -/
def HasWay (s : State) (p : Part) : Prop := (s.line p.line).present = true ∨ isPeer (p.sector * 64) = true ∨ s.l2Fits p.line none = true

/-- Part `n` of operation `op` is done with these lanes, and every other part and operation is as before. -/
def PartDone (s u : State) (op n : Nat) (o : MemOp) (p : Part) (lanes : List LaneAcc) (wct : Nat) : Prop :=
  Tab.find u.ops op = some (o.setPart n { p with lanes := lanes, st := .done wct }) ∧ ∀ j, j ≠ op → Tab.find u.ops j = Tab.find s.ops j

/-- No bit of the page tables and no entry of a dirty log is due before a write of the part (R316, R323). -/
def NoDirtyMark (s : State) (o : MemOp) (p : Part) : Prop := ∀ d, s.lineDirt p.line (some (p.dirt o)) = some d → s.tracks d = false

/-- The time on the die of an operation's core at which a write that the home of a part performs now is complete: the later of now at
the home and the line's horizon, and 2 ticks more on another die (R259, R363). -/
def completes (s : State) (o : MemOp) (p : Part) : Nat :=
  max (s.homeNow p.line) (s.line p.line).horizon + (if s.homeDie (p.line * 128) = dieOf o.core then 0 else 2)

/-- R264, R140, R259: a store at a home that nothing holds is performed there as one access; no other byte changes, and its
write-completion time is the later of now and the line's horizon. -/
def StorePerformsAtItsHome : Prop :=
  ∀ (s : State) (op n : Nat) (o : MemOp) (p : Part), AtHome s op n o p → o.kind = .store → s.ownerOf p.line = none → InSector o p →
    s.writeHeld o p = false → s.anyHeld p.line = false → NoDirtyMark s o p → HasWay s p →
    ∃ u, exec (.homePerform op n) s = .next u ∧ (∀ pa, u.cohRead pa 1 = [storedAt o.size p.lanes pa ((s.cohRead pa 1).headD 0)]) ∧
      PartDone s u op n o p p.lanes (completes s o p) ∧ u.teams = s.teams

/-- R139, R140, R258, R259, R269: a load, gather, pair read or tag read at a home gets what stands there and changes no byte; one that
may fill the core's L1 leaves the line there, without a poisoned sector, under the lease that R259 gives it: 2,048 ticks where the line
enters L2 now, unless its old home has handed its length over (R268), else twice the length of its last lease where nothing has written
it since (log 62). A line that another sector of the same instruction has brought is not fetched again. -/
def LoadPerformsAtItsHome : Prop :=
  ∀ (s : State) (op n : Nat) (o : MemOp) (p : Part), AtHome s op n o p → ((∃ b, o.kind = .load b) ∨ o.kind = .hgath ∨ o.kind = .pread ∨ o.kind = .ldt) →
    s.ownerOf p.line = none → s.poisonedAt (p.sector * 64) = false → s.twinLine o p = none → HasWay s p →
    ∃ u, exec (.homePerform op n) s = .next u ∧ SameMemory s u ∧ u.teams = s.teams ∧
      PartDone s u op n o p (p.lanes.map fun a => if o.kind = .ldt then { a with gotTag := s.tagAt a.addr }
        else { a with got := BitVec.ofNat 128 (leNat (s.cohRead a.addr o.size)) }) (completes s o p) ∧
      (o.fills p = true → o.rc = 0 → (s.line p.line).rc = 0 →
        let m := if (s.line p.line).present || isPeer (p.sector * 64) || (s.line p.line).handed then (s.line p.line).lease else 2048
        let kept := (s.line p.line).wrote && ((s.line p.line).present || isPeer (p.sector * 64) || (s.line p.line).handed)
        let n := if kept then m else min 2048 (2 * m)
        ∃ l, Tab.find (u.core o.core).l1 p.line = some l ∧ l.v0 = !s.poisonedAt (p.line * 128) ∧ l.v1 = !s.poisonedAt (p.line * 128 + 64) ∧
          l.expiry = s.homeNow p.line + n - (if isPeer (p.line * 128) then 16 else if s.homeDie (p.line * 128) = dieOf o.core then 0 else 2) ∧
          (u.line p.line).horizon = max (s.line p.line).horizon (s.homeNow p.line + n))

/-- R151 and R264: an atomic at a home takes the old value and leaves OP of it; no other byte changes. One lane is stated; lanes of
one word act in ascending order. -/
def AtomicPerformsAtItsHome : Prop :=
  ∀ (s : State) (op n : Nat) (o : MemOp) (p : Part) (a : LaneAcc) (k : AtomK), AtHome s op n o p → o.kind = .atomic k → o.size = atomSize k → p.lanes = [a] →
    s.ownerOf p.line = none → InSector o p → s.writeHeld o p = false → s.anyHeld p.line = false → NoDirtyMark s o p → HasWay s p →
    let old := leNat (s.cohRead a.addr (atomSize k))
    let new := atomApply k (BitVec.ofNat 64 old) (a.data.setWidth 64) (a.data.extractLsb' 64 64)
    ∃ u, exec (.homePerform op n) s = .next u ∧
      (∀ pa, u.cohRead pa 1 = if a.addr ≤ pa ∧ pa < a.addr + atomSize k then [(leBytes (atomSize k) new.toNat).getD (pa - a.addr) 0] else s.cohRead pa 1) ∧
      PartDone s u op n o p [{ a with got := BitVec.ofNat 128 old }] (completes s o p) ∧ u.teams = s.teams

/-- R137 and R139: a load or store at a stash acts on that stash alone; one whose team is gone is lost. -/
def StashAccessPerforms : Prop :=
  ∀ (s : State) (op n t : Nat) (o : MemOp) (p : Part), s.part? op n = some (o, p) → p.st = .waiting → p.place = .stash t → o.kind ≠ .padd → s.blocked op o p = false →
    (s.team t = none → ∃ u q, exec (.homePerform op n) s = .next u ∧ u.part? op n = some (o.setPart n q, q) ∧ q.st = .lost ∧ u.mem = s.mem ∧ u.teams = s.teams) ∧
    ∀ T, s.team t = some T → s.spansAbsent (stashSpans o p) = false → T.spoison.contains p.sector = false →
      (∀ b, o.kind = .load b → ∃ u, exec (.homePerform op n) s = .next u ∧ u.mem = s.mem ∧ u.teams = s.teams ∧
        PartDone s u op n o p (p.lanes.map fun a => { a with got := BitVec.ofNat 128 (leNat (readBytes T.stash a.addr o.size)) }) (s.dieNow (dieOf o.core))) ∧
      (o.kind = .store → InSector o p → (∀ a, a ∈ p.lanes → T.winAt a.addr = none) → ∃ u U, exec (.homePerform op n) s = .next u ∧ u.mem = s.mem ∧ u.team t = some U ∧
        (∀ m, m ≠ t → u.team m = s.team m) ∧ { U with stash := [] } = { T with stash := [] } ∧
        (∀ i, Tab.get 0 U.stash i = storedAt o.size p.lanes i (Tab.get 0 T.stash i)) ∧ PartDone s u op n o p p.lanes (s.dieNow (dieOf o.core)))

/-- R149, R264 to R266, R365, R366 and R395: a request to a peer first leaves by the port of its line, which accepts a write there, in
its turn behind earlier requests for the line, and stays while no port is up; a write to the host is first accepted by its port; a write
that a pin, a drain, a page lock or an earlier held write holds is held in order of arrival; at a home whose line a stash owns, a request
that nothing holds is forwarded; no byte changes. -/
def RequestIsForwardedOrHeld : Prop :=
  (∀ (s : State) (op n : Nat) (o : MemOp) (p : Part), s.part? op n = some (o, p) → p.st = .waiting → o.kind ≠ .padd → s.blocked op o p = false →
    (p.peer = true → p.port = none →
      (∀ k, s.portOf (p.sector * 64) = some k → s.lineBefore op p.line true = false →
        exec (.homePerform op n) s = .next (s.setOp op (o.setPart n { p with port := some k, ported := o.kind.isWrite }))) ∧
      (s.portOf (p.sector * 64) = none ∨ s.lineBefore op p.line true = true → exec (.homePerform op n) s = .next s)) ∧
    (p.peer = true → p.port.isSome = true → s.lineBefore op p.line false = true → exec (.homePerform op n) s = .next s) ∧
    (p.peer = false → o.kind.isWrite = true → p.host = true → p.ported = false →
      exec (.homePerform op n) s = .next (s.setOp op (o.setPart n { p with ported := true })))) ∧
  ∀ (s : State) (op n : Nat) (o : MemOp) (p : Part), AtHome s op n o p →
    ((s.ownerOf p.line).isSome = true → s.writeHeld o p = false → (o.kind.isWrite = true → s.anyHeld p.line = false) → ∃ u, exec (.homePerform op n) s = .next u ∧ u.part? op n = some (o.setPart n { p with st := .forwarded }, { p with st := .forwarded }) ∧
      SameMemory s u) ∧
    (o.kind.isWrite = true → (s.writeHeld o p = true ∨ s.anyHeld p.line = true) →
      ∃ u, exec (.homePerform op n) s = .next u ∧
        u.part? op n = some (o.setPart n { p with st := .held s.order }, { p with st := .held s.order }) ∧ u.order = s.order + 1 ∧ SameMemory s u)

/-- R266: a held store is performed once nothing holds it and no earlier held write of its line waits, or is forwarded where a
stash has come to own the line. -/
def HeldWritePerforms : Prop :=
  ∀ (s : State) (op n k : Nat) (o : MemOp) (p : Part), s.part? op n = some (o, p) → p.st = .held k → p.place = .home → s.writeHeld o p = false →
    s.heldBefore p.line k = false →
    ((s.ownerOf p.line).isSome = true → exec (.heldWritePerform op n) s = .next (s.setOp op (o.setPart n { p with st := .forwarded }))) ∧
    (s.ownerOf p.line = none → o.kind = .store → InSector o p → NoDirtyMark s o p →
      ∃ u, exec (.heldWritePerform op n) s = .next u ∧ (∀ pa, u.cohRead pa 1 = [storedAt o.size p.lanes pa ((s.cohRead pa 1).headD 0)]) ∧
        PartDone s u op n o p p.lanes (completes s o p))

/-- R149 and R263 for a forwarded access, by either event: no reply being due on the line, it is performed at the owning stash; it
goes back to the home where no stash owns the line any more. -/
def ForwardedAccessPerforms : Prop :=
  (∀ (s : State) (op n : Nat) (o : MemOp) (p : Part), s.part? op n = some (o, p) → p.st = .forwarded → s.ownerOf p.line = none →
    exec (.forwardedAccess op n) s = .next (s.setOp op (o.setPart n { p with st := .waiting }))) ∧
  ∀ (i : Instr) (s : State) (op n : Nat) (o : MemOp) (p : Part) (w : OwnedLine), i = .forwardedAccess op n ∨ i = .probeAfterReply op n →
    s.part? op n = some (o, p) → p.st = .forwarded → p.place = .home → s.ownerOf p.line = some w → s.missWaits w.team p.line = false → InSector o p →
    (∀ b, o.kind = .load b → s.poisonedAt (p.sector * 64) = false → s.twinLine o p = none → ∃ u, exec i s = .next u ∧ SameMemory s u ∧
      PartDone s u op n o p (p.lanes.map fun a => { a with got := BitVec.ofNat 128 (leNat (s.cohRead a.addr o.size)) }) (s.dieNow (dieOf o.core))) ∧
    ∀ a, o.kind = .store → p.lanes = [a] → NoDirtyMark s o p →
      ∃ u, exec i s = .next u ∧ PartDone s u op n o p p.lanes (s.dieNow (dieOf o.core)) ∧
        ∃ U, u.team w.team = some U ∧ readBytes U.stash (w.off + a.addr % 128) o.size = leBytes o.size a.data.toNat

/-- R33: a request that waits under a map which has since moved its line is hashed again, and counted. -/
def RemapRepliesRehash : Prop :=
  ∀ (s : State) (op n : Nat) (o : MemOp) (p : Part), s.part? op n = some (o, p) → (p.st = .waiting ∨ ∃ k, p.st = .held k) → p.place = .home → s.remapped p = true →
    exec (.remapReply op n) s = .next { s.setOp op (o.setPart n { p with sent := s.home (p.sector * 64) }) with remap := s.remap + 1 }

/-- The value that a load gives a register file (R139): sign-extended where its size code says so, else as it stands. -/
def loaded (sext : Bool) (size : Nat) (v : BitVec 128) : BitVec 128 :=
  if sext && size = 1 then ((v.setWidth 8).signExtend 32).setWidth 128
  else if sext && size = 2 then ((v.setWidth 16).signExtend 32).setWidth 128 else v

/-- R139 and R161: a load whose parts are all performed writes each lane's value to its registers, and lowers IFC0 where it was
counted there; no other register changes. -/
def LoadRepliesWriteTheirRegisters : Prop :=
  ∀ (s : State) (op t k r n : Nat) (o : MemOp) (g : Grp) (b : Bool), Tab.find s.ops op = some o → o.who = .grp t k → s.grp t k = some g → o.kind = .load b →
    o.dst = .vec r n → o.performed = true → o.replied = false →
    let lanes := o.parts.flatMap fun p => p.lanes
    (lanes.map fun a => a.lane).Nodup → (∀ a, a ∈ lanes → a.lane < 96) →
    ∃ u h, exec (.loadReply op) s = .next u ∧ u.grp t k = some h ∧ Tab.find u.ops op = none ∧ OnlyGroup t k { s with ops := u.ops } u ∧
      { h with v := g.v } = (if o.ifc = some 0 then { g with ifc0 := g.ifc0 - 1 } else g) ∧
      (∀ a i, a ∈ lanes → i < n → h.vreg (r + i) a.lane = (loaded b o.size a.got).extractLsb' (32 * i) 32) ∧
      ∀ q l, l < 96 → ¬ (r ≤ q ∧ q < r + n ∧ ∃ a, a ∈ lanes ∧ a.lane = l) → h.vreg q l = g.vreg q l

/-- R157, R161, R365 and R366: a write whose completion time has come, answered where it returns a value, is complete and IFC3 falls where
it was counted there; it leaves once every peer that must acknowledge it has and what the host receives is performed. -/
def WritesComplete : Prop :=
  ∀ (s : State) (op t k : Nat) (o : MemOp) (g : Grp), Tab.find s.ops op = some o → o.who = .grp t k → s.grp t k = some g → o.kind.isWrite = true →
    o.kind ≠ .cpaOut → o.complete (s.dieNow (dieOf o.core)) = true → (o.returns = true → o.replied = true) →
    ∃ u, exec (.writeCompletion op) s = .next u ∧ OnlyGroup t k { s with ops := u.ops } u ∧
      u.grp t k = some (if o.ifc = some 3 then { g with ifc3 := g.ifc3 - 1 } else g) ∧
      ((∀ p, p ∈ o.parts → (p.peer = true → p.acked = true) ∧ (p.host = true → p.landed (s.dieNow (dieOf o.core)) = true)) → Tab.find u.ops op = none) ∧
      ((∃ p, p ∈ o.parts ∧ ((p.peer = true ∧ p.acked = false) ∨ (p.host = true ∧ p.landed (s.dieNow (dieOf o.core)) = false))) → Tab.find u.ops op = some (if o.ifc = some 3 then { o with ifc := none } else o))

/-- R146: the oldest lane copy of its agent completes once it is performed: its bytes stand at the place it names, IFC1 falls, and
the barrier it names is credited with 16 bytes for each lane. A `cpa.in` lands once no earlier stash access of its agent to the same
bytes waits (R351, log 67). -/
def CopiesComplete : Prop :=
  ∀ (s : State) (op t k : Nat) (o : MemOp) (g : Grp), Tab.find s.ops op = some o → o.who = .grp t k → s.grp t k = some g →
    (∀ j q, (j, q) ∈ s.ops → j < op → q.who = o.who → q.kind ≠ .cpaIn ∧ q.kind ≠ .cpaOut) → o.performed = true →
    (o.kind = .cpaOut → o.complete (s.dieNow (dieOf o.core)) = true → ∃ u, exec (.cpaComplete op) s = .next u ∧ Tab.find u.ops op = none ∧ u.grp t k = some { g with ifc1 := g.ifc1 - 1 } ∧
      u.credits = s.credits ++ (match o.bar with | some (bt, off, gen) => [Credit.mk bt off gen (16 * o.lanesUp.length)] | none => [])) ∧
    ∀ a p c off T, o.kind = .cpaIn → s.stashBefore o.who op (o.lanesUp.map LaneAcc.sname) = false → o.parts = [p] → p.lanes = [a] → unpackStash a.aux = .st c off → s.team c = some T → T.winAt off = none → T.winAt (off + 15) = none →
      ∃ u U, exec (.cpaComplete op) s = .next u ∧ Tab.find u.ops op = none ∧ u.team c = some U ∧ readBytes U.stash off 16 = leBytes 16 a.got.toNat ∧
        Tab.get 0 U.stags (off / 64) = a.gotTag ∧ (u.grp t k).map Grp.ifc1 = some (g.ifc1 - 1) ∧
        u.credits = s.credits ++ (match o.bar with | some (bt, boff, gen) => [Credit.mk bt boff gen 16] | none => [])

/-- R170 and R338: a credit raises BN of the object whose generation it names, saturating, and CHECK is applied; a credit of an
object that is gone, or was made anew, is dropped. -/
def CreditsRaiseTheirObject : Prop :=
  ∀ (s : State) (k aq an sq turn bq bn : Nat) (c : Credit), s.credits[k]? = some c →
    (liveAt s c.team c.off ≠ some c.gen → exec (.barrierCredit k) s = .next { s with credits := s.credits.eraseIdx k }) ∧
    (liveAt s c.team c.off = some c.gen → IsObj (objAt s c.team c.off) aq an sq turn bq bn →
      exec (.barrierCredit k) s = .next (stashWith { s with credits := s.credits.eraseIdx k } c.team c.off
        (checked aq an sq turn bq (min 0xFFFFFF (bn + c.bytes)))))

/-! ## Events: lines, translations, code, maps -/

/-- R258, R260, R322, R334 and R295: a lease or horizon that has passed is forgotten, a successful walk enters both TLBs, with its
stage-2 entry beside it in the pod's, a dictionary that a resident team needs is loaded, and the code a frozen group waits for lets it go on. -/
def CopiesOfMemoryComeAndGo : Prop :=
  (∀ (s : State) (c ln : Nat) (l : L1Line), Tab.find (s.core c).l1 ln = some l → l.expiry ≤ s.dieNow (dieOf c) →
    exec (.leaseExpiry c ln) s = .next (s.modCore c fun k => { k with l1 := Tab.del k.l1 ln })) ∧
  (∀ (s : State) (ln : Nat), (s.line ln).horizon ≤ s.homeNow ln → exec (.horizonExpiry ln) s = .next (s.modLine ln fun l => { l with horizon := 0 })) ∧
  (∀ (s : State) (core ctx : Nat) (va : DWord) (e f : TlbEntry), core < 384 → va.toNat < 2 ^ 60 → s.tablesReady core ctx va.toNat = true → s.walkEntry ctx va.toNat core = some (e, f) →
    ∃ u, exec (.translationWalk core ctx va) s = .next u ∧ (u.core core).tlb.head? = some e ∧ (Tab.get [] u.l2tlb (core / 16)).take 2 = [e, f] ∧
      (∀ f, f ∈ (u.core core).tlb → f = e ∨ f ∈ (s.core core).tlb) ∧ SameMemory s u) ∧
  (∀ (s : State) (core t : Nat) (T : Team), s.team t = some T → T.core = core → T.kobj.dict ≠ 0 → (s.core core).dicts.length < 4 →
    (∀ d, d ∈ (s.core core).dicts → ¬ (d.ctx = T.ctx ∧ d.addr = T.kobj.dict)) → s.vaReady core T.ctx .x T.kobj.dict.toNat 4096 = true →
    ∃ u p, exec (.dictionaryLoad core t) s = .next u ∧
      u = (s.countVA core T.ctx .x T.kobj.dict.toNat 4096).modCore core (fun k => { k with dicts := k.dicts ++ [p] }) ∧ p.ctx = T.ctx ∧ p.addr = T.kobj.dict ∧
      p.words.length = 1024 ∧
      ∀ i tr, i < 1024 → T.kobj.dict.toNat + 4 * i < 2 ^ 60 → s.trans core T.ctx .x (T.kobj.dict.toNat + 4 * i) = .ok tr →
        p.words[i]? = some (BitVec.ofNat 32 (leNat (s.cohRead tr.pa 4))) ∧
        Tab.find p.bad i = if s.poisonedAt tr.pa then some .uncorrectable else none) ∧
  ∀ (s : State) (t k : Nat) (T : Team) (g : Grp), s.team t = some T → Tab.find T.groups k = some g → g.frozen = true →
    (∀ pc, g.choose = some pc → s.vaReady T.core T.ctx .x (pc.toNat / 4 * 4) 4 = true) →
    ∃ u, exec (.icacheFill t k) s = .next u ∧ u.grp t k = some { g with frozen := false } ∧ OnlyGroup t k { s with icache := u.icache, placement := u.placement } u

/-- R259, R260, R262, R264, R269 and R327: a line that a request waits for enters L2 where its set has a way, its lease length anew; the
first touch of a window line that an access waits for brings its bytes and its owner, and keeps what stood in the stash; a scrub counts or poisons what it meets. -/
def LinesFillAndScrub : Prop :=
  (∀ (s : State) (ln : Nat), (∃ j o p, (j, o) ∈ s.ops ∧ p ∈ o.parts ∧ p.place = .home ∧ p.line = ln ∧ p.st = .waiting) → (s.line ln).present = false →
    isPeer (ln * 128) = false → s.takes (ln * 128) = true → s.l2Fits ln none = true →
    ∃ u, exec (.l2Fill ln none) s = .next u ∧ (u.line ln).present = true ∧ (u.line ln).dirty = false ∧
      (u.line ln).lease = (if (s.line ln).handed then (s.line ln).lease else 2048) ∧ (u.line ln).handed = false ∧
      (u.line ln).horizon = (s.line ln).horizon ∧ (u.line ln).owner = (s.line ln).owner ∧ (∀ m, m ≠ ln → u.line m = s.line m) ∧ u.mem = s.mem ∧ u.teams = s.teams) ∧
  (∀ (s : State) (t w i : Nat) (T : Team) (W : Window) (tr : Tr), s.team t = some T → Tab.find T.wins w = some W → i < 8 * W.len →
    Tab.find W.lines i = none → s.trans T.core T.ctx .r (W.base.toNat + 128 * i) = .ok tr → (s.line (tr.pa / 128)).horizon ≤ s.homeNow (tr.pa / 128) →
    s.ownerOf (tr.pa / 128) = none → s.recallHeld (tr.pa / 128) = false → s.touchWanted t w i = true →
    s.tablesReady T.core T.ctx (W.base.toNat + 128 * i) = true → s.takes (tr.pa / 128 * 128) = true →
    let off := W.off * 1024 + 128 * i
    ∃ u U V l, exec (.windowFirstTouch t w i) s = .next u ∧ u.team t = some U ∧ Tab.find U.wins w = some V ∧ Tab.find V.lines i = some l ∧
      l.pa = tr.pa / 128 ∧ l.dirty = false ∧ l.was.bytes = readBytes T.stash off 128 ∧ (u.line (tr.pa / 128)).owner = some t ∧ u.mem = s.mem ∧
      (∀ j, j < 128 → Tab.get 0 U.stash (off + j) = Tab.get 0 s.mem (tr.pa / 128 * 128 + j)) ∧
      (∀ j, j < off ∨ off + 128 ≤ j → Tab.get 0 U.stash j = Tab.get 0 T.stash j) ∧ ∀ n, n ≠ t → u.team n = s.team n) ∧
  ∀ (s : State) (x : Nat), x * 64 < Config.localBytes →
    exec (.patrolScrub x .clean) s = .next s ∧ exec (.patrolScrub x .corrected) s = .next { s with corrected := s.corrected + 1 } ∧
    (x ∉ s.poison → exec (.patrolScrub x .uncorrectable) s = .next { s with poison := s.poison ++ [x], poisoned := s.poisoned + 1 })

/-- R325: a legal change of an established map that nothing holds moves its buckets at once, with the next serial; one that is held
waits, and may be abandoned after 2^20 ticks. R34, R268 and R327: a page move of a candidate locks both pages, and its switch, once
nothing holds either, exchanges their places, unlocks them and counts. R327: the counters are halved every 2^26 ticks. -/
def MapsAndPagesMove : Prop :=
  (∀ (s : State) (die : Nat) (moves : List (Nat × Nat)), s.smapsn ≠ 0 → s.mapLegal die moves = true → (∀ m, m ∈ s.mapChange → m.die ≠ die) →
    (s.mapClear die moves = true → ∃ u, exec (.sliceMapChange die moves) s = .next u ∧ u.smapsn = s.smapsn + 1 ∧ u.mapchg = s.mapchg + 1 ∧
      (∀ d h, h < 4096 → u.bucket d h = match (if d = die then moves.find? fun m => decide (m.1 = h) else none) with | some m => m.2 | none => s.bucket d h) ∧
      (s.poison = [] → u.mem = s.mem)) ∧
    (s.mapClear die moves = false → exec (.sliceMapChange die moves) s =
      .next { s with mapChange := s.mapChange ++ [{ die := die, moves := moves, since := s.gtime }] })) ∧
  (∀ (s : State) (die : Nat), ∃ u, exec (.sliceMapChangeAbandon die) s = .next u ∧ { u with mapChange := [] } = { s with mapChange := [] } ∧
    ∀ m, m ∈ u.mapChange ↔ m ∈ s.mapChange ∧ ¬ (m.die = die ∧ m.since + 2 ^ 20 ≤ s.gtime)) ∧
  (∀ (s : State) (p q : Nat), p < Config.localPages → q < Config.localPages → (s.placed p).stack / 2 ≠ (s.placed q).stack / 2 →
    (s.placed p).count ((s.placed p).stack / 2) + 8 ≤ (s.placed p).count ((s.placed q).stack / 2) →
    (∀ m r, m ∈ s.moving → (r = m.1 ∨ r = m.2) → (s.placed r).stack / 2 ≠ (s.placed p).stack / 2 ∧ (s.placed r).stack / 2 ≠ (s.placed q).stack / 2) →
    ∃ u, exec (.pageMove p q) s = .next u ∧ u.moving = s.moving ++ [(p, q)] ∧ ∀ n, u.placed n = if n = p ∨ n = q then { s.placed n with lock := true } else s.placed n) ∧
  (∀ (s : State) (p q : Nat), p ≠ q → (p, q) ∈ s.moving → (∀ x, x ∈ s.poison → x / 64 ≠ p ∧ x / 64 ≠ q) → s.pageHeld p = false → s.pageHeld q = false →
    ∃ u, exec (.pageMoveSwitch p q) s = .next u ∧ u.migrate = s.migrate + 1 ∧ u.moving = s.moving.erase (p, q) ∧ SameMemory s u ∧
      u.placed p = { s.placed p with stack := (s.placed q).stack, frame := (s.placed q).frame, lock := false } ∧
      u.placed q = { s.placed q with stack := (s.placed p).stack, frame := (s.placed p).frame, lock := false }) ∧
  ∀ (s : State), (s.gtime < 2 ^ 26 * (s.placeHalvings + 1) → exec .placementCounterHalving s = .next s) ∧
    (2 ^ 26 * (s.placeHalvings + 1) ≤ s.gtime → ∃ u, exec .placementCounterHalving s = .next u ∧
      { u with placement := [] } = { s with placement := [], placeHalvings := s.placeHalvings + 1 } ∧
    ∀ p, Tab.find u.placement p = (Tab.find s.placement p).map fun e => { e with c0 := e.c0 / 2, c1 := e.c1 / 2, c2 := e.c2 / 2, c3 := e.c3 / 2 })

end Sys2Proof.Claims

/-- R137 to R140, R149, R151, R258, R259, R263 to R266: an access is performed where the bytes are, as one access for each sector, or is
forwarded or held; no other byte changes. -/
def Obligations.AccessesAreSingleAndLocal : Prop :=
  Claims.StorePerformsAtItsHome ∧ Claims.LoadPerformsAtItsHome ∧ Claims.AtomicPerformsAtItsHome ∧ Claims.StashAccessPerforms ∧
  Claims.RequestIsForwardedOrHeld ∧ Claims.HeldWritePerforms ∧ Claims.ForwardedAccessPerforms

/-- R33, R139, R146, R157, R161, R170 and R338: answers, completions, credits and remap replies. -/
def Obligations.AccessesAnswerAndComplete : Prop :=
  Claims.RemapRepliesRehash ∧ Claims.LoadRepliesWriteTheirRegisters ∧ Claims.WritesComplete ∧ Claims.CopiesComplete ∧ Claims.CreditsRaiseTheirObject

/-- R34, R258, R260, R262, R268, R269, R295, R322, R325, R327 and R334: what moves lines, translations, code and pages about. -/
def Obligations.LinesMapsAndPagesMove : Prop :=
  Claims.CopiesOfMemoryComeAndGo ∧ Claims.LinesFillAndScrub ∧ Claims.MapsAndPagesMove

/-! ## Events: groups between instructions, timers, cores and time -/

namespace Sys2Proof.Claims

open Sys2Proof Sys2Proof.Machine

/-- R377: once every group of the team has stopped, the primary one takes a free frame, the LOWEST one, which is the model's choice (log
66), its state is written there, and it stands at ENTRY with the handler's start values; every other register keeps its value. -/
def HandlersAreEntered : Prop :=
  ∀ (s v : State) (t k i : Nat) (T : Team) (g : Grp) (b : List Byte), s.team t = some T → (∀ j h, (j, h) ∈ T.groups → h.run ≠ .running) →
    T.groups.find? (fun e => e.2.primary && decide (e.2.run = .faulted)) = some (k, g) →
    s.vaReady T.core T.ctx .r (s.ctx T.ctx).handler.toNat 64 = true → s.readVA T.core T.ctx (s.ctx T.ctx).handler.toNat 64 = .ok b →
    let fr := fun (j : Nat) => fieldOf b 40 8 + 16384 * j
    i < fieldOf b 20 4 → i ≤ (s.ctx T.ctx).frames.length → fr i ∉ (s.ctx T.ctx).frames → (∀ j, j < i → fr j ∈ (s.ctx T.ctx).frames) →
    s.writeVA T.core T.ctx (fr i) g.frameBytes = .ok v → v.posted.length ≤ s.posted.length → v.grp t k = some g →
    ∃ u h, exec (.handlerEntry t) s = .next u ∧ u.grp t k = some h ∧ fr i ∈ (u.ctx T.ctx).frames ∧ h.run = .running ∧
      h.frame = some (BitVec.ofNat 64 (fr i)) ∧ h.nmode = 0x00124924 ∧ h.gflags = 0 ∧ h.garm = 0 ∧ h.hints = ({} : Hints) ∧ h.rep = none ∧
      h.sreg 0 = BitVec.ofNat 32 (fr i) ∧ h.sreg 1 = BitVec.ofNat 32 (fr i / 2 ^ 32) ∧
      (∀ n, n < 3 → h.sreg (61 + n) = (~~~g.exited).extractLsb' (32 * n) 32) ∧ (∀ n, 2 ≤ n → n < 61 → h.sreg n = g.sreg n) ∧
      (∀ q, q < 24 → quadBits (~~~g.exited) q ≠ 0 →
        Tab.get {} h.quads q = { path := some { pc := BitVec.ofNat 64 (fieldOf b 0 8), mask := quadBits (~~~g.exited) q } }) ∧
      h.v = g.v ∧ h.p = g.p ∧ h.fcode = g.fcode ∧ h.fpc = g.fpc ∧ h.faddr = g.faddr ∧ h.faux = g.faux ∧ SameMemory v u

/-- The stack entries that a quad record lists at an offset (Table 16-4). -/
def Listed (b : List Byte) (off n : Nat) (l : List Path) : Prop :=
  l.map (fun p => (p.pc.toNat, p.mask.toNat)) = (List.range n).map fun i => (fieldOf b (off + 16 * i) 8, fieldOf b (off + 16 * i + 8) 1)

/-- The quad that a quad record describes: its path, its stacks, whose newest entry comes last, and its age (Table 16-4). -/
def RecordsQuad (b : List Byte) (q : Quad) : Prop :=
  q.path = (if fieldOf b 8 1 = 0 then none else some { pc := BitVec.ofNat 64 (fieldOf b 0 8), mask := BitVec.ofNat 4 (fieldOf b 8 1) }) ∧
  Listed b 16 (fieldOf b 9 1) q.defer.reverse ∧ Listed b 80 (fieldOf b 10 1) q.park ∧ Listed b 144 (fieldOf b 11 1) q.ret.reverse ∧ q.age = fieldOf b 12 4

/-- R213 and R378 for `rfe`: without a handler, or with a bad frame, it raises ILLEGAL; else it restores the frame's items, sets the
PC of the faulting fragment's quads to FPC, lets the orphans of an edited quad resume, frees the frame, and the pending group of lowest GINT goes next or every group resumes. -/
def HandlersReturn : Prop :=
  ∀ (s : State) (x : Iss), Ready .rfe s x →
    (x.g.frame = none → exec .rfe s = .next (x.raise s .illegal)) ∧
    ∀ fr b, x.g.frame = some fr → s.vaReady x.core x.ctx .r fr.toNat 16384 = true → s.readVA x.core x.ctx fr.toNat 16384 = .ok b →
      (x.g.fromFrame b = none → exec .rfe s = .next (x.raise s .illegal)) ∧
      ∀ g, x.g.fromFrame b = some g → g.gone = false → x.g.pending = false →
        ∃ u h, exec .rfe s = .next u ∧ u.grp x.t x.k = some h ∧ fr.toNat ∉ (u.ctx x.ctx).frames ∧ h.frame = none ∧ h.primary = false ∧
          (∀ n, n < 64 → h.sreg n = BitVec.ofNat 32 (fieldOf b (4 * n) 4) &&& ~~~exitedWord x.g.exited n) ∧
          (∀ n, n < 7 → h.pred n = BitVec.ofNat 96 (fieldOf b (0x100 + 16 * n) 12)) ∧
          (∀ r l, r < 8 → l < 96 → h.vreg r l = BitVec.ofNat 32 (fieldOf b (0x200 + 384 * r + 4 * l) 4)) ∧
          (∀ r l, 8 ≤ r → l < 96 → h.vreg r l = x.g.vreg r l) ∧
          h.nmode = BitVec.ofNat 32 (fieldOf b 0x180 4) ∧ h.gflags = BitVec.ofNat 5 (fieldOf b 0x184 4) ∧ h.garm = BitVec.ofNat 5 (fieldOf b 0x188 4) ∧
          h.hints.pend = fieldOf b 0x18C 4 ∧ h.rep = (if fieldOf b 0x1A4 4 / 64 % 2 = 1 then some (BitVec.ofNat 6 (fieldOf b 0x1A4 4)) else none) ∧
          (∀ q, q < 24 → ∃ Q, RecordsQuad ((b.drop (0x1000 + 512 * q)).take 512) Q ∧ Tab.get {} h.quads q =
            (if (BitVec.ofNat 24 (fieldOf b 0x1A8 4)).getLsbD q then { Q with path := Q.path.map fun p => { p with pc := x.g.fpc } } else Q).settle) ∧
          ((∀ j y, (j, y) ∈ x.T.groups → y.pending = false) → ∀ j y, u.grp x.t j = some y → y.run = .running ∨ y.run = .ended) ∧
          ∀ j y, x.T.groups.find? (fun e => e.2.pending) = some (j, y) → j ≠ x.k →
            h.run = .halted ∧ ∃ z, u.grp x.t j = some z ∧ z.primary = true ∧ z.pending = false

/-- R102 step 3: with no runnable quad, the lanes parked at the lowest address of a group go on at the word after it. -/
def RegangsRelease : Prop :=
  ∀ (s : State) (t k : Nat) (T : Team) (g : Grp) (a : DWord), s.team t = some T → Tab.find T.groups k = some g → g.run = .running → g.runnable = [] →
    (∃ n Q p, (n, Q) ∈ g.quads ∧ p ∈ Q.park ∧ p.pc = a) → (∀ n Q p, (n, Q) ∈ g.quads → p ∈ Q.park → a.toNat ≤ p.pc.toNat) →
    ∃ u h, exec (.regangRelease t k) s = .next u ∧ u.grp t k = some h ∧ OnlyGroup t k s u ∧ h.held = g.held ∧
      ∀ n Q, Tab.find g.quads n = some Q → ∃ R, Tab.find h.quads n = some R ∧ R.defer = Q.defer ∧ R.ret = Q.ret ∧
        R.park = Q.park.filter (fun e => decide (e.pc ≠ a)) ∧
        R.path = match Q.park.find? fun p => decide (p.pc = a) with
          | some p => some { pc := s.afterRegang T.core T.ctx a, mask := p.mask }
          | none => Q.path

/-- R372: a sibling to which the halt has come stops before its next instruction, its skid recorded and its waits abandoned, with a
waiting PC, or else that of the fragment that would issue, in FPC. Where several fragments wait, the LOWEST of their PCs stands there,
which is the model's choice (log 66). -/
def SiblingsHalt : Prop :=
  ∀ (s : State) (t k n : Nat) (g : Grp), s.grp t k = some g → g.run = .running → g.halting = some n →
    ∃ u h, exec (.siblingHalt t k) s = .next u ∧ u.grp t k = some h ∧ OnlyGroup t k s u ∧ h.run = .halted ∧ h.fhalt = true ∧ h.skid = BitVec.ofNat 4 n ∧
      h.fcode = 0 ∧ h.faddr = 0 ∧ h.faux = 0 ∧ h.waits = [] ∧ h.halting = none ∧ h.quads = g.quads ∧ h.v = g.v ∧ h.s = g.s ∧ h.p = g.p ∧
      (g.waits = [] → ∀ pc, g.choose = some pc → h.fpc = pc) ∧
      ∀ w, w ∈ g.waits → (∀ y, y ∈ g.waits → w.pc.toNat ≤ y.pc.toNat) → h.fpc = w.pc

/-- The team's handler takes a fault of this group: a binding stands, the group runs no handler, and the team
is not ending (R374). -/
def HandlerTakes (s : State) (T : Team) (g : Grp) : Prop := T.kobj.hbind = true ∧ (s.ctx T.ctx).handler ≠ 0 ∧ g.frame = none ∧ T.ending = none

/-- R229 and R343: a due timer stops its group with TIMER before its next word, and disarms; a wait longer than the context's limit
ends in WATCHDOG with the ticks that it waited, unless a timer is due. -/
def TimersAndWatchdogsFault : Prop :=
  (∀ (s : State) (t k : Nat) (T : Team) (g : Grp) (pc : DWord), s.team t = some T → Tab.find T.groups k = some g → g.run = .running → g.frozen = false →
    g.choose = some pc → g.halting = none → g.soft = none → g.gtcmp ≠ 0 → g.gtcmp.toNat ≤ s.ctime T.ctx T.core → s.defers T = false → HandlerTakes s T g →
    ∃ u h, exec (.groupTimerFire t k) s = .next u ∧ u.grp t k = some h ∧ h.run = .faulted ∧ h.fcode = 0x29 ∧ h.fpc = pc ∧ h.faux = BitVec.ofNat 32 (s.ctime T.ctx T.core) ∧
      h.gtcmp = 0 ∧ h.v = g.v ∧ h.s = g.s ∧ h.p = g.p ∧ h.quads = g.quads) ∧
  (∀ (s : State) (t k : Nat) (T : Team) (g : Grp), s.team t = some T → Tab.find T.groups k = some g → (g.gtcmp = 0 ∨ s.ctime T.ctx T.core < g.gtcmp.toNat) →
    exec (.groupTimerFire t k) s = .next s) ∧
  ∀ (s : State) (t k : Nat) (T : Team) (g : Grp) (w : Wait), s.team t = some T → Tab.find T.groups k = some g → g.run = .running →
    g.waits.find? (fun w => w.timed && decide (1024 * max (s.ctx T.ctx).wdog 1 < s.ctime T.ctx T.core - w.start)) = some w →
    (g.gtcmp = 0 ∨ s.ctime T.ctx T.core < g.gtcmp.toNat) →
    s.defers T = false → HandlerTakes s T g →
    ∃ u h, exec (.watchdogExpiry t k) s = .next u ∧ u.grp t k = some h ∧ h.run = .faulted ∧ h.fcode = 0x28 ∧ h.fpc = w.pc ∧
      h.faux = BitVec.ofNat 32 (min 0xFFFFFFFF (s.ctime T.ctx T.core - w.start)) ∧ h.waits = [] ∧ h.v = g.v ∧ h.s = g.s ∧ h.p = g.p ∧ h.quads = g.quads

/-- R164 and R158: a `sleep` whose ticks have passed lets its agent go on, and the first pending fence of an agent whose conditions
hold completes. Where a group had a load behind it that R159 lets execute early, and that load failed the test of R159, the rollback is
counted; the model executes no load early, and that one was is its event's choice (log 18). -/
def SleepsAndFencesEnd : Prop :=
  (∀ (s : State) (t k : Nat) (T : Team) (g : Grp) (w : Wait), s.team t = some T → Tab.find T.groups k = some g →
    g.waits.find? (fun w => w.till.any fun n => decide (n ≤ s.ctime T.ctx T.core)) = some w →
    ∃ u h, exec (.sleepExpiry (.grp t k)) s = .next u ∧ u.grp t k = some h ∧ OnlyGroup t k s u ∧ h.held = g.held ∧ h.waits = g.waits.filter (fun y => decide (y.pc ≠ w.pc)) ∧
      h.places = g.places.map fun e => (e.1, match e.2.path with
        | some p => if p.pc = w.pc then { e.2 with path := some { p with pc := w.next } } else e.2
        | none => e.2)) ∧
  (∀ (s : State) (c : Nat) (y : Courier) (w : Wait), (s.core c).courier = some y → y.wait = some w → y.stopped = false →
    (∃ n, w.till = some n ∧ n ≤ s.ctime y.ctx c) →
    ∃ u, exec (.sleepExpiry (.courier c)) s = .next u ∧ OnlyCourier c s u { y with cpc := w.next, wait := none, last := s.gtime }) ∧
  ∀ (s : State) (before after : List Fence) (f : Fence) (who : Who),
    (match f.kind with
      | .acq => s.loadsBefore who f.bound = true
      | .rel => s.doneBefore who f.bound f.scope = true
      | .ar | .ns => s.loadsBefore who f.bound = true ∧ s.doneBefore who f.bound f.scope = true) →
    (∀ e, e ∈ before → s.fenceDone who e = false) →
    (∀ t k T g, who = .grp t k → s.team t = some T → Tab.find T.groups k = some g → g.fences = before ++ f :: after →
      let counts := if s.pick ≠ 0 ∧ f.tried = true ∧ (f.kind = .acq ∨ f.kind = .ar) ∧ f.scope ≠ 0 ∧ (s.ctx T.ctx).cntblk ≠ 0
        then s.counts ++ [{ ctx := T.ctx, off := 0x008, tag := none, at_ := s.gtime }] else s.counts
      ∃ u, exec (.fenceComplete (.grp t k)) s = .next u ∧ u.grp t k = some { g with fences := before ++ after } ∧ OnlyGroup t k { s with counts := counts } u) ∧
    ∀ c y, who = .courier c → (s.core c).courier = some y → y.fences = before ++ f :: after →
      ∃ u, exec (.fenceComplete (.courier c)) s = .next u ∧ OnlyCourier c s u { y with fences := before ++ after }

/-- A context has stood on a core for its quantum while other work waits, and no save of any context is under way (R244). -/
def QuantumOver (s : State) (core c : Nat) : Prop :=
  (s.core core).ctx = some c ∧ (s.ctx c).quant ≠ 0 ∧ (s.ctx c).quant ≤ s.gtime - (s.core core).since ∧
  ((s.core core).pre = true ∨ s.otherWork core c = true) ∧ ∀ e, e ∈ s.ctxs → e.2.unload = none

/-- R244 and R382: a core whose context has stood there for its quantum, while other work waits, stops taking and issuing work, and once
nothing of the context is left in flight or to save there it belongs to no context, and no L1 holds a line of the context; it takes work
again once the context's writes, and the records of the courier that has left, are complete. That a pre-emption is one event of each
core, whose steps are not told apart, is log 39. R238: the resident context's courier starts at its entry with the context's parameter
and its number. -/
def CoresChangeHands : Prop :=
  (∀ (s : State) (core c : Nat), QuantumOver s core c → s.victimsOf c [core] = [] →
    (s.settled c [] [core] = false ∨ s.areaTakes c = false → exec (.quantumExpiry core) s = .next (s.modCore core fun k => { k with pre := true })) ∧
    (s.settled c [] [core] = true → s.areaTakes c = true → (s.core core).slots = [] →
      let done := s.saveDone c && decide ((s.parkCourier core).ctxWct c ≤ s.gtime) && s.srcIdle (.copy core)
      ∃ u, exec (.quantumExpiry core) s = .next u ∧ (u.core core).ctx = none ∧
      (u.core core).pre = !done ∧ (u.ctx c).unload = (if done then none else some { func := 0, result := 0, cores := [core] }) ∧
      (u.core core).l1 = [] ∧ (u.core core).courier = none ∧
      (∀ d, d ≠ core → u.core d = { s.core d with l1 := (s.core d).l1.filter fun e => decide (e.2.ctx ≠ some c) }) ∧ u.teams = s.teams ∧ u.mem = s.mem)) ∧
  ∀ (s : State) (core c : Nat), (s.core core).ctx = some c → (s.core core).courier = none → (s.ctx c).centry ≠ 0 → core ∉ (s.ctx c).courierCores →
    (s.ctx c).couriers ≤ (s.ctx c).courierCores.length → (s.ctx c).couriers < 384 →
    ∃ u y, exec (.courierStart core) s = .next u ∧ (u.core core).courier = some y ∧ y.ctx = c ∧ y.num = (s.ctx c).couriers ∧ y.cpc = (s.ctx c).centry &&& 0x0FFFFFFFFFFFFFFC ∧
      y.stopped = false ∧ y.ret = [] ∧ (∀ n, Tab.get 0 y.s n = if n = 2 then (s.ctx c).cparam.extractLsb' 0 32
        else if n = 3 then (s.ctx c).cparam.extractLsb' 32 32 else if n = 4 then BitVec.ofNat 32 (s.ctx c).couriers else 0) ∧
      (u.ctx c).couriers = (s.ctx c).couriers + 1 ∧ u.teams = s.teams ∧ u.mem = s.mem

/-- What the record of a saved team holds (R386, Table 16-11), for a team without windows, barrier objects or matrix operations: its names,
its groups' scalar, predicate and vector registers, modes and fault registers, where their quads stand, and its stash. -/
def RecordsTeam (b : List Byte) (T : Team) : Prop :=
  fieldOf b 0 2 = 2 ∧ fieldOf b 4 4 = b.length % 2 ^ 32 ∧ b.length % 64 = 0 ∧ fieldOf b 8 4 = T.lid % 2 ^ 32 ∧ fieldOf b 32 4 = T.rank % 2 ^ 32 ∧ fieldOf b 100 4 = T.kobj.stash % 2 ^ 32 ∧
  fieldOf b 104 8 = T.ccyc % 2 ^ 64 ∧ fieldOf b 112 4 = T.groups.length % 2 ^ 32 ∧ fieldOf b 116 4 = 0 ∧ fieldOf b 120 4 = 0 ∧
  fieldOf b 124 4 = (match T.kind with | .team => 0 | .task => 1 | .pair => 2) ∧
  (∀ j k g, T.groups[j]? = some (k, g) →
    let o := 2048 + j * (12864 + 384 * T.kobj.regs)
    (∀ n, n < 64 → fieldOf b (o + 4 * n) 4 = (g.sreg n).toNat) ∧ (∀ n, n < 7 → fieldOf b (o + 256 + 16 * n) 12 = (g.pred n).toNat) ∧
    fieldOf b (o + 368) 4 = g.nmode.toNat ∧ fieldOf b (o + 372) 4 = g.gflags.toNat ∧ fieldOf b (o + 376) 4 = g.garm.toNat ∧
    fieldOf b (o + 432) 8 = g.fpc.toNat ∧ fieldOf b (o + 440) 8 = g.faddr.toNat ∧ fieldOf b (o + 448) 4 = g.fcode.toNat ∧ fieldOf b (o + 456) 4 = g.faux.toNat ∧
    (∀ q, q < 24 → RecordsQuad ((b.drop (o + 512 + 512 * q)).take 512) (Tab.get {} g.quads q)) ∧
    ∀ r l, r < T.kobj.regs → l < 96 → fieldOf b (o + 12864 + 384 * r + 4 * l) 4 = (g.vreg r l).toNat) ∧
  ∀ i, i < T.kobj.stash → b.getD (2048 + T.groups.length * (12864 + 384 * T.kobj.regs) + i) 0 = Tab.get 0 T.stash i

/-- A quad that a record can hold: no path without a lane, and stacks within the limits of R99. -/
def Recordable (q : Quad) : Prop :=
  (∀ p, q.path = some p → p.mask ≠ 0) ∧ q.defer.length ≤ 4 ∧ q.park.length ≤ 4 ∧ q.ret.length ≤ 16 ∧ q.age < 2 ^ 32

/-- R244, R382 to R386 and Table 16-7: the team that stands on a core at its quantum's expiry, alone in its cluster and with nothing in
flight, is saved. Its registers, paths and stash are written as its record into free space of the save area; it leaves its slot, and its
STASHID, if it has one, is freed under quarantine (R234); the core belongs to no context, its L1 holds nothing, and HSTAT.PRE stands
until the save is over. That the place is the lowest free one, and what a record holds beyond the tables, is log 33. A record that could
not be written would end the team (R376). -/
def TeamsAreSaved : Prop :=
  ∀ (s : State) (core c t : Nat) (T : Team), QuantumOver s core c → s.victimsOf c [core] = [t] → s.team t = some T → T.core = core → T.ctx = c →
    s.settled c [t] [core] = true → s.areaTakes c = true → (s.core core).slots = [(T.slot, t)] → (s.teams.map Prod.fst).Nodup → (∃ e, e ∈ T.groups ∧ e.2.run = .running) →
    T.wins = [] → T.bars = [] → T.gens = [] → (∀ r, r ∈ s.hamper → r.ctx ≠ c) →
    (∀ e, e ∈ T.groups → e.2.mops = [] ∧ (∀ q, q < 24 → Recordable (Tab.get {} e.2.quads q))) →
    let w := ((s.setPre [core] true).unload t).1
    w.mem = s.mem ∧ ∃ b, RecordsTeam b T ∧ ∀ pos, (s.ctx c).recordPlace b.length = some pos →
      pos + b.length ≤ (s.ctx c).savel.toNat ∧ (∀ y, y ∈ (s.ctx c).saved → pos + b.length ≤ y.pos ∨ y.pos + y.len ≤ pos) ∧
      ∀ v, w.writeVA ioCore c ((s.ctx c).saveb.toNat + pos) b (.save c) = .ok v →
        ∃ u y, exec (.quantumExpiry core) s = .next u ∧ u.mem = v.mem ∧ u.team t = none ∧ (∀ n, n ≠ t → u.team n = v.team n) ∧
          (u.ctx c).saved = (v.ctx c).saved ++ [y] ∧ y.uid = t ∧ y.pos = pos ∧ y.len = b.length ∧ y.team.ctx = c ∧ y.team.lid = T.lid ∧ y.team.kind = T.kind ∧
          (u.core core).ctx = none ∧ (u.core core).slots = [] ∧ (u.core core).l1 = [] ∧ (u.core core).courier = none ∧
          (T.stashid ≠ 0 → ∃ q, q ∈ Tab.get [] u.quarantine (dieOf core) ∧ q.id = T.stashid) ∧
          (u.core core).pre = (u.ctx c).unload.isSome

/-- R346: an event on its way adds one to its counter, and an `sevent` leaves its tag and time beside it. -/
def CountersAdd : Prop :=
  ∀ (s : State) (k : Nat) (a : CountAdd), s.counts[k]? = some a → (s.ctx a.ctx).cntblk ≠ 0 →
    let pa := (s.ctx a.ctx).cntblk.toNat + a.off
    pa % 128 + 16 ≤ 128 → s.takes pa = true → s.ownerOf (pa / 128) = none → s.lineHeld (pa / 128) = false → s.anyHeld (pa / 128) = false → s.posted = [] →
    ∃ u, exec (.eventCounterAdd k) s = .next u ∧ u.counts = s.counts.eraseIdx k ∧ u.teams = s.teams ∧
      u.cohRead pa 8 = leBytes 8 ((leNat (s.cohRead pa 8) + 1) % 2 ^ 64) ∧
      (∀ g m, a.tag = some (g, m) → u.cohRead (pa + 8) 8 = leBytes 4 g.toNat ++ leBytes 4 m.toNat) ∧
      ∀ x, (x < pa ∨ pa + (if a.tag.isSome then 16 else 8) ≤ x) → u.cohRead x 1 = s.cohRead x 1

/-- The admitted groups of a core that still exist. -/
def standing (s : State) (core : Nat) : List (Nat × Nat) := (s.core core).admitted.filter fun e => (s.grp e.1 e.2).isSome

/-- The groups of a core that may issue memory words under its throttle. -/
def Admitted (s : State) (core : Nat) (e : Nat × Nat) : Prop :=
  ∃ T g, (e.1, T) ∈ s.teams ∧ T.core = core ∧ (e.2, g) ∈ T.groups ∧ s.admits core e.1 e.2 = true

/-- The score of a group, 0 for none. -/
def scoreOf (s : State) (e : Nat × Nat) : Nat := ((s.grp e.1 e.2).map fun g => g.score).getD 0

/-- R294: at each 4,096th core cycle the scores of a core's groups halve, and of no other's, and a throttle whose scores fall below half
its threshold lets go; a group that has held a ready memory word under one for 65,536 core cycles is admitted, in the place of an
admitted group of lowest score: of those listed as admitted for their wait that group, where it is listed, leaves the list. -/
def ThrottlesLetGo : Prop :=
  (∀ (s : State) (core : Nat), ((s.core core).cyc < 4096 * ((s.core core).halvings + 1) → exec (.throttleScoreHalve core) s = .next s) ∧
    (4096 * ((s.core core).halvings + 1) ≤ (s.core core).cyc → ∃ u, exec (.throttleScoreHalve core) s = .next u ∧
      (∀ t T, s.team t = some T → ∃ U, u.team t = some U ∧ U.bare = T.bare ∧ ∀ k g, Tab.find T.groups k = some g →
        Tab.find U.groups k = some (if T.core = core then { g with score := g.score / 2 } else g)) ∧
      (∀ d, d ≠ core → u.core d = s.core d) ∧
      u.core core = (if (s.core core).thr = true ∧ 2 * u.scoreSum core < (s.core core).threshold
        then { s.core core with halvings := (s.core core).halvings + 1, thr := false, nmem := 16, admitted := [] }
        else { s.core core with halvings := (s.core core).halvings + 1 }))) ∧
  ∀ (s : State) (t k n : Nat) (T : Team) (g : Grp), s.team t = some T → Tab.find T.groups k = some g → (s.core T.core).thr = true →
    s.admits T.core t k = false → g.denied = some n → 65536 ≤ (s.core T.core).cyc - n →
    ∃ u l, exec (.throttleStarvationAdmit t k) s = .next u ∧ u.admits T.core t k = true ∧ u.teams = s.teams ∧
      u.core T.core = { s.core T.core with admitted := l ++ [(t, k)] } ∧ (∀ d, d ≠ T.core → u.core d = s.core d) ∧
      ((∀ e, ¬ Admitted s T.core e) → l = standing s T.core) ∧
      ((∃ e, Admitted s T.core e) → ∃ e, Admitted s T.core e ∧ (∀ f, Admitted s T.core f → scoreOf s e ≤ scoreOf s f) ∧ l = (standing s T.core).erase e)

/-- R245 and R340: a tick raises GTIME by one at the time source; a die's copy shows it, or falls back by one tick more, to 2 at most,
as the state's choice says (log 60); acknowledgements whose time has come are given (R365, R366). R244 and R342: a core's cycle raises
CYC of the core and CCYC of its teams by one, and lets the ready groups that R293 puts first issue, as turns of the agenda (log 29); a
group that is owed a turn by none of them goes before one that has given way (R107), and of one team's groups the lower GINT goes first
(R373). -/
def TicksAndCyclesPass : Prop :=
  (∀ (s : State), ∃ u, exec .gtimeTick s = .next u ∧ u.gtime = s.gtime + 1 ∧
    (∀ d, d < 4 → u.dieNow d = s.gtime + 1 - (if s.pick.getLsbD d then min 2 (Tab.get 0 s.lags d + 1) else 0)) ∧
    ((∀ a, a ∈ s.counts → s.gtime + 1 < a.at_ + 65536) → (∀ e n, e ∈ s.queues → e.2.taken = some n → s.gtime + 1 < n + 1000) → s.posted = [] → (∀ e, e ∈ s.teams → e.2.ending = none) →
      u.acks = s.acks.filter (fun a => decide (s.gtime + 1 < a.wct)) ∧ u.acked = s.acked ++ s.acks.filter (fun a => decide (a.wct ≤ s.gtime + 1)) ∧
      u.counts = s.counts ∧ u.mem = s.mem ∧ u.teams = s.teams ∧ u.cores = s.cores)) ∧
  ∀ (s : State) (core : Nat), core < 384 → ∃ u, exec (.coreCycle core) s = .next u ∧ (u.core core) = { s.core core with cyc := (s.core core).cyc + 1 } ∧
    (∀ d, d ≠ core → u.core d = s.core d) ∧ u.mem = s.mem ∧
    (∀ t T, s.team t = some T → u.team t = some (if T.core = core then { T with ccyc := T.ccyc + 1 } else T)) ∧
    ∃ l, u.agenda = l ++ s.agenda ∧ l.length ≤ 2 ∧ ∀ m, m ∈ l → ∃ t k T g, m = .issue (.grp t k) ∧ (t, T) ∈ u.teams ∧ T.core = core ∧
      (k, g) ∈ T.groups ∧ u.readyGrp t k g = true ∧ u.owedTurn g = none ∧ ∀ j, l = [.issue (.grp t j), .issue (.grp t k)] → j ≤ k

/-- Package power of telemetry page 0 as a number, and the temperatures of its 4 dies and 8 stacks, signed (Table 17-9). -/
def powerShown (s : State) : Nat := leNat ((List.range 4).map (Tab.get 0 s.telemetry))

def tempShown (s : State) (k : Nat) : Int := (BitVec.ofNat 32 (leNat ((List.range 4).map fun i => Tab.get 0 s.telemetry (32 + 4 * k + i)))).toInt

/-- A limit of function 0x10 that is set is passed; a limit of 0 is not set (log 31). -/
def LimitPassed (s : State) : Prop :=
  (s.powerLimit ≠ 0 ∧ s.powerLimit < powerShown s) ∨ (s.tempLimit ≠ 0 ∧ ∃ k, k < 12 ∧ (BitVec.ofNat 32 s.tempLimit).toInt < tempShown s k)

/-- R397 and R403: the rate of GTIME changes by at most 200 parts per million and not at the time source; a core's clock changes, and the
first lowering of an interval counts it (log 31); what telemetry shows is brought up to date every 2^20 ticks, with the device's own count
of intervals and lanes; a power limit's crossing is one event until it is passed no more; a lane's margin is kept. -/
def ClocksAndTelemetryFollow : Prop :=
  (∀ (s : State) (ppm : Int), exec (.timeSyncAdjust ppm) s = .next (if s.timeSource = false ∧ -200 ≤ ppm ∧ ppm ≤ 200 then { s with ppm := ppm } else s)) ∧
  (∀ (s : State) (core mhz : Nat), core < 384 → 0 < mhz → ∃ u, exec (.clockAdapt core mhz) s = .next u ∧ u.core core = { s.core core with mhz := mhz } ∧
    (∀ d, d ≠ core → u.core d = s.core d) ∧
    (mhz < (s.core core).mhz ∧ s.capLast ≠ some (s.gtime / 2 ^ 20) → u.capIntervals = s.capIntervals + 1 ∧ u.capLast = some (s.gtime / 2 ^ 20)) ∧
    (¬ (mhz < (s.core core).mhz ∧ s.capLast ≠ some (s.gtime / 2 ^ 20)) → u.capIntervals = s.capIntervals ∧ u.capLast = s.capLast) ∧
    { u with cores := [], capIntervals := 0, capLast := none } = { s with cores := [], capIntervals := 0, capLast := none }) ∧
  (∀ (s : State) (page : Nat) (data : List Byte), page ≤ 4 → data.length = 256 →
    (s.gtime % 2 ^ 20 ≠ 0 → exec (.telemetryUpdate page data) s = .next s) ∧
    (s.gtime % 2 ^ 20 = 0 → ∃ u, exec (.telemetryUpdate page data) s = .next u ∧
      { u with telemetry := [], crossed := false } = { s with telemetry := [], crossed := false } ∧ (u.crossed = true ↔ s.crossed = true ∧ LimitPassed u) ∧
      (∀ i, i < 256 * page ∨ 256 * page + 256 ≤ i → Tab.get 0 u.telemetry i = Tab.get 0 s.telemetry i) ∧
      ∀ i, i < 256 → Tab.get 0 u.telemetry (256 * page + i) =
        if page = 0 ∧ 12 ≤ i ∧ i < 16 then (leBytes 4 s.capIntervals).getD (i - 12) 0
        else if page ≠ 4 then data.getD i 0
        else if i % 16 < 8 then Tab.get 0 s.margins (8 * (i / 16) + i % 16)
        else if i % 16 < 12 then (leBytes 4 (Tab.get 0 s.retrained (i / 16))).getD (i % 16 - 8) 0 else 0)) ∧
  (∀ (s : State), (LimitPassed s → s.crossed = false → exec .powerLimitCrossed s = .next { s with powerEvents := s.powerEvents + 1, crossed := true }) ∧
    (¬ LimitPassed s ∨ s.crossed = true → exec .powerLimitCrossed s = .next s)) ∧
  ∀ (s : State) (port lane : Nat) (m : Byte), port < 16 → lane < 8 → ∃ u, exec (.laneRetrain port lane m) s = .next u ∧
    Tab.get 0 u.margins (8 * port + lane) = m ∧ (∀ i, i ≠ 8 * port + lane → Tab.get 0 u.margins i = Tab.get 0 s.margins i) ∧
    Tab.get 0 u.retrained port = Tab.get 0 s.retrained port + 1 ∧ { u with margins := [], retrained := [] } = { s with margins := [], retrained := [] }

end Sys2Proof.Claims

/-- R213, R372, R377 and R378: the handler is entered on the primary group, its siblings halt, and `rfe` restores. -/
def Obligations.HandlersAreEnteredAndLeft : Prop := Claims.HandlersAreEntered ∧ Claims.HandlersReturn ∧ Claims.SiblingsHalt

/-- R102, R158, R164, R229, R294 and R343: releases, timers, watchdogs, sleeps, fences and the throttle. -/
def Obligations.GroupsAreReleasedAndTimed : Prop :=
  Claims.RegangsRelease ∧ Claims.TimersAndWatchdogsFault ∧ Claims.SleepsAndFencesEnd ∧ Claims.ThrottlesLetGo

/-- R234, R244, R382 and R384 to R386: a quantum's expiry saves the team of a core. -/
def Obligations.TeamsAreSaved : Prop := Claims.TeamsAreSaved

/-- R238, R244, R245, R342, R346, R397 and R403: cores change hands, counters add, ticks and cycles pass, clocks and telemetry follow. -/
def Obligations.CoresCountersAndTimeGoOn : Prop :=
  Claims.CoresChangeHands ∧ Claims.CountersAdd ∧ Claims.TicksAndCyclesPass ∧ Claims.ClocksAndTelemetryFollow

/-! ## Events: engines -/

namespace Sys2Proof.Claims

open Sys2Proof Sys2Proof.Machine

/-- The first unfinished copy of a courier. -/
def FirstCopy (y : Courier) (n : Nat) (c : Copy) : Prop :=
  y.copies[n]? = some c ∧ c.finished = false ∧ ∀ j d, j < n → y.copies[j]? = some d → d.finished = true

/-- The bytes of the unit at a copy's cursor, read from global memory without error and clear of the destination, or of a fill. -/
def UnitBytes (s : State) (core : Nat) (y : Courier) (c : Copy) (b : List Byte) (tag : Tag) : Prop :=
  (c.fill = true ∧ tag = 0 ∧ b = (List.range c.unit).map fun i => c.desc.getD ((c.dst c.cursor + i) % 8) 0) ∨
  (c.fill = false ∧ c.flag 0 = false ∧ s.vaReady core y.ctx .r (c.src c.cursor) c.unit = true ∧ s.readVA core y.ctx (c.src c.cursor) c.unit = .ok b ∧
    (∃ p q, s.trans core y.ctx .r (c.src c.cursor) = .ok p ∧ s.trans core y.ctx .r ((c.src c.cursor + c.unit - 1) % 2 ^ 64) = .ok q ∧
      s.poisonedAt p.pa = false ∧ s.poisonedAt q.pa = false ∧ tag = s.tagAt p.pa) ∧
    ∀ i, i < c.unit → c.takes (c.dst c.cursor + i) = false)

/-- R179, R180, R182: the first unfinished copy of a courier writes one unit into memory; its cursor and its count move on; a sector that
the units so far have written whole takes the tag that FLAGS[2] asks for, of the unit that completes it (log 64); it is over, with its
credit, when its shape is done. A source that fails stops it with its fault and its source address (log 64). -/
def CopiesWriteUnits : Prop :=
  (∀ (s : State) (core n : Nat) (y : Courier) (c : Copy) (b : List Byte) (tag : Tag) (t : Tr), (s.core core).courier = some y → FirstCopy y n c → c.started = true →
    c.flag 1 = false → UnitBytes s core y c b tag → c.dst c.cursor < 2 ^ 60 → s.tablesReady core y.ctx (c.dst c.cursor) = true → s.trans core y.ctx .w (c.dst c.cursor) = .ok t → s.takes t.pa = true → t.pa % 64 = c.dst c.cursor % 64 →
    s.lineHeld (t.pa / 128) = false → s.anyHeld (t.pa / 128) = false → s.tracks (t.dirt y.ctx core) = false → s.ownerOf (t.pa / 128) = none →
    ∃ u z d, exec (.bulkCopyUnit core false) s = .next u ∧ (u.core core).courier = some z ∧ z.copies[n]? = some d ∧
      (∀ a, u.cohRead a 1 = if t.pa ≤ a ∧ a < t.pa + b.length then [b.getD (a - t.pa) 0] else s.cohRead a 1) ∧
      d.cursor = c.cursor + c.unit ∧ d.done = c.done + b.length ∧ d.status = c.status ∧ 
      d.wct = max c.wct (max (s.homeNow (t.pa / 128)) (s.line (t.pa / 128)).horizon + (if s.homeDie (t.pa / 128 * 128) = dieOf core then 0 else 2)) ∧
      (d.finished = true ↔ c.total ≤ c.cursor + c.unit) ∧
      (c.flag 2 = false → u.tags = s.tags) ∧
      (c.flag 2 = true → isHost t.pa = false → (b.length = 64 ∨
          covered (Tab.get 0 c.cover (c.dst c.cursor / 64)) ((List.range b.length).map fun i => t.pa + i) = BitVec.allOnes 64) →
        Tab.get 0 u.tags (t.pa / 64) = tag) ∧
      u.credits = (match c.bound with
        | some (ct, off, gen) => if c.total ≤ c.cursor + c.unit ∧ c.done + b.length ≠ 0 then s.credits ++ [Credit.mk ct off gen (c.done + b.length)] else s.credits
        | none => s.credits)) ∧
  ∀ (s : State) (core n : Nat) (y : Courier) (c : Copy), (s.core core).courier = some y → FirstCopy y n c → c.fill = false → c.flag 0 = false →
    s.vaReady core y.ctx .r (c.src c.cursor) c.unit = true →
    (∀ f a e, s.readVA core y.ctx (c.src c.cursor) c.unit = .error (f, a) → ∃ u z d, exec (.bulkCopyUnit core e) s = .next u ∧
      (u.core core).courier = some z ∧ z.copies[n]? = some d ∧ d.finished = true ∧ d.status = some f ∧ d.faddr = BitVec.ofNat 64 (c.src c.cursor) ∧ d.done = c.done ∧ SameMemory s u) ∧
    ∀ b p q, s.readVA core y.ctx (c.src c.cursor) c.unit = .ok b → s.trans core y.ctx .r (c.src c.cursor) = .ok p →
      s.trans core y.ctx .r ((c.src c.cursor + c.unit - 1) % 2 ^ 64) = .ok q → ∃ u z d, exec (.bulkCopyUnit core true) s = .next u ∧
      (u.core core).courier = some z ∧ z.copies[n]? = some d ∧ d.finished = true ∧ d.status = some .uncorrectable ∧ d.faddr = BitVec.ofNat 64 (c.src c.cursor) ∧ d.done = c.done ∧
      SameMemory s u

/-- R181: a finished copy at the head of its courier's list, its writes complete, leaves the list and writes its record into the ring,
SERIAL last; a courier without a ring writes none (log 12). -/
def CopiesAreRecorded : Prop :=
  ∀ (s : State) (core : Nat) (y : Courier) (c : Copy) (rest : List Copy), (s.core core).courier = some y → y.copies = c :: rest → c.finished = true → c.wct ≤ s.dieNow (dieOf core) →
    let s' := s.modCore core fun k => { k with courier := some { y with copies := rest } }
    let a := y.ring.toNat + 32 * ((c.serial - 1) % (y.size / 32))
    (y.size = 0 → exec (.copyCompletionRecord core) s = .next s') ∧
    ∀ v w, y.size ≠ 0 →
      s'.writeVA core y.ctx a (leBytes 4 (fieldOf c.desc 56 4) ++ leBytes 2 (match c.status with | some f => f.code | none => 0) ++ zeros 2 ++ leBytes 8 c.done ++
        leBytes 8 c.faddr.toNat) (.copy core) = .ok v →
      v.writeVA core y.ctx (a + 24) (leBytes 8 c.serial) (.copy core) = .ok w → exec (.copyCompletionRecord core) s = .next w

/-- An operation waits for its operands, which can be read and pinned now: no stash row is absent, no sector is poisoned, B has not been
read, and the lines, which L2 holds and whose homes take requests, are 8 at most in each set with those pinned there already (R265). -/
def Fetchable (s : State) (t k n : Nat) (T : Team) (g : Grp) (o : MatOp) : Prop :=
  let lines := (rowLines o.asrc o.alocs ++ rowLines o.bsrc o.blocs).eraseDups
  s.team t = some T ∧ Tab.find T.groups k = some g ∧ g.mops[n]? = some o ∧ o.st = .issued ∧ o.bread = false ∧ o.bbad = none ∧ o.pins = [] ∧
  s.rowAbsent o.asrc o.alocs = false ∧ s.rowAbsent o.bsrc o.blocs = false ∧ s.rowPoison o.asrc o.alocs = none ∧ s.rowPoison o.bsrc o.blocs = none ∧
  Tab.rising 0 s.lines = true ∧ ∀ ln, ln ∈ lines → (s.line ln).present = true ∧ s.takes (ln * 128) = true ∧
    ((s.setLines ln).filter fun e => decide (e.2.pins ≠ 0)).length +
      (lines.filter fun m => decide ((s.line m).pins = 0 ∧ m % 1024 = ln % 1024 ∧ s.home (m * 128) = s.home (ln * 128))).length ≤ 8

/-- R190, R193 and R196 for the operand fetch of an operation of no party: the rows' bytes and tags are read and their lines pinned; a tag
that fails is recorded as the deferred fault, with the address of the FIRST failing sector, which is the model's choice (log 50), and the operation and every later one is discarded. R189: for a party B is read once, and
every operation of the party that waits for it has those bytes. -/
def OperandsAreFetched : Prop :=
  (∀ (s : State) (t k n : Nat) (T : Team) (g : Grp) (o : MatOp), Fetchable s t k n T g o → o.party = none →
    ∃ u h p, exec (.mmaOperandFetch t k n) s = .next u ∧ u.grp t k = some h ∧ SameMemory s u ∧
      p = { o with abytes := s.rowBytes o.asrc o.alocs, bbytes := s.rowBytes o.bsrc o.blocs, atags := s.rowTags o.asrc o.alocs, btags := s.rowTags o.bsrc o.blocs,
                   bread := true, pins := p.pins, st := .fetched, afmt := p.afmt, bfmt := p.bfmt } ∧
      (∀ ln, ln ∈ p.pins ↔ ln ∈ rowLines o.asrc o.alocs ++ rowLines o.bsrc o.blocs) ∧ p.pins.Nodup ∧
      (∀ ln, (u.line ln).pins = (s.line ln).pins + (if ln ∈ p.pins then 1 else 0)) ∧
      (p.tagFault = none → h = { g with mops := g.mops.set n p }) ∧
      ∀ a, p.tagFault = some a → h.mops = (g.mops.set n p).take n ++ ((g.mops.set n p).drop n).map (fun m => { m with st := .discarded }) ∧
        h.defer = some { code := .tagFormat, faux := BitVec.ofNat 32 (2 ^ 31 + k * 2 ^ 27 + o.idx % 256 * 2 ^ 16 + o.batch.toNat), faddr := BitVec.ofNat 64 a } ∧
        { h with mops := [], defer := none } = { g with mops := [], defer := none }) ∧
  ∀ (s : State) (t k n q : Nat) (T : Team) (g : Grp) (o : MatOp), Fetchable s t k n T g o → o.party = some q →
    ∃ u, exec (.mmaOperandFetch t k n) s = .next u ∧ SameMemory s u ∧
      ∀ (j i : Nat) (g' : Grp) (m : MatOp), Tab.find T.groups j = some g' → g'.mops[i]? = some m → m.party = some q → m.bread = false → m.st = .issued →
        ∃ (h : Grp) (p : MatOp), u.grp t j = some h ∧ h.mops[i]? = some p ∧ p.bread = true ∧ p.bbytes = s.rowBytes o.bsrc o.blocs ∧ p.btags = s.rowTags o.bsrc o.blocs

/-- A signed byte of a row. -/
def s8 (b : BitVec 4096) (k : Nat) : Int := (b.extractLsb' (8 * k) 8).toInt

/-- R187, R192 and R193: the first operation not yet complete writes its tile to its accumulators in its lanes, in the 8-row blocks that no
save has found done before (R382), with its flags; an INT8 tile is the sum of its products modulo 2^32; in redundant mode a mismatch fails it instead. Where operand bytes were overwritten (log 5), the accumulators hold
free values, and nothing else changes. -/
def TilesAreWritten : Prop :=
  (∀ (s : State) (t k n : Nat) (T : Team) (g : Grp) (o : MatOp), s.team t = some T → Tab.find T.groups k = some g → g.mops[n]? = some o → o.st = .fetched →
    (∀ m, m ∈ g.mops.take n → m.st = .complete ∨ m.st = .discarded) →
    (s.stale.contains (t, k, o.batch, o.idx) = true → ∃ u h fl, exec (.mmaComplete t k n none) s = .next u ∧ u.grp t k = some h ∧ SameMemory s u ∧
      { h with v := [], mops := [] } = { g with v := [], mops := [] } ∧ h.mops = g.mops.set n { o with st := .complete, flags := fl } ∧
      ∀ r l, l < 96 → ¬ (o.lanes.getLsbD l = true ∧ o.acc ≤ r ∧ r < o.acc + 32) → h.vreg r l = g.vreg r l) ∧
    (s.stale.contains (t, k, o.batch, o.idx) = false → ∃ u h fl, exec (.mmaComplete t k n none) s = .next u ∧ u.grp t k = some h ∧ OnlyGroup t k s u ∧
      { h with v := [], mops := [] } = { g with v := [], mops := [] } ∧ h.mops = g.mops.set n { o with st := .complete, flags := fl } ∧
      (∀ r l, l < 96 → h.vreg r l = if o.lanes.getLsbD l = true ∧ o.acc ≤ r ∧ r < o.acc + 32 ∧ o.blocks.getLsbD ((r - o.acc) / 8) = false then (o.tile (r - o.acc) l (g.vreg r l)).1 else g.vreg r l) ∧
      (∀ r l, l < 96 → o.lanes.getLsbD l = true → o.acc ≤ r → r < o.acc + 32 → o.blocks.getLsbD ((r - o.acc) / 8) = false → (o.tile (r - o.acc) l (g.vreg r l)).2 &&& ~~~fl = 0)) ∧
    ∀ blk, o.red = true → ∃ u h, exec (.mmaComplete t k n (some blk)) s = .next u ∧ u.grp t k = some h ∧
      OnlyGroup t k s u ∧ h.v = g.v ∧ h.mops = g.mops.take n ++ (g.mops.drop n).map (fun m => { m with st := .discarded }) ∧
      h.defer = some { code := .matrixMismatch,
                       faux := BitVec.ofNat 32 (2 ^ 31 + k * 2 ^ 27 + blk.toNat * 2 ^ 24 + o.idx % 256 * 2 ^ 16 + o.batch.toNat), faddr := 0 }) ∧
  ∀ (o : MatOp) (i l : Nat) (c : Word), o.int = true → o.afmt = 4 → o.bfmt = 4 →
    (o.tile i l c).1 = BitVec.ofInt 32 ((List.range 512).foldl (fun t k => t + s8 (o.abytes.getD i 0) k * s8 (o.bbytes.getD l 0) k) (if o.z then 0 else c.toInt))

/-- R194: the oldest closed batch drains once its operations are complete or discarded: it leaves the list, its operations go, and
their flags enter GFLAGS; no byte changes. That no lane traps then, in a group whose NV is lane-precise too, is the model's reading (log
51). -/
def BatchesDrain : Prop :=
  ∀ (s : State) (t k : Nat) (g : Grp) (n : BitVec 16) (rest : List (BitVec 16)), s.grp t k = some g → g.closed = n :: rest →
    (∀ m, m ∈ g.mops → m.batch = n → m.st = .complete ∨ m.st = .discarded) →
    ∃ u h, exec (.batchDrain t k) s = .next u ∧ u.grp t k = some h ∧ SameMemory s u ∧
      h = { g with closed := rest, mops := g.mops.filter (fun m => decide (m.batch ≠ n)),
                   gflags := (g.mops.filter fun m => decide (m.batch = n)).foldl (fun f m => f ||| m.flags) g.gflags } ∧
      ∀ ln, (∀ m, m ∈ g.mops → m.batch = n → ln ∉ m.pins) → u.line ln = s.line ln

/-- R154 and R211: within a flush point, and then alone, a record leaves its core's hamper for its home, or for the spill log where that has
room; the records
of a line's lowest epoch are applied in the order of R48 once every team is past it. -/
def HampersFlush : Prop :=
  (∀ (s : State) (k c : Nat) (r : HRec), s.hamper[k]? = some r → r.loc = .core c →
    (∀ g, s.grp r.team r.gint = some g → g.run ≠ .ended → (∀ w, w ∈ g.waits → w.span ≠ 3 ∧ w.span ≠ 4) →
      ∀ b, exec (.hamperRecordHandoff k b) s = .next s) ∧
    ((∀ g, s.grp r.team r.gint = some g → g.run = .ended ∨ ∃ w, w ∈ g.waits ∧ (w.span = 3 ∨ w.span = 4)) →
    (s.takes r.pa = true → exec (.hamperRecordHandoff k false) s = .next { s with hamper := s.hamper.set k { r with loc := .home } }) ∧
    (s.takes r.pa = false → exec (.hamperRecordHandoff k false) s = .next s) ∧
    (s.spillRoom r.ctx ≠ 0 → ∃ u, exec (.hamperRecordHandoff k true) s = .next u ∧ u.hamper = s.hamper.set k { r with loc := .spill } ∧
      (u.ctx r.ctx).hlogProd = (s.ctx r.ctx).hlogProd + 1))) ∧
  ∀ (s : State) (ctx lid ln pa n : Nat) (l : Launch) (sorted : List HRec), s.launch ctx lid = some l →
    let recs := s.hamper.filter fun r => decide (r.ctx = ctx ∧ r.lid = lid ∧ r.pa / 128 = ln ∧ r.epoch = n)
    recs ≠ [] → (∀ r, r ∈ s.hamper → r.ctx = ctx → r.lid = lid → r.pa / 128 = ln → n ≤ r.epoch) → s.allPast l n = true →
    (∀ r c, r ∈ recs → r.loc ≠ .core c) → s.drainable ln = true → s.ownerOf ln = none → (∀ r, r ∈ recs → r.pa = pa) → pa % 128 + 4 ≤ 128 →
    (∀ r, r ∈ recs → s.tracks r.dirt = false) →
    sorted.Perm recs → sorted.Pairwise (fun a b => a.before b = true ∧ b.before a = false) →
    ∃ u, exec (.hamperEpochApply ctx lid ln) s = .next u ∧ u.hamper = s.hamper.filter (fun r => !recs.contains r) ∧
      leNat (u.cohRead pa 4) = sorted.foldl (fun v r => (atomApply r.k (BitVec.ofNat 64 v) r.value 0).toNat % 2 ^ 32) (leNat (s.cohRead pa 4)) ∧
      ∀ a, (a < pa ∨ pa + 4 ≤ a) → u.cohRead a 1 = s.cohRead a 1

/-- A held sequence of an entry that is next to be released, not in the tick of a join that the first release waits for (Table 13-9); the
homes of its range take requests. -/
def HeldNext (s : State) (die entry n : Nat) (e : McEntry) (q : McSeq) : Prop :=
  Tab.find s.mcast (256 * die + entry) = some e ∧ e.seq n = some q ∧ q.delivering = false ∧ n = e.released ∧ (e.deliv = true ∨ e.joinAt ≠ some s.gtime) ∧ ∀ a, a ∈ q.pas → s.takes a = true

/-- The sequence is released: it holds the range's bytes as they stand now, and every member is due a delivery. -/
def Released (s u : State) (die entry n : Nat) (e : McEntry) (q : McSeq) (timer : Bool) : Prop :=
  ∃ f p, Tab.find u.mcast (256 * die + entry) = some f ∧ f.seq n = some p ∧ f.released = e.released + 1 ∧ f.members = e.members ∧ f.deliv = true ∧
    p.delivering = true ∧ p.byTimer = timer ∧ p.due = e.members.map Prod.fst ∧ p.data = q.pas.flatMap (fun a => s.cohRead a 64) ∧ p.dataErr = false ∧
    p.tags = q.pas.map s.tagAt ∧ SameMemory s u ∧ u.teams = s.teams

/-- R174, R329 and R330: a sequence is released when every member that is not suspended has asked, or when its timer has run out before
that, which is counted. -/
def SequencesAreReleased : Prop :=
  ∀ (s : State) (die entry n : Nat) (e : McEntry) (q : McSeq), HeldNext s die entry n e q → (∀ a, a ∈ q.pas → s.poisonedAt a = false) →
    ((∀ r m, (r, m) ∈ e.members → m.susp = true ∨ r ∈ q.asked) →
      ∃ u, exec (.multicastRelease die entry n) s = .next u ∧ Released s u die entry n e q false ∧ u.counts = s.counts) ∧
    ((∃ r m, (r, m) ∈ e.members ∧ m.susp = false ∧ r ∉ q.asked) → exec (.multicastRelease die entry n) s = .next s) ∧
    ((∃ r m, (r, m) ∈ e.members ∧ m.susp = false ∧ r ∉ q.asked) → q.t0 + e.timer ≤ s.ctime e.ctx (96 * ((256 * die + entry) / 256)) → ∃ u, exec (.multicastTimerExpiry die entry n) s = .next u ∧ Released s u die entry n e q true ∧
      u.counts = s.counts ++ (if (s.ctx e.ctx).cntblk = 0 then [] else [{ ctx := e.ctx, off := 0x030, at_ := s.gtime }])) ∧
    ((∀ r m, (r, m) ∈ e.members → m.susp = true ∨ r ∈ q.asked) ∨ s.ctime e.ctx (96 * ((256 * die + entry) / 256)) < q.t0 + e.timer → exec (.multicastTimerExpiry die entry n) s = .next s)

/-- R174 and R175: a released sequence is delivered to a member that is due it and has released sequence n − depth: the bytes into its slot,
the slot's status, the credit of its barrier, and IFC2 of the group that asked. A stash that is no longer the member's takes nothing. -/
def SequencesAreDelivered : Prop :=
  ∀ (s : State) (die entry n rank : Nat) (e : McEntry) (q : McSeq) (m : McMember), Tab.find s.mcast (256 * die + entry) = some e → e.seq n = some q →
    Tab.find e.members rank = some m → q.delivering = true → rank ∈ q.due → m.susp = false → n < m.depth + m.nrel →
    ((∀ T, s.team m.team = some T → T.stashid ≠ m.stashid) → ∃ u, exec (.multicastDelivery die entry n rank) s = .next u ∧ u.teams = s.teams ∧ u.credits = s.credits ∧
      u.mem = s.mem ∧ ∃ f, Tab.find u.mcast (256 * die + entry) = some f ∧ f.members = e.members ∧ ∀ p, f.seq n = some p → rank ∉ p.due) ∧
    ∀ T, s.team m.team = some T → T.stashid = m.stashid → T.wins = [] → q.data.length = 64 * q.tags.length →
      let slot := n % m.depth
      let at_ := m.ring + slot * e.slot
      let stat := m.stat + 8 * slot
      let object : Option Nat := match m.bar, q.gens.find? fun g => decide (g.1 = rank) with
        | some off, some (_, g) => if Tab.find T.bars off = some g then some off else none
        | _, _ => none
      (stat + 8 ≤ at_ ∨ at_ + q.data.length ≤ stat) → (∀ o g, (o, g) ∈ T.bars → o + 16 ≤ at_ ∨ at_ + q.data.length ≤ o) →
      (∀ off, object = some off → (off + 16 ≤ at_ ∨ at_ + q.data.length ≤ off) ∧ (off + 16 ≤ stat ∨ stat + 8 ≤ off)) →
      ∃ u U, exec (.multicastDelivery die entry n rank) s = .next u ∧ u.team m.team = some U ∧ readBytes U.stash at_ q.data.length = q.data ∧
        readBytes U.stash stat 8 = leBytes 4 (1 + 2 * q.byTimer.toNat + 4 * q.dataErr.toNat + 8 * (q.mism.contains rank).toNat) ++ leBytes 4 n ∧
        (∀ i, (i < at_ ∨ at_ + q.data.length ≤ i) → (i < stat ∨ stat + 8 ≤ i) → (∀ off, object = some off → i < off ∨ off + 16 ≤ i) →
          Tab.get 0 U.stash i = Tab.get 0 T.stash i) ∧
        (∀ off aq an sq turn bq bn, object = some off → IsObj (objAt s m.team off) aq an sq turn bq bn →
          objAt u m.team off = checked aq an sq turn bq (min 0xFFFFFF (bn + q.len))) ∧
        u.mem = s.mem ∧ u.credits = s.credits ∧
        ∀ k g, s.grp m.team k = some g → (m.reqs.filter fun r => decide (r = (n, k))).length ≤ 1 →
          (u.grp m.team k).map Grp.ifc2 = some (if (n, k) ∈ m.reqs then g.ifc2 - 1 else g.ifc2)

end Sys2Proof.Claims

/-- R179 to R182: copies and fills write their units and their records. R154, R211 and R48: the hamper's flush points. -/
def Obligations.CopiesAndHampersGoOn : Prop := Claims.CopiesWriteUnits ∧ Claims.CopiesAreRecorded ∧ Claims.HampersFlush

/-- R187 and R190 to R196: operands are fetched, tiles written, batches drained. -/
def Obligations.MatrixOperationsComplete : Prop := Claims.OperandsAreFetched ∧ Claims.TilesAreWritten ∧ Claims.BatchesDrain

/-- R174, R175 and R329: sequences are released and delivered. -/
def Obligations.MulticastReleasesAndDelivers : Prop := Claims.SequencesAreReleased ∧ Claims.SequencesAreDelivered

namespace Sys2Proof.Claims

open Sys2Proof Sys2Proof.Machine

/-- A pair launch in flight with a unit's share of it. -/
def UnitOf (s : State) (pod ctx lid : Nat) (p : PairLaunch) (h : Share) : Prop :=
  s.pairLaunch ctx lid = some p ∧ p.share pod = some h ∧ podAllowed (fieldOf p.desc 108 4) pod = true

/-- The state in which the unit holds `h` and its launch what `f` makes of it. -/
def UnitNow (s u : State) (pod ctx lid : Nat) (p : PairLaunch) (h : Share) (f : PairLaunch → PairLaunch) : Prop :=
  (∃ q, u.pairLaunch ctx lid = some q ∧ q.share pod = some h ∧ { q with shares := [] } = { f p with shares := [] }) ∧
  { u with pairLaunches := [], placement := [] } = { s with pairLaunches := [], placement := [] }

/-- Nothing holds an access back: every home takes requests, no line is held, no context tracks dirty pages, and no write of the device waits. -/
def Unhindered (s : State) : Prop :=
  (∀ pa, s.takes pa = true) ∧ (∀ ln, s.lineHeld ln = false ∧ s.anyHeld ln = false) ∧ (∀ c, (s.ctx c).dbit = false) ∧ s.posted = []

/-- R299 and R333: a unit bins the finite positions of set B, each into its own cell, where its part of the scratch area has room for the
arrays; only the first to bin sets the launch's edge and coarsenings. -/
def UnitsBin : Prop :=
  ∀ (s : State) (pod ctx lid : Nat) (p : PairLaunch), s.pairLaunch ctx lid = some p → p.mode ≠ 2 → podAllowed (fieldOf p.desc 108 4) pod = true →
    (∀ h, p.share pod = some h → h.binned = false) → (∀ j, j < fieldOf p.desc 32 4 → ∃ q, s.position p true j = .ok q) → Unhindered s →
    ∃ u q h, exec (.pairBin pod ctx lid) s = .next u ∧ u.pairLaunch ctx lid = some q ∧ q.share pod = some h ∧ h.binned = true ∧ h.basket = [] ∧
      h.cur = none ∧ q.pairs = p.pairs ∧ q.tests = p.tests ∧ q.nextA = p.nextA ∧
      ((∃ g, g ∈ p.shares ∧ g.binned = true) → q.coarsen = p.coarsen ∧ q.edge = p.edge) ∧
      ((s.ctx ctx).pscrl.toNat / 24 < 4 * (cellCount h.cellsOn + 1) + 4 * fieldOf p.desc 32 4 → h.cells = []) ∧
      (∀ k js j, (k, js) ∈ h.cells → j ∈ js → ∃ r, j < fieldOf p.desc 32 4 ∧ s.position p true j = .ok r ∧ r.all finite = true ∧
        k = cellKey h.cellsOn (p.cellOf h.lo h.hi h.edge h.cellsOn (r.map fixed))) ∧
      (h.cells ≠ [] → ∀ j r, j < fieldOf p.desc 32 4 → s.position p true j = .ok r → r.all finite = true →
        j ∈ Tab.get [] h.cells (cellKey h.cellsOn (p.cellOf h.lo h.hi h.edge h.cellsOn (r.map fixed))))

/-- The unit's record and the basket with a pair of a geometry at its end; a full basket is due for a group (R302). -/
def withPair (h : Share) (now i j : Nat) (g : List Word) : Share :=
  { h with basketAt := if h.basket.isEmpty then now else h.basketAt, flush := h.flush || decide (96 ≤ h.basket.length + 1),
           basket := h.basket ++ [{ i := BitVec.ofNat 32 i, j := BitVec.ofNat 32 j, dx := g.getD 0 0, dy := g.getD 1 0, dz := g.getD 2 0, r2 := g.getD 3 0, cls := 0 }] }

/-- R297, R298, R300 and R302: a unit takes the next record of set A; it tests its next candidate, which counts, and one in range enters its
basket; a record without a further candidate is done with when the next is taken. The cases without an exclusion table, in a launch whose
records no write has changed while it was in flight (R304). -/
def UnitsTestCandidates : Prop :=
  ∀ (s : State) (pod ctx lid : Nat) (p : PairLaunch) (h : Share), UnitOf s pod ctx lid p h → p.mode ≠ 2 → h.flush = false → h.binned = true → s.racesOf p.ctx p.lid = [] →
    s.unitReady p (s.unitReads p h) = true →
    (∀ q, h.cur = none → p.nextA < fieldOf p.desc 8 4 → s.position p false p.nextA = .ok q → q.all finite = true →
      ∃ u, exec (.pairCandidateTest pod ctx lid) s = .next u ∧ UnitNow s u pod ctx lid p { h with cur := some p.nextA, index := 0 } fun p => { p with nextA := p.nextA + 1 }) ∧
    (h.cur = none → fieldOf p.desc 8 4 ≤ p.nextA →
      ∃ u, exec (.pairCandidateTest pod ctx lid) s = .next u ∧ UnitNow s u pod ctx lid p { h with flush := !h.basket.isEmpty } id) ∧
    ∀ i j a b, h.cur = some i → s.position p false i = .ok a → (s.candidates p h i a)[h.index]? = some j → s.position p true j = .ok b → fieldOf p.desc 80 8 = 0 →
      let g := p.geometry a b
      (p.inRange (g.getD 3 0) = true → ∃ u, exec (.pairCandidateTest pod ctx lid) s = .next u ∧
        UnitNow s u pod ctx lid p (withPair { h with index := h.index + 1 } s.gtime i j g) fun p => { p with tests := p.tests + 1, pairs := p.pairs + 1 }) ∧
      (p.inRange (g.getD 3 0) = false → ∃ u, exec (.pairCandidateTest pod ctx lid) s = .next u ∧
        UnitNow s u pod ctx lid p { h with index := h.index + 1 } fun p => { p with tests := p.tests + 1 })

/-- R302 and R303: a basket whose first pair entered 256 fabric cycles ago is flushed; a flushed basket's group starts on a core of its unit's pod,
one lane to a pair, with its start values. -/
def BasketsBecomeGroups : Prop :=
  (∀ (s : State) (pod ctx lid : Nat) (p : PairLaunch) (h : Share), s.pairLaunch ctx lid = some p → p.share pod = some h → h.basket ≠ [] →
    (256 * 10 ≤ (s.gtime - h.basketAt) * 18 → ∃ u, exec (.basketTimerFlush pod ctx lid) s = .next u ∧ UnitNow s u pod ctx lid p { h with flush := true } id) ∧
    ((s.gtime - h.basketAt) * 18 < 256 * 10 → exec (.basketTimerFlush pod ctx lid) s = .next s)) ∧
  ∀ (s : State) (pod ctx lid core : Nat) (p : PairLaunch) (h : Share), s.pairLaunch ctx lid = some p → p.share pod = some h → h.flush = true → h.basket ≠ [] →
    h.basket.length ≤ 96 → core / 16 = pod → s.fits core ctx p.kobj 1 = true → p.ctx = ctx → p.lid = lid →
    ∃ u q T g, exec (.pairGroupStart pod ctx lid core) s = .next u ∧ u.pairLaunch ctx lid = some q ∧ q.share pod = some { h with basket := [], flush := false } ∧
      q.groups = p.groups + 1 ∧ q.live = p.live + 1 ∧ u.nextUid = s.nextUid + 1 ∧ u.team s.nextUid = some T ∧ T.kind = .pair ∧ T.ctx = ctx ∧ T.lid = lid ∧
      T.core = core ∧ T.groups = [(0, g)] ∧ g.exited = ~~~BitVec.ofNat 96 (2 ^ h.basket.length - 1) ∧ g.id.gkind = 2 ∧ g.id.param = p.daddr ∧
      (∀ l e, h.basket[l]? = some e → g.vreg 0 l = e.i ∧ g.vreg 1 l = e.j ∧ g.vreg 2 l = e.dx ∧ g.vreg 3 l = e.dy ∧ g.vreg 4 l = e.dz ∧ g.vreg 5 l = e.r2 ∧
        g.vreg 6 l = e.cls.setWidth 32) ∧
      (∀ k, k < 24 → quadBits (BitVec.ofNat 96 (2 ^ h.basket.length - 1)) k ≠ 0 →
        Tab.get {} g.quads k = { path := some { pc := BitVec.ofNat 64 (fieldOf p.desc 88 8), mask := quadBits (BitVec.ofNat 96 (2 ^ h.basket.length - 1)) k } }) ∧
      g.sreg 0 = BitVec.ofNat 32 (fieldOf p.desc 0 4) ∧ g.sreg 4 = BitVec.ofNat 32 (fieldOf p.desc 12 4) ∧ g.sreg 5 = BitVec.ofNat 32 (fieldOf p.desc 36 4) ∧
      g.sreg 6 = BitVec.ofNat 32 (fieldOf p.desc 50 1) ∧ g.sreg 7 = BitVec.ofNat 32 lid ∧ u.mem = s.mem

/-- R200 and Table 07-4: an addition is performed at its accumulator's home: the sum grows by the contribution modulo 2^96 while it stays within
range, the count by one up to its limit, and the marks stay. The case of a launch whose records no write has changed (R304). -/
def AdditionsArePerformed : Prop :=
  ∀ (s : State) (k : Nat) (a : PairAdd) (t : Tr) (c : Int), s.padds[k]? = some a → a.q = some c → s.checkLocal a.core a.ctx .rw a.va.toNat 16 = .ok () →
    s.racesOf a.ctx a.lid = [] → a.dirt = none → s.vaTables a.core a.ctx .rw a.va.toNat 16 = true →
    s.trans a.core a.ctx .rw a.va.toNat = .ok t → s.takes t.pa = true → s.lineHeld (t.pa / 128) = false → s.anyHeld (t.pa / 128) = false → s.tracks (t.dirt a.ctx a.core) = false →
    s.ownerOf (t.pa / 128) = none → s.poisonedAt t.pa = false → t.pa % 16 = 0 →
    let v := leNat (s.cohRead t.pa 16)
    let x : Int := (BitVec.ofNat 96 v).toInt
    (x + c).natAbs < 2 ^ 95 →
    ∃ u, exec (.pairAdd k) s = .next u ∧ u.padds = s.padds.eraseIdx k ∧ u.teams = s.teams ∧
      leNat (u.cohRead t.pa 16) = ((x + c) % 2 ^ 96).toNat + min (v / 2 ^ 96 % 2 ^ 16 + 1) 0xFFFF * 2 ^ 96 + v / 2 ^ 112 % 4 * 2 ^ 112 ∧
      (∀ y, (y < t.pa ∨ t.pa + 16 ≤ y) → u.cohRead y 1 = s.cohRead y 1) ∧
      ∀ o p, Tab.find s.ops a.mop = some o → o.parts[a.part]? = some p →
        Tab.find u.ops a.mop = some (o.setPart a.part { p with
          st := .done (max (s.homeNow (t.pa / 128)) (s.line (t.pa / 128)).horizon + (if s.homeDie (t.pa / 128 * 128) = dieOf a.core then 0 else 2)) })

/-- R310: a pair launch whose matching is over, with no group, addition or count left, leaves the flight with its record written, once the
entries of its fault ring are complete. The case without FINAL, with a ring of its own (R309), and with records that no write has changed
(R304). -/
def PairLaunchesComplete : Prop :=
  ∀ (s : State) (ctx lid : Nat) (p : PairLaunch), s.pairLaunch ctx lid = some p → p.ctx = ctx → p.lid = lid → p.matched = true → p.live = 0 → p.final = false →
    (∀ a, a ∈ s.padds → ¬ (a.ctx = ctx ∧ a.lid = lid)) → p.wct ≤ s.gtime → (∀ a, a ∈ s.counts → a.ctx ≠ ctx) → bitOf (fieldOf p.desc 49 1) 2 = false →
    s.racesOf ctx lid = [] → p.shared = [] → s.endReady p = true →
    let s1 := { s with pairLaunches := s.pairLaunches.map fun q => if q.ctx = ctx ∧ q.lid = lid then { q with final := true } else q }
    (s.srcIdle (.pairs ctx lid) = false → exec (.pairLaunchComplete ctx lid) s = .next s1) ∧
    ∀ v, s.srcIdle (.pairs ctx lid) = true →
      s1.writeLocal ioCore ctx (fieldOf p.desc 144 8 + 64 * ((lid - 1) % (fieldOf p.desc 152 4 / 64)))
        (leBytes 4 lid ++ leBytes 4 (if p.faults = 0 ∧ p.lost = 0 ∧ p.killed = 0 then 1 else 3) ++ leBytes 8 p.pairs ++ leBytes 8 p.tests ++ leBytes 4 p.groups ++
          leBytes 4 p.faults ++ leBytes 4 p.lost ++ leBytes 4 p.killed ++ leBytes 4 p.coarsen ++ leBytes 4 p.edge.toNat ++
          leBytes 4 (if p.mode = 2 then 0 else p.nanpos.length) ++ leBytes 4 p.excluded ++ leBytes 4 s.gtime ++ leBytes 4 lid) = .ok v →
      exec (.pairLaunchComplete ctx lid) s =
        .next { v with
          pairLaunches := v.pairLaunches.filter fun q => !(decide (q.ctx = ctx) && decide (q.lid = lid))
          raced := v.raced.filter fun e => !(decide (e.1 = ctx) && decide (e.2.1 = lid)) }

/-- The answer of the unit: the words that it writes from a scalar on, which is owed no more. -/
def Answered (s u : State) (t k sd : Nat) (ws : List Word) : Prop :=
  ∀ g, s.grp t k = some g → ∃ h, u.grp t k = some h ∧ h.owed = g.owed.filter (fun e => decide (e.1 ≠ sd)) ∧ { h with s := [], owed := [] } = { g with s := [], owed := [] } ∧
    ∀ n, h.sreg n = if sd ≤ n ∧ n < sd + ws.length then ws.getD (n - sd) 0 &&& ~~~exitedWord g.exited n else g.sreg n

/-- R206, R207 and R248: a request that no earlier one of its group precedes is decided: a better candidate takes the slot, with the next serial,
and is on its way to every pod; a worse one changes nothing; a read answers key and payload. R249: a pod's shadow takes its oldest broadcast. -/
def IncumbentsAreDecided : Prop :=
  (∀ (s : State) (k t gi : Nat) (r : IncReq), s.increqs[k]? = some r → r.who = .grp t gi → (∀ q, q ∈ s.increqs.take k → q.who ≠ r.who) →
    let x := Tab.get {} s.slots r.slot
    let better := (x.sense = true ∧ x.key.toNat < r.key.toNat) ∨ (x.sense = false ∧ r.key.toNat < x.key.toNat) ∨ (r.key = x.key ∧ r.payload.toNat < x.payload.toNat)
    (r.read = true → ∃ u, exec (.incumbentDecision k) s = .next u ∧ u.increqs = s.increqs.eraseIdx k ∧ u.slots = s.slots ∧ u.broadcasts = s.broadcasts ∧
      Answered s u t gi r.sd [x.key.extractLsb' 0 32, x.key.extractLsb' 32 32, x.payload.extractLsb' 0 32, x.payload.extractLsb' 32 32]) ∧
    (r.read = false → better → ∃ u, exec (.incumbentDecision k) s = .next u ∧ u.increqs = s.increqs.eraseIdx k ∧
      (∀ n, Tab.get {} u.slots n = if n = r.slot then { x with key := r.key, payload := r.payload, serial := x.serial + 1 } else Tab.get {} s.slots n) ∧
      (∀ p, p < 24 → Tab.get [] u.broadcasts p = Tab.get [] s.broadcasts p ++
        [(r.slot, { key := r.key, sense := x.sense, owner := x.owner, owned := x.owned, serial := x.serial + 1 }, s.gtime)]) ∧
      Answered s u t gi r.sd [BitVec.ofNat 32 (2 * (x.serial + 1).toNat + 1)]) ∧
    (r.read = false → ¬ better → ∃ u, exec (.incumbentDecision k) s = .next u ∧ u.increqs = s.increqs.eraseIdx k ∧ u.slots = s.slots ∧
      u.broadcasts = s.broadcasts ∧ Answered s u t gi r.sd [BitVec.ofNat 32 (2 * x.serial.toNat)])) ∧
  ∀ (s : State) (pod slot m : Nat) (h : Shadow) (before after : List (Nat × Shadow × Nat)), pod < 24 → slot < 8 → Tab.get [] s.broadcasts pod = before ++ (slot, h, m) :: after →
    (∀ b, b ∈ before → b.1 ≠ slot) →
    ∃ u, exec (.shadowUpdate pod slot) s = .next u ∧ Tab.get {} u.shadows (8 * pod + slot) = h ∧ (∀ i, i ≠ 8 * pod + slot → Tab.get {} u.shadows i = Tab.get {} s.shadows i) ∧
      Tab.get [] u.broadcasts pod = before ++ after ∧ { u with shadows := [], broadcasts := [] } = { s with shadows := [], broadcasts := [] }

/-- The task that a pod's heap offers: of the slot whose turn it is, the best bound, then the first to enter (R289). -/
def Offered (s : State) (pod : Nat) (k : Task) : Prop :=
  let heap := Tab.get [] s.heaps pod
  let max := (Tab.get {} s.shadows (8 * pod + k.slot)).sense
  k ∈ heap ∧ (∃ i, i < 8 ∧ k.slot = (Tab.get 7 s.heapTurn pod + 1 + i) % 8 ∧ ∀ j, j < i → ∀ q, q ∈ heap → q.slot ≠ (Tab.get 7 s.heapTurn pod + 1 + j) % 8) ∧
  ∀ q, q ∈ heap → q.slot = k.slot → q ≠ k → (q.bound = k.bound ∧ k.order < q.order) ∨ (q.bound ≠ k.bound ∧ worse max q.bound k.bound = true)

/-- R204, R205, R289 and R291: the task that its pod's heap offers is dropped and counted where it is strictly worse than the shadow, else starts on
a core with room of its pod; R291: a sweep drops every such task of its slot; R290: spilled records come back in order while there is room and their writes are done. -/
def TasksAreDispatchedAndSwept : Prop :=
  (∀ (s : State) (pod core : Nat) (k : Task), Offered s pod k →
    let h := Tab.get {} s.shadows (8 * pod + k.slot)
    (worse h.sense k.bound h.key = true → ∃ u, exec (.taskDispatch pod core) s = .next u ∧ Tab.get [] u.heaps pod = (Tab.get [] s.heaps pod).erase k ∧ u.teams = s.teams ∧
      u.counts = s.counts ++ (if (s.ctx k.ctx).cntblk = 0 then [] else [{ ctx := k.ctx, off := 0x018, at_ := s.gtime }]) ∧
      (u.launch k.ctx k.lid).map Launch.tasks = (s.launch k.ctx k.lid).map fun l => l.tasks - 1) ∧
    (worse h.sense k.bound h.key = false → h.owned = true → h.owner.toNat = k.ctx → core / 16 = pod → s.fits core k.ctx { k.kobj with stash := 0 } 1 = true →
      ∃ u T g, exec (.taskDispatch pod core) s = .next u ∧ Tab.get [] u.heaps pod = (Tab.get [] s.heaps pod).erase k ∧ u.team s.nextUid = some T ∧ T.kind = .task ∧
        T.ctx = k.ctx ∧ T.lid = k.lid ∧ T.core = core ∧ T.kobj.stash = 0 ∧ T.groups = [(0, g)] ∧ g.exited = 0 ∧ g.tbound = k.bound ∧ g.tslot = BitVec.ofNat 3 k.slot ∧
        (∀ i, i < 10 → g.sreg i = k.payload.getD i 0) ∧ (∀ q, q < 24 → Tab.get {} g.quads q = { path := some { pc := k.entry, mask := 15 } }) ∧
        g.id.gkind = 1 ∧ g.id.gint = 0 ∧ g.id.teamn = k.id.teamn ∧ u.mem = s.mem)) ∧
  (∀ (s : State) (pod slot : Nat), pod < 24 →
    let h := Tab.get {} s.shadows (8 * pod + slot)
    let keeps := fun (k : Task) => !(decide (k.slot = slot) && worse h.sense k.bound h.key)
    ∃ u, exec (.taskSweep pod slot) s = .next u ∧ Tab.get [] u.heaps pod = (Tab.get [] s.heaps pod).filter keeps ∧
      (∀ p, p ≠ pod → Tab.get [] u.heaps p = Tab.get [] s.heaps p) ∧ (∀ c k, k ∈ Tab.get [] u.spilled (24 * c + pod) → keeps k = true) ∧
      (∀ c k, k ∈ Tab.get [] s.spilled (24 * c + pod) → keeps k = true → k ∈ Tab.get [] u.spilled (24 * c + pod)) ∧
      u.teams = s.teams ∧ u.mem = s.mem) ∧
  ∀ (s : State) (pod ctx : Nat), (Tab.get [] s.heaps pod).length < 3072 →
    ∃ u l, exec (.taskSpillRefill pod ctx) s = .next u ∧ Tab.get [] u.heaps pod = Tab.get [] s.heaps pod ++ l ∧
      Tab.get [] s.spilled (24 * ctx + pod) = (Tab.get [] s.spilled (24 * ctx + pod)).take l.length ++ Tab.get [] u.spilled (24 * ctx + pod) ∧
      (Tab.get [] u.spilled (24 * ctx + pod) = [] ∨ 4096 ≤ (Tab.get [] u.heaps pod).length ∨
        ∃ k rest, Tab.get [] u.spilled (24 * ctx + pod) = k :: rest ∧ s.spillSettled ctx ((s.ctx ctx).spillAddr pod k.order) = false) ∧ u.mem = s.mem

/-- R286 and R287: an open grid that is neither full, nor has a child of a team that has ended, nor had its first child 4,096 ticks ago stays; one
whose first child came then is flushed where its table can be written: a launch of its children, one team to a child, is in flight, and those
that came in this tick form a new grid. -/
def GridsAreFlushed : Prop :=
  ∀ (s v : State) (pod k pos : Nat) (g : OpenGrid) (y : Ctx), (Tab.get [] s.grids pod)[k]? = some g → g.children.length < 96 →
    (s.gtime < g.first + 4096 → (∀ c, c ∈ g.children → s.teamLives c.team = true) → exec (.childGridTimerFlush pod k) s = .next s) ∧
    (let out := g.children.filter fun c => decide (c.tick ≠ s.gtime)
    let stay := g.children.filter fun c => decide (c.tick = s.gtime)
    g.first + 4096 ≤ s.gtime → out ≠ [] → (s.ctx g.ctx).childTake 768 = some (pos, y) → s.vaTables ioCore g.ctx .w ((s.ctx g.ctx).childAddr pos) 768 = true →
      s.writeVA ioCore g.ctx ((s.ctx g.ctx).childAddr pos)
        ((out.flatMap fun c => leBytes 8 ((s.ctx g.ctx).childAddr c.pos)) ++ zeros (768 - 8 * out.length)) (.child g.ctx) = .ok v →
      ∃ u l, exec (.childGridTimerFlush pod k) s = .next u ∧ u.launches = v.launches ++ [l] ∧
        Tab.get [] u.grids pod = (Tab.get [] s.grids pod).eraseIdx k ++ (if stay = [] then [] else [{ g with children := stay, first := s.gtime }]) ∧
        u.mem = v.mem ∧ l.ctx = g.ctx ∧ l.lid = 2 ^ 31 + (s.ctx g.ctx).childSerial % 2 ^ 31 ∧ l.kobj = g.kobj ∧ l.gx = out.length ∧ l.gy = 1 ∧ l.gz = 1 ∧
        l.blocks = out.map Child.pos ∧ l.table = BitVec.ofNat 64 ((s.ctx g.ctx).childAddr pos))

/-- The first reason of R277 for which a record whose kernel object is good is refused, 0 for a record that is entered. -/
def refusal (s : State) (c : Nat) (o : KObj) (b : List Byte) : Nat :=
  let total := dim (fieldOf b 16 4) * dim (fieldOf b 20 4) * dim (fieldOf b 24 4)
  if 2 ^ 32 < total ∨ total % (o.cx * o.cy) ≠ 0 then 3
  else if fieldOf b 8 8 % 64 ≠ 0 ∨ fieldOf b 48 8 % 16 ≠ 0 ∨ fieldOf b 60 4 ≠ 0 then 4
  else if fieldOf b 28 4 = 0 ∨ 2 ^ 31 ≤ fieldOf b 28 4 ∨ s.launch c (fieldOf b 28 4) ≠ none then 5
  else if fieldOf b 56 3 ≠ 0 && (List.range 24).all fun p => !bitOf (fieldOf b 56 3) p || s.failed.getLsbD p then 6
  else 0

/-- R274, R275, R277 and R392: TAIL is read again, and a bad one stops its queue; a record is taken from a queue of the highest PRIO among those that
can be taken from, and its launch enters the flight, or is refused for its reason and reported; one that cannot be read, poison included, is reported
and skipped. -/
def QueuesAreServed : Prop :=
  (∀ (s : State) (q : Nat) (b : List Byte), let d := Tab.get {} s.queues q
    d.enable = true → d.stopped = false → s.queueIdle q = true → s.vaReady ioCore d.ctx .r d.taila.toNat 8 = true → s.readVA ioCore d.ctx d.taila.toNat 8 = .ok b →
    (d.tail ≤ leNat b → leNat b - d.head ≤ 2 ^ d.loge → exec (.queueTailObserve q) s = .next { s with queues := Tab.set {} s.queues q { d with tail := leNat b, taken := none } }) ∧
    (leNat b < d.tail ∨ 2 ^ d.loge < leNat b - d.head → ∃ u, exec (.queueTailObserve q) s = .next u ∧ Tab.get {} u.queues q = { d with stopped := true, taken := none } ∧
      (s.ring.set = false → s.ring.kept.length < 64 → u.ring.kept = s.ring.kept ++ [({ source := 4, reason := q, ctx := d.ctx } : HFault).bytes s.gtime]))) ∧
  (∀ (s u : State) (q : Nat), exec (.queueTake q) s = .next u → u ≠ s →
    ∃ d, (q, d) ∈ s.queues ∧ s.takeable d = true ∧ s.queueIdle q = true ∧
      ∀ r e, (r, e) ∈ s.queues → s.takeable e = true → s.queueIdle r = true → e.prio ≤ d.prio) ∧
  ∀ (s : State) (q : Nat) (b : List Byte), let d := Tab.get {} s.queues q
    s.takeFrom = some q → s.takeReady d = true →
    let told := fun (u : State) (e : HFault) => s.ring.set = false → s.ring.kept.length < 64 → ∃ l, u.ring.kept = s.ring.kept ++ e.bytes s.gtime :: l
    (∀ f a, s.readClean ioCore d.ctx (d.ring.toNat + 64 * (d.head % 2 ^ d.loge)) 64 = .error (f, a) →
      ∃ u, exec (.queueTake q) s = .next u ∧ (Tab.get {} u.queues q).head = d.head + 1 ∧ u.lastQueue = q ∧ u.launches = s.launches ∧
        told u { source := 4, fcode := f.code, reason := q, ctx := d.ctx, addr := a }) ∧
    (s.readClean ioCore d.ctx (d.ring.toNat + 64 * (d.head % 2 ^ d.loge)) 64 = .ok b →
    ∃ u, exec (.queueTake q) s = .next u ∧ (Tab.get {} u.queues q).head = d.head + 1 ∧ u.lastQueue = q ∧
      (∀ r, s.readKObj d.ctx (fieldOf b 0 8) = .error r → u.launches = s.launches ∧ told u { source := 3, reason := r, ctx := d.ctx, lid := fieldOf b 28 4 }) ∧
      ∀ o, s.readKObj d.ctx (fieldOf b 0 8) = .ok o →
        (refusal s d.ctx o b ≠ 0 → u.launches = s.launches ∧ told u { source := 3, reason := refusal s d.ctx o b, ctx := d.ctx, lid := fieldOf b 28 4 }) ∧
        (refusal s d.ctx o b = 0 → ∃ l, u.launches = s.launches ++ [l] ∧ l.ctx = d.ctx ∧ l.lid = fieldOf b 28 4 ∧ l.kobj = o ∧ l.param = BitVec.ofNat 64 (fieldOf b 8 8) ∧
          l.gx = fieldOf b 16 4 ∧ l.gy = fieldOf b 20 4 ∧ l.gz = fieldOf b 24 4 ∧ l.done = BitVec.ofNat 64 (fieldOf b 48 8) ∧ l.pods = fieldOf b 56 3 ∧ l.nextTeam = 0 ∧
          l.ended = 0 ∧ l.waits = (s.launches.filter fun m => decide (m.ctx = d.ctx)).filterMap fun m =>
            if [fieldOf b 32 4, fieldOf b 36 4, fieldOf b 40 4, fieldOf b 44 4].contains m.lid then some m.order else none))

/-- R279, R283, R37 and R221: the next team or cluster of a launch whose predecessors allow it becomes resident whole, on cores with room that form
its rectangle in one allowed pod, each team with its identity and start values; it waits while a launch of its context with a higher PRIO, or of the same
and taken earlier, finds room. -/
def TeamsAreDispatched : Prop :=
  ∀ (s : State) (ctx lid : Nat) (cores : List Nat) (l : Launch), s.launch ctx lid = some l → l.ctx = ctx → l.lid = lid → l.nextTeam < l.total →
    (∀ p, p ∈ l.waits → ∀ m, m ∈ s.launches → m.order = p → m.total ≤ m.succs + m.ended) → rectangle l.kobj.cx l.kobj.cy cores = true →
    (∀ c, c ∈ cores → podAllowed l.pods (c / 16) = true) → l.goneTeams = [] → l.blocks = [] →
    (∀ r, r < l.kobj.cx * l.kobj.cy → s.fits (cores.getD r 0) ctx l.kobj l.kobj.teamg = true) → (l.table = 0 ∨ s.srcIdle (.child ctx) = true) →
    (s.offered l = false → exec (.teamDispatch ctx lid cores) s = .next s) ∧ (s.offered l = true →
    ∃ u m, exec (.teamDispatch ctx lid cores) s = .next u ∧ u.launch ctx lid = some m ∧ m.nextTeam = l.nextTeam + l.kobj.cx * l.kobj.cy ∧ u.mem = s.mem ∧
      ∀ r, r < l.kobj.cx * l.kobj.cy → ∃ T, u.team (s.nextUid + r) = some T ∧ T.kind = .team ∧ T.ctx = ctx ∧ T.lid = lid ∧ T.core = cores.getD r 0 ∧ T.rank = r ∧
        T.kobj = l.kobj ∧ ∀ k, k < l.kobj.teamg → ∃ g, Tab.find T.groups k = some g ∧ g.exited = 0 ∧ g.run = .running ∧
          (∀ q, q < 24 → Tab.get {} g.quads q = { path := some { pc := l.kobj.entry, mask := 15 } }) ∧ g.sreg 2 = l.param.extractLsb' 0 32 ∧ g.sreg 3 = l.param.extractLsb' 32 32 ∧
          g.id.teamn = BitVec.ofNat 32 (l.nextTeam + r) ∧ g.id.gint = BitVec.ofNat 4 k ∧ g.id.stashid = T.stashid ∧
          g.id.teamx = BitVec.ofNat 32 ((l.nextTeam + r) % dim l.gx) ∧ g.id.clusx = BitVec.ofNat 2 (r % l.kobj.cx) ∧ g.id.clusy = BitVec.ofNat 2 (r / l.kobj.cx) ∧ g.v = [] ∧
          g.p = [])

/-- R388: a saved team alone in its cluster comes back on a core with room that its launch, or its pair launch, allows (R30, R31): its registers, paths and stash are those of its record, which is freed. -/
def SavedTeamsComeBack : Prop :=
  ∀ (s : State) (k c core : Nat) (w : Saved) (b : List Byte) (T : Team) (h : TeamHead), s.savedList[k]? = some (c, w) →
    (∀ y, y ∈ (s.ctx c).saved → y.uid = w.uid ∨ y.team.mates w.team = true → y = w) → (s.ctx c).saved.Nodup → w ∈ (s.ctx c).saved → w.team.rank = 0 →
    (w.team.kind = .team → w.team.kobj.cx = 1 ∧ w.team.kobj.cy = 1) → podAllowed (s.podsOf w.team) (core / 16) = true → s.recordReady c core w = true →
    s.fits core c w.team.kobj w.team.groups.length = true → s.readVA ioCore c ((s.ctx c).saveb.toNat + w.pos) w.len = .ok b → w.team.fromRecord b = some T →
    readTeamHead b = some h → h.dirty = [] → s.mcast = [] → (∀ j g, (j, g) ∈ T.groups → g.mops = []) →
    (s.ctx c).unload = none → ∀ (v : State), (s.modCtx c fun x => { x with saved := x.saved.erase w }).writeVA ioCore c ((s.ctx c).saveb.toNat + w.pos) [0, 0] (.save c) = .ok v →
    ∃ u U, exec (.teamRestore k core) s = .next u ∧ u.mem = v.mem ∧ u.team w.uid = some U ∧ U.core = core ∧ U.ctx = T.ctx ∧ U.lid = T.lid ∧ U.kind = T.kind ∧ U.stash = T.stash ∧
      w ∉ (u.ctx c).saved ∧ ∀ j g, Tab.find T.groups j = some g → ∃ y, Tab.find U.groups j = some y ∧ y.v = g.v ∧ y.s = g.s ∧ y.p = g.p ∧ y.quads = g.quads ∧ y.run = g.run ∧
        y.exited = g.exited ∧ y.nmode = g.nmode

/-- R280 and R346: a launch waits while a team, a task, a write or a count of its context is left; one whose teams and tasks have ended, with no write,
record or count left, leaves the flight with its completion record; R400: a deterministic one keeps its manifest, of which the context holds the last
sixteen. -/
def LaunchesComplete : Prop :=
  (∀ (s : State) (ctx lid : Nat) (l : Launch), s.launch ctx lid = some l → (l.ended < l.total ∨ l.tasks ≠ 0 ∨ s.gtime < l.wct ∨ ∃ a, a ∈ s.counts ∧ a.ctx = ctx) →
    exec (.launchComplete ctx lid) s = .next s) ∧
  ∀ (s : State) (ctx lid : Nat) (l : Launch), s.launch ctx lid = some l → l.ctx = ctx → l.lid = lid → l.total ≤ l.ended → l.tasks = 0 → l.wct ≤ s.gtime → l.hwct ≤ s.gtime →
    (∀ a, a ∈ s.counts → a.ctx ≠ ctx) → (∀ r, r ∈ s.hamper → ¬ (r.ctx = ctx ∧ r.lid = lid)) → l.table = 0 →
    let s' : State := { s with launches := s.launches.filter fun m => decide (m.order ≠ l.order) }
    (l.kobj.mode ≠ 2 → l.done = 0 → exec (.launchComplete ctx lid) s = .next s') ∧
    (∀ v, l.kobj.mode ≠ 2 → l.done ≠ 0 → l.done.toNat % 16 = 0 → s.vaTables ioCore ctx .w l.done.toNat 16 = true →
      s'.writeVA ioCore ctx l.done.toNat (leBytes 4 lid ++ leBytes 1 0 ++ zeros 3 ++ leBytes 4 s.gtime ++ leBytes 4 (if l.killed then 3 else 1)) (.done ctx) = .ok v →
      ∃ u, exec (.launchComplete ctx lid) s = .next u ∧ u = v.modCtx ctx fun x => { x with completions := x.completions + 1 }) ∧
    (l.kobj.mode = 2 → l.done = 0 → ∃ u m, exec (.launchComplete ctx lid) s = .next u ∧ (u.ctx ctx).manifests = (m :: (s.ctx ctx).manifests).take 16 ∧ m.lid = lid ∧
      m.bytes = s.manifest l ∧ u.launches = s'.launches)

end Sys2Proof.Claims

/-- R200, R297 to R303, R307 and R310: units bin and test, baskets become groups, additions are performed, pair launches complete. -/
def Obligations.PairLaunchesRunToTheirEnd : Prop :=
  Claims.UnitsBin ∧ Claims.UnitsTestCandidates ∧ Claims.BasketsBecomeGroups ∧ Claims.AdditionsArePerformed ∧ Claims.PairLaunchesComplete

/-- R204 to R207, R248, R249 and R289 to R291: incumbents are decided and broadcast; tasks are dispatched, swept and taken back. -/
def Obligations.SearchUnitsDecideAndDispatch : Prop := Claims.IncumbentsAreDecided ∧ Claims.TasksAreDispatchedAndSwept

/-- R274 to R280, R283, R286 to R288, R388 and R392: queues are served, grids flushed, teams dispatched and restored, launches completed. -/
def Obligations.LaunchesRunToTheirEnd : Prop :=
  Claims.GridsAreFlushed ∧ Claims.QueuesAreServed ∧ Claims.TeamsAreDispatched ∧ Claims.SavedTeamsComeBack ∧ Claims.LaunchesComplete

/-! ## Events: the host, the peers, management, bring-up -/

namespace Sys2Proof.Claims

open Sys2Proof Sys2Proof.Machine

/-- A range that one line holds, open to writes from outside, owned by no window and without drained records. -/
def OpenLine (s : State) (pa n : Nat) : Prop :=
  0 < n ∧ pa % 128 + n ≤ 128 ∧ pa + n ≤ Config.localBytes ∧ s.openHome (pa / 128 * 128) = true ∧ s.ownerOf (pa / 128) = none ∧
  ∀ r, r ∈ s.hamper → r.loc = .home → r.pa / 128 ≠ pa / 128

/-- When a write from outside is complete, on the time source: as at the home, and 2 ticks later where that is another die than the I/O die, number 4
(R259, R363, R365). -/
def outsideWct (s : State) (ln : Nat) : Nat := max (s.homeNow ln) (s.line ln).horizon + (if s.homeDie (ln * 128) = 4 then 0 else 2)

/-- The bytes stand at the home, no other byte has changed, and an acknowledgement waits for the write-completion time. -/
def WroteOutside (s u : State) (peer : Option Nat) (pa : Nat) (b : List Byte) : Prop :=
  (∀ x, u.cohRead x 1 = if pa ≤ x ∧ x < pa + b.length then [b.getD (x - pa) 0] else s.cohRead x 1) ∧
  u.acks = s.acks ++ [{ peer := peer, wct := outsideWct s (pa / 128) }] ∧ u.teams = s.teams

/-- R254, R269 and R365: the host reads local memory at its homes, marked where a sector is poisoned, and writes it in order, line by line, its acknowledgement waiting for the leases;
through the tag aperture it reads tags, marked alike; R255 and R392: a snoop takes a host line away from its proxy home, and from the queues whose TAIL
lies there, as of now. -/
def HostReachesMemory : Prop :=
  (∀ (s : State) (off len : Nat), 0 < len → off + len ≤ Config.localBytes → s.takesRange off len = true → s.poisonIn off len = [] →
    exec (.hostCxlMemRead off len) s = .next { s with replies := s.replies ++ [{ data := readBytes s.mem off len }] }) ∧
  (∀ (s : State) (off len : Nat), 0 < len → off + len ≤ Config.localBytes → s.takesRange off len = true → s.poisonIn off len ≠ [] →
    ∃ u r, exec (.hostCxlMemRead off len) s = .next u ∧ u.replies = s.replies ++ [r] ∧ r.poisoned = true ∧ r.peer = none ∧
      (s.ring.set = false → s.ring.kept.length + (s.poisonIn off len).length ≤ 64 → r.data = readBytes s.mem off len ∧ u.ring.kept = s.ring.kept ++
        (s.poisonIn off len).map fun x => ({ source := 8, fcode := FCode.uncorrectable.code, addr := x * 64 } : HFault).bytes s.gtime)) ∧
  (∀ (s : State) (off : Nat) (b : List Byte), OpenLine s off b.length →
    ∃ u, exec (.hostCxlMemWrite off b) s = .next u ∧ WroteOutside s u none off b ∧ u.tags = s.tags) ∧
  (∀ (s : State) (off len : Nat), 0 < len → off + len ≤ 12000000000 →
    let bad := s.poisonIn (off / 2 * 64) (((off + len - 1) / 2 - off / 2 + 1) * 64)
    s.takesRange (off / 2 * 64) (((off + len - 1) / 2 - off / 2 + 1) * 64) = true →
    ∃ u r, exec (.hostTagApertureRead off len) s = .next u ∧ u.replies = s.replies ++ [r] ∧ r.peer = none ∧ (r.poisoned = true ↔ bad ≠ []) ∧
      r.data = ((List.range len).map fun i => (Tab.get 0 s.tags ((off + i) / 2)).extractLsb' (8 * ((off + i) % 2)) 8) ∧
      (bad = [] → u = { s with replies := s.replies ++ [r] }) ∧
      (s.ring.set = false → s.ring.kept.length + bad.length ≤ 64 → u.ring.kept = s.ring.kept ++
        bad.map fun x => ({ source := 8, fcode := FCode.uncorrectable.code, addr := x * 64 } : HFault).bytes s.gtime)) ∧
  (∀ (s : State) (sec : Nat) (a b : Byte), OpenLine s (64 * sec) 64 → 2 * sec + 2 ≤ 12000000000 →
    ∃ u, exec (.hostTagApertureWrite (2 * sec) [a, b]) s = .next u ∧ (∀ x, Tab.get 0 u.tags x = if x = sec then b ++ a else Tab.get 0 s.tags x) ∧ SameMemory s u ∧
      u.acks = s.acks ++ [{ wct := max s.gtime (outsideWct s (sec / 2)) }]) ∧
  ∀ (s : State) (pa : Nat) (b : List Byte), isHost pa = true → pa % 128 + b.length ≤ 128 → s.mapHeld pa = false →
    ∃ u, exec (.hostSnoop pa b) s = .next u ∧ (u.line (pa / 128)).present = false ∧ (u.line (pa / 128)).dirty = false ∧
      (∀ x, Tab.get 0 u.mem x = if pa ≤ x ∧ x < pa + b.length then b.getD (x - pa) 0 else Tab.get 0 s.mem x) ∧ u.teams = s.teams ∧
      ∀ q d, Tab.find s.queues q = some d → d.taken = none → s.tailIn d (pa / 128) = true → Tab.find u.queues q = some { d with taken := some s.gtime }

/-- A range inside one sector of local memory whose home takes requests. -/
def OpenRead (s : State) (pa n : Nat) : Prop := 0 < n ∧ pa % 64 + n ≤ 64 ∧ pa + n ≤ Config.localBytes ∧ s.takes pa = true

/-- R366 and R396: a bound peer's load, store, atomic, tag read and tag write inside one sector are performed at the home here, a load under a lease
where no window owns the line, and a load or tag read while the line is held too (R265, R266); a write to a peer
is acknowledged once performed, when its completion time has come there. -/
def PeersReachMemory : Prop :=
  (∀ (s : State) (i : Nat), s.peerPorts i ≠ 0 →
    (∀ pa n, OpenRead s pa n → ∃ u r, exec (.peerRequest i (.load pa n)) s = .next u ∧ u.replies = s.replies ++ [r] ∧ r.peer = some i ∧
      (r.poisoned = true ↔ s.poisonIn pa n ≠ []) ∧ r.data = readBytes s.mem pa n ∧ SameMemory s u ∧ u.teams = s.teams ∧
      let l := s.line (pa / 128)
      (u.line (pa / 128)).horizon = if (s.ownerOf (pa / 128)).isSome then l.horizon
        else max l.horizon (s.homeNow (pa / 128) + if l.wrote then l.lease else min 2048 (2 * l.lease))) ∧
    (∀ pa b, OpenLine s pa b.length → pa % 64 + b.length ≤ 64 → ∃ u, exec (.peerRequest i (.store pa b)) s = .next u ∧ WroteOutside s u (some i) pa b) ∧
    (∀ k pa x new n, n = (match k with | .addI64 | .minI64 | .maxI64 | .cas64 => 8 | _ => 4) → OpenLine s pa n → pa % 64 + n ≤ 64 →
      ∃ u r, exec (.peerRequest i (.atomic k pa x new)) s = .next u ∧ u.replies = s.replies ++ [r] ∧ r.peer = some i ∧ r.data = readBytes s.mem pa n ∧
        WroteOutside s u (some i) pa (leBytes n (atomApply k (BitVec.ofNat 64 (leNat (readBytes s.mem pa n))) x new).toNat)) ∧
    (∀ pa, OpenRead s pa 1 → ∃ u r, exec (.peerRequest i (.ldt pa)) s = .next u ∧ u = { s with replies := s.replies ++ [r] } ∧ r.peer = some i ∧
      r.data = leBytes 2 (Tab.get 0 s.tags (pa / 64)).toNat) ∧
    ∀ pa t, OpenLine s pa 1 → ∃ u, exec (.peerRequest i (.stt pa t)) s = .next u ∧
      (∀ x, Tab.get 0 u.tags x = if x = pa / 64 then t else Tab.get 0 s.tags x) ∧ SameMemory s u ∧
      u.acks = s.acks ++ [{ peer := some i, wct := outsideWct s (pa / 128) }]) ∧
  (∀ (s : State) (i : Nat) (req : PeerReq), s.peerPorts i = 0 → exec (.peerRequest i req) s = .next s) ∧
  ∀ (s : State) (op n w : Nat) (o : MemOp) (p : Part), s.part? op n = some (o, p) → p.peer = true → p.st = .done w → o.kind.isWrite = true →
    (w ≤ s.gtime → exec (.peerWriteAck op n) s = .next (s.setOp op (o.setPart n { p with acked := true }))) ∧ (s.gtime < w → exec (.peerWriteAck op n) s = .next s)

/-- A READY bit has this value, every other as before, and a change is an event (R245, R393). -/
def ReadyBit (s u : State) (bit : Nat) (v : Bool) : Prop :=
  u.ready.getLsbD bit = v ∧ (∀ b, b ≠ bit → u.ready.getLsbD b = s.ready.getLsbD b) ∧
  u.readyEvents = s.readyEvents + (if s.ready.getLsbD bit = v then 0 else 1)

/-- R245, R396 and R397: the host's bit follows its link; a port's bit is set within the skew bound, and every port that shares a peer with it goes
down where the bound is lost; that the skew is measured again by the row of a port's coming up is log 69. A port that goes down clears its bit, and
a load in flight on it fails, imprecisely in its team. In recovery no bit but SECP is set (R401). -/
def LinksComeAndGo : Prop :=
  (∀ (s : State), (∃ u, exec (.hostLinkStateChange false) s = .next u ∧ ReadyBit s u 36 false) ∧
    (s.firmware.recovery = false → ∃ u, exec (.hostLinkStateChange true) s = .next u ∧ ReadyBit s u 36 true) ∧
    (s.firmware.recovery = true → exec (.hostLinkStateChange true) s = .next s)) ∧
  (∀ (s : State) (port skew : Nat), port < 16 → s.firmware.recovery = false →
    (skew ≤ 16 → ∃ u, exec (.linkPortUp port skew) s = .next u ∧ ReadyBit s u (40 + port) true ∧ Tab.find u.skews port = some skew) ∧
    (16 < skew → s.ready.getLsbD (40 + port) = false → exec (.linkPortUp port skew) s = .next s) ∧
    (16 < skew → s.ready.getLsbD (40 + port) = true →
      let shares := fun (q : Nat) => q < 16 ∧ (q = port ∨ ∃ e, e ∈ s.peers ∧ e.2.ports.getLsbD port = true ∧ e.2.ports.getLsbD q = true)
      ∃ u, exec (.linkPortUp port skew) s = .next u ∧ (∀ q, shares q → u.ready.getLsbD (40 + q) = false) ∧
        ∀ b, (∀ q, shares q → b ≠ 40 + q) → u.ready.getLsbD b = s.ready.getLsbD b)) ∧
  (∀ (s : State) (port : Nat), port < 16 → s.ready.getLsbD (40 + port) = true → (∀ j o p, (j, o) ∈ s.ops → p ∈ o.parts → p.peer = true → p.port.isSome = true ∧ p.onPort port o = false) →
    (∀ c, (s.core c).courier = none) → ∃ u, exec (.linkPortDown port) s = .next u ∧ ReadyBit s u (40 + port) false ∧ u.mem = s.mem ∧ u.teams = s.teams ∧ u.ops = s.ops) ∧
  ∀ (s : State) (port op t k : Nat) (o : MemOp) (p : Part) (a : LaneAcc) (g : Grp), port < 16 → s.ready.getLsbD (40 + port) = true → s.ops = [(op, o)] →
    o.parts = [p] → p.lanes = [a] → p.onPort port o = true → o.who = .grp t k → s.grp t k = some g → o.kind = .load false → (o.dst ≠ .none) → (∀ c, (s.core c).courier = none) →
    ∃ u h, exec (.linkPortDown port) s = .next u ∧ ReadyBit s u (40 + port) false ∧ u.grp t k = some h ∧ h.soft = some (BitVec.ofNat 64 a.addr, o.pc.setWidth 32) ∧
      h.softLanes = Tab.put g.softLanes a.lane (a.addr / 128 * 128) ∧ h.v = g.v ∧ h.s = g.s ∧ u.mem = s.mem

/-- A command of a function is the oldest that waits, and the firmware image runs (R394, R401). -/
def Waits (s : State) (func : Nat) : Prop := s.firmware.recovery = false ∧ ∃ k rest, s.mgmt.cmds = k :: rest ∧ k.func.toNat = func

/-- A field of the arguments that the oldest command's door found, by its offset in the window (Table 17-3). -/
def argOf (s : State) (off n : Nat) : Nat := leNat (readBytes s.mgmt.now.args off n)

/-- Every byte of ARGS outside the fields listed is zero (R405). -/
def ArgsOnly (s : State) (l : List (Nat × Nat)) : Prop := ∀ o b, (o, b) ∈ s.mgmt.now.args → b = 0 ∨ ∃ a n, (a, n) ∈ l ∧ a ≤ o ∧ o < a + n

/-- The oldest command is complete: SEQ is its door, STATUS and RESULT are as given, and the rest of the window is as before (R394). -/
def Completed (s u : State) (status : Nat) (result : List Byte) : Prop :=
  (∃ k rest, s.mgmt.cmds = k :: rest ∧
    u.mgmt = { s.mgmt with cmds := rest, seq := k.door, status := BitVec.ofNat 32 status, result := u.mgmt.result, done := s.mgmt.done + 1 }) ∧
  ∀ i, Tab.get 0 u.mgmt.result i = if 0x100 ≤ i ∧ i < 0x100 + result.length then result.getD (i - 0x100) 0 else 0

/-- The command completes so, and nothing else of the state changes but what `f` says. -/
def Answers (i : Instr) (s : State) (f : State → State) (status : Nat) (result : List Byte) : Prop :=
  ∃ u, exec i s = .next u ∧ Completed s u status result ∧ { u with mgmt := {} } = { f s with mgmt := {} }

/-- The functions with the ARGS fields that Table 17-8 lists. -/
def commandTable : List (Instr × Nat × List (Nat × Nat)) :=
  [(.contextSetup, 0x01, [(0x10, 1), (0x14, 0x98)]), (.contextTeardown, 0x02, [(0x10, 4)]), (.queueDescriptorWrite, 0x03, [(0x10, 4), (0x40, 64)]),
   (.courierRestart, 0x04, [(0x10, 16)]), (.coreConfiguration, 0x05, [(0x10, 8)]), (.slotSetup, 0x06, [(0x10, 24)]), (.kill, 0x07, [(0x10, 12)]),
   (.preemptContext, 0x08, [(0x10, 4)]), (.saveContextWhole, 0x09, [(0x10, 4)]), (.restoreContext, 0x0A, [(0x10, 4)]), (.stage2Invalidation, 0x0B, [(0x10, 16)]),
   (.readDeviceCounters, 0x0C, []), (.setHostFaultRing, 0x0D, [(0x10, 12)]), (.bindPeerIndex, 0x0E, [(0x10, 12), (0x40, 64)]),
   (.attachManifestInputs, 0x0F, [(0x10, 12), (0x40, 64)])]

/-- The entry that the arguments of function 0x01 describe (Table 17-7). -/
def entryOf (s : State) : Ctx :=
  let d := fun (o : Nat) => BitVec.ofNat 64 (argOf s o 8)
  { live := true, priv := bitOf (argOf s 0x10 1) 7, quant := argOf s 0x14 4, wdog := argOf s 0x18 4, dlthr := argOf s 0x1C 4, s1root := d 0x20, s2root := d 0x28,
    handler := d 0x30, centry := d 0x38, cparam := d 0x40, saveb := d 0x48, savel := d 0x50, tspill := d 0x58, tspilll := d 0x60, child := d 0x68, childl := d 0x70,
    hlog := d 0x78, hlogl := d 0x80, pscr := d 0x88, pscrl := d 0x90, cntblk := d 0x98, dlogb := d 0xA0, dlogs := argOf s 0xA8 4 }

/-- The arguments of a function that names a context lie within the limits of Table 17-8. -/
def InLimits (s : State) (func : Nat) : Prop :=
  let c := argOf s 0x10 4
  let live := c < 64 ∧ (s.ctx c).live = true
  match func with
  | 0x01 => bitOf (argOf s 0x10 1) 6 = false ∧ (entryOf s).limits = true
  | 0x04 => live ∧ argOf s 0x14 4 < (s.ctx c).couriers
  | 0x09 => live ∧ ((s.ctx c).saving = false ∨ (s.ctx c).unload ≠ none)
  | 0x0A => c < 64
  | 0x0B => live ∧ (argOf s 0x14 4 = 3 ∨ argOf s 0x14 4 = 2 ∧ argOf s 0x18 8 % 4096 = 0)
  | 0x0F => live ∧ argOf s 0x18 4 < 4
  | _ => live

/-- The context that a function's arguments name: in one byte of the entry of function 0x01, in the first word otherwise. -/
def namedBy (s : State) (func : Nat) : Nat := if func = 0x01 then argOf s 0x10 1 % 64 else argOf s 0x10 4

/-- R394 and R405: an event of a function acts on a waiting command of that function alone; a byte of ARGS that its row does not list and that is not
zero completes it with STATUS 2 and changes nothing; one within its limits whose context is being saved completes with STATUS 4 and changes nothing,
unless it is the command that saves (the order of the two, and which functions name a context, are log 71); an unknown function completes with STATUS 1;
a write of the window sets DOOR, FUNC and ARGS, and one that reaches DOOR asks for the command that the window then describes, after those that wait. -/
def CommandsAreCheckedFirst : Prop :=
  (∀ (i : Instr) (func : Nat) (l : List (Nat × Nat)) (s : State), (i, func, l) ∈ commandTable →
    (¬ Waits s func → exec i s = .next s) ∧ (Waits s func → ¬ ArgsOnly s l → Answers i s id 2 [])) ∧
  (∀ (i : Instr) (func : Nat) (l : List (Nat × Nat)) (s : State), (i, func, l) ∈ commandTable →
    (func = 0x01 ∨ func = 0x02 ∨ func = 0x04 ∨ 0x07 ≤ func ∧ func ≤ 0x0B ∨ func = 0x0F) → Waits s func → ArgsOnly s l → InLimits s func →
    s.begun = false → s.midSave (namedBy s func) = true → Answers i s id 4 []) ∧
  (∀ (s : State), (∃ f, Waits s f ∧ (f = 0 ∨ 0x12 < f)) → Answers .mgmtUnknownFunction s id 1 []) ∧
  (∀ (s : State) (b0 b1 b2 b3 : Byte), ∃ u, exec (.registerWrite 0 [b0, b1, b2, b3]) s = .next u ∧
    let door : Word := b3 ++ b2 ++ b1 ++ b0
    let last : Word := (s.mgmt.cmds.getLast?.map Cmd.door).getD s.mgmt.seq
    let asked := s.mgmt.cmds ++ [({ door := door, func := s.mgmt.func, args := s.mgmt.args } : Cmd)]
    u = { s with mgmt := { s.mgmt with door := door, cmds := if s.firmware.recovery = true ∨ door = last then s.mgmt.cmds else asked } }) ∧
  ∀ (s : State) (b0 b1 b2 b3 : Byte), exec (.registerWrite 0xC [b0, b1, b2, b3]) s = .next { s with mgmt := { s.mgmt with func := (b3 ++ b2 ++ b1 ++ b0 : BitVec 32) } }

/-- The teams are as before, but that their windows' lines may look at D anew (R323). -/
def SameTeams (s u : State) : Prop := ∀ t, (u.team t).map (fun (T : Team) => { T with wins := [] }) = (s.team t).map fun (T : Team) => { T with wins := [] }

/-- R404: function 0x01 writes a new context's entry, its translations dropped; one that breaks its limits, or whose areas are not mapped, is refused. R405:
function 0x02 removes a context without work, its queues disabled and its slots unowned, and is refused with STATUS 4 while it has work. -/
def ContextsAreSetUpAndRemoved : Prop :=
  (∀ (s : State), Waits s 0x01 → ArgsOnly s [(0x10, 1), (0x14, 0x98)] → bitOf (argOf s 0x10 1) 6 = false →
    let c := argOf s 0x10 1 % 64
    ((entryOf s).limits = false → Answers .contextSetup s id 2 []) ∧
    ((entryOf s).limits = true → (s.ctx c).live = false → s.midSave c = false →
      let y : Ctx := { entryOf s with gap := s.gtime, left := s.gtime }
      let s' := (s.tlbDrop c (invalidates c 3 0)).modCtx c fun _ => y
      (s'.areasOk c = false → Answers .contextSetup s id 2 []) ∧
      (s'.areasOk c = true → ∃ u, exec .contextSetup s = .next u ∧ Completed s u 0 [] ∧ u.ctx c = y ∧ (∀ d, d ≠ c → u.ctx d = s.ctx d) ∧
        (∀ k e, e ∈ (u.core k).tlb → e.ctx ≠ c) ∧ u.mem = s.mem ∧ SameTeams s u))) ∧
  ∀ (s : State), Waits s 0x02 → ArgsOnly s [(0x10, 4)] → argOf s 0x10 4 < 64 → (s.ctx (argOf s 0x10 4)).live = true →
    s.midSave (argOf s 0x10 4) = false →
    let c := argOf s 0x10 4
    (s.busy c = true → Answers .contextTeardown s id 4 []) ∧
    (s.busy c = false → ∃ u, exec .contextTeardown s = .next u ∧ Completed s u 0 [] ∧ u.ctx c = {} ∧ (∀ n, (u.queue n).ctx = c → (u.queue n).enable = false) ∧
      (∀ n, n < 8 → ¬ ((u.slotAt n).owned = true ∧ (u.slotAt n).owner.toNat = c)) ∧ u.mem = s.mem ∧ u.teams = s.teams)

/-- Table 17-8, functions 0x03 to 0x06: a queue's descriptor, a courier's restart, CORECFG of one core or of all, and an incumbent slot. -/
def QueuesCouriersCoresAndSlotsAreSet : Prop :=
  (∀ (s : State) (d : Queue), Waits s 0x03 → ArgsOnly s [(0x10, 4), (0x40, 64)] → argOf s 0x10 4 < 128 →
    let n := argOf s 0x10 4
    let q := Tab.get {} s.queues n
    (s.mgmt.now.queue q = none → Answers .queueDescriptorWrite s id 2 []) ∧
    (s.mgmt.now.queue q = some d → Answers .queueDescriptorWrite s (fun s => { s with queues := Tab.set {} s.queues n d }) 0 (leBytes 8 q.head ++ leBytes 8 q.tail) ∧
      d.head = q.head ∧ d.tail = q.tail ∧ d.ring = BitVec.ofNat 64 (argOf s 0x40 8) ∧ d.taila = BitVec.ofNat 64 (argOf s 0x48 8) ∧
      d.heada = BitVec.ofNat 64 (argOf s 0x50 8) ∧ d.loge = argOf s 0x58 1 ∧ d.prio = argOf s 0x59 1 ∧ d.ctx = argOf s 0x5A 1 ∧
      d.enable = bitOf (argOf s 0x5B 1) 0 ∧ d.stopped = bitOf (argOf s 0x5B 1) 1)) ∧
  (∀ (s : State), Waits s 0x04 → ArgsOnly s [(0x10, 16)] → argOf s 0x10 4 < 64 → (s.ctx (argOf s 0x10 4)).live = true →
    argOf s 0x14 4 < (s.ctx (argOf s 0x10 4)).couriers → s.midSave (argOf s 0x10 4) = false →
    ∃ u, exec .courierRestart s = .next u ∧ Completed s u 0 [] ∧ u.teams = s.teams ∧ u.mem = s.mem ∧
      ∀ k y, (s.core k).courier = some y → (u.core k).courier = some (if y.ctx = argOf s 0x10 4 ∧ y.num = argOf s 0x14 4
        then { y with cpc := BitVec.ofNat 64 (argOf s 0x18 8) &&& 0x0FFFFFFFFFFFFFFC, stopped := false, wait := none } else y)) ∧
  (∀ (s : State), Waits s 0x05 → ArgsOnly s [(0x10, 8)] →
    let w := BitVec.ofNat 32 (argOf s 0x14 4)
    let all := argOf s 0x10 4 = 0xFFFFFFFF
    (all ∨ argOf s 0x10 4 < 384 → ∃ u, exec .coreConfiguration s = .next u ∧ Completed s u 0 [] ∧
      (∀ k, u.core k = if k < 384 ∧ (all ∨ k = argOf s 0x10 4) then (s.core k).setCfg w else s.core k) ∧
      ∀ l, l ∈ u.launches → (∃ t T, (t, T) ∈ s.teams ∧ T.kind ≠ .pair ∧ T.ctx = l.ctx ∧ T.lid = l.lid ∧ T.core < 384 ∧ (all ∨ T.core = argOf s 0x10 4)) →
        w.getLsbD 1 = true → l.mred = true) ∧
    (¬ all → 384 ≤ argOf s 0x10 4 → Answers .coreConfiguration s id 2 [])) ∧
  ∀ (s : State), Waits s 0x06 → ArgsOnly s [(0x10, 24)] → argOf s 0x10 4 < 8 →
    let n := argOf s 0x10 4
    let ctl := BitVec.ofNat 32 (argOf s 0x14 4)
    let slot : Slot := { s.slotAt n with
      key := BitVec.ofNat 64 (argOf s 0x18 8), payload := BitVec.ofNat 64 (argOf s 0x20 8), owned := ctl.getLsbD 31
      owner := ctl.extractLsb' 8 6, sense := ctl.getLsbD 0, serial := 0 }
    ∃ u, exec .slotSetup s = .next u ∧ Completed s u 0 [0, 0, 0, 0] ∧
      (∀ m, u.slotAt m = if m = n then slot else s.slotAt m) ∧
      ∀ p, p < 24 → Tab.get {} u.shadows (8 * p + n) = { key := BitVec.ofNat 64 (argOf s 0x18 8), sense := ctl.getLsbD 0, owner := ctl.extractLsb' 8 6,
                                                         owned := ctl.getLsbD 31, serial := 0 }

/-- R380 and Table 17-8, function 0x07: the teams of a launch that have not been dispatched end as killed, and are counted; so does a resident one, which is gone
at once with nothing in flight, and issues no more while something is. -/
def KillsEndTeams : Prop :=
  ∀ (s : State) (l : Launch), Waits s 0x07 → ArgsOnly s [(0x10, 12)] → argOf s 0x10 4 < 64 → (s.ctx (argOf s 0x10 4)).live = true → s.midSave (argOf s 0x10 4) = false →
    let c := argOf s 0x10 4
    l.lid = argOf s 0x14 4 → l.lid ≠ 0 → l.ctx = c → argOf s 0x18 4 = 0xFFFFFFFF → s.launches.filter (fun m => decide (m.ctx = c) && decide (m.lid = l.lid)) = [l] →
    (∀ v, v ∈ (s.ctx c).saved → v.team.lid ≠ l.lid) → l.goneTeams = [] → l.blocks = [] → l.nextTeam ≤ l.total → l.total ≤ 0xFFFFFFFE →
    ((∀ t T, (t, T) ∈ s.teams → T.kind = .team → T.ctx = c → T.lid ≠ l.lid) →
      ∃ u m, exec .kill s = .next u ∧ Completed s u 0 (leBytes 4 (l.total - l.nextTeam)) ∧ u.launch c l.lid = some m ∧ u.teams = s.teams ∧
        m = if l.total = l.nextTeam then l else { l with nextTeam := l.total, ended := l.ended + (l.total - l.nextTeam), killed := true }) ∧
    ∀ t T, s.teams.filter (fun e => decide (e.2.kind = .team) && decide (e.2.ctx = c) && decide (e.2.lid = l.lid)) = [(t, T)] →
      (∀ n U, (n, U) ∈ s.teams → U.ending = none ∧ (n = t → U = T)) → s.team t = some T →
      ∃ u, exec .kill s = .next u ∧ Completed s u 0 (leBytes 4 (1 + (l.total - l.nextTeam))) ∧ (s.mayEnd t = true → u.team t = none) ∧
        (s.mayEnd t = false → ∃ U, u.team t = some U ∧ U.ending = some .kill ∧ ∀ j g, Tab.find U.groups j = some g → g.run = .ended)

/-- The save of a context is over: HSTAT.PRE is clear where it stood, and nothing waits. -/
def SaveOver (u : State) (c : Nat) (cores : List Nat) : Prop := (u.ctx c).unload = none ∧ ∀ k, k ∈ cores → (u.core k).pre = false

/-- A save waits for its writes, with HSTAT.PRE set where it stands. -/
def SaveWaits (u : State) (c func result : Nat) (cores : List Nat) : Prop :=
  (∃ w, (u.ctx c).unload = some w ∧ w.func = func ∧ w.result = result) ∧ ∀ k, k ∈ cores → (u.core k).pre = true

/-- R382 to R388 and Table 17-8, functions 0x08 to 0x0A: a pre-emption or a save first stops dispatch and issue on the context's cores, goes on once nothing is
in flight and the save area can be reached, and completes once its writes are complete; a context without teams leaves its cores; one saved whole has no work on
the device; a restore that fails a check gives its number. The rows that a save takes are log 39. -/
def ContextsAreSavedAndRestored : Prop :=
  (∀ (s : State) (c : Nat), Waits s 0x08 → ArgsOnly s [(0x10, 4)] → c = argOf s 0x10 4 → c < 64 → (s.ctx c).live = true → (s.midSave c = false ∨ s.begun = true) →
    (s.ctx c).unload = none → s.victimsOf c (s.coresWith c) = [] →
    (s.settled c [] (s.coresWith c) = false ∨ s.areaTakes c = false → ∃ u, exec .preemptContext s = .next u ∧ u.mgmt = s.begin.mgmt ∧
      (∀ k, k ∈ s.coresWith c → (u.core k).pre = true) ∧ u.teams = s.teams ∧ u.mem = s.mem) ∧
    (s.settled c [] (s.coresWith c) = true → s.areaTakes c = true →
      let done := s.saveDone c && decide (((s.coresWith c).foldl State.parkCourier s).ctxWct c ≤ s.gtime) && (s.coresWith c).all fun k => s.srcIdle (.copy k)
      ∃ u, exec .preemptContext s = .next u ∧ u.teams = s.teams ∧ u.mem = s.mem ∧
      (∀ k, k ∈ s.coresWith c → (u.core k).courier = none) ∧ (done = true → Completed s u 0 (leBytes 4 0) ∧ SaveOver u c (s.coresWith c)) ∧
      (done = false → u.mgmt = s.begin.mgmt ∧ SaveWaits u c 8 0 (s.coresWith c)))) ∧
  (∀ (s : State) (c : Nat), Waits s 0x09 → ArgsOnly s [(0x10, 4)] → c = argOf s 0x10 4 → c < 64 → (s.ctx c).live = true → (s.midSave c = false ∨ s.begun = true) →
    (s.ctx c).saving = false → (s.ctx c).unload = none →
    let s' := s.begin.setPre (s.coresWith c) true
    let still := s'.settled c (s'.victimsOf c (s.coresWith c)) (s.coresWith c) = true ∧ s'.areaTakes c = true ∧
      ∀ p h, p ∈ s.pairLaunches → p.ctx = c → h ∈ p.shares → s'.atBoundary p h = true
    (¬ still → exec .saveContextWhole s = .next s') ∧
    (still → ∀ e, s'.saveWhole c (s.coresWith c) = .error e → ∃ u, exec .saveContextWhole s = .next u ∧ Completed s u 2 []) ∧
    (still → ∀ v n, s'.saveWhole c (s.coresWith c) = .ok (v, n) → ∃ u, exec .saveContextWhole s = .next u ∧ (u.ctx c).saving = true ∧
      (u.ctx c).saved = [] ∧ (u.ctx c).savedCouriers = [] ∧ (∀ l, l ∈ u.launches → l.ctx ≠ c) ∧ (∀ p, p ∈ u.pairLaunches → p.ctx ≠ c) ∧
      let done := v.saveDone c && (s.coresWith c).all fun k => v.srcIdle (.copy k)
      (done = true → Completed s u 0 (leBytes 8 n) ∧ SaveOver u c (s.coresWith c)) ∧ (done = false → u.mgmt = v.mgmt ∧ SaveWaits u c 9 n (s.coresWith c)))) ∧
  (∀ (s : State) (c : Nat) (w : Unload), ArgsOnly s [(0x10, 4)] → c = argOf s 0x10 4 → c < 64 → (s.ctx c).live = true → (s.ctx c).unload = some w → s.begun = true →
    let done := s.saveDone c && w.cores.all fun k => s.srcIdle (.copy k)
    (Waits s 0x08 → w.func = 8 → (done = false → exec .preemptContext s = .next s) ∧
      (done = true → ∃ u, exec .preemptContext s = .next u ∧ Completed s u 0 (leBytes 4 w.result) ∧ SaveOver u c w.cores ∧ u.mem = s.mem)) ∧
    (Waits s 0x09 → w.func = 9 → (done = false → exec .saveContextWhole s = .next s) ∧
      (done = true → ∃ u, exec .saveContextWhole s = .next u ∧ Completed s u 0 (leBytes 8 w.result) ∧ SaveOver u c w.cores ∧ u.mem = s.mem))) ∧
  ∀ (s : State) (c : Nat), Waits s 0x0A → ArgsOnly s [(0x10, 4)] → c = argOf s 0x10 4 → c < 64 → s.midSave c = false →
    ((s.ctx c).live = false → Answers .restoreContext s id 3 (leBytes 4 3)) ∧
    ((s.ctx c).live = true → s.areaTakes c = false → exec .restoreContext s = .next s) ∧
    ((s.ctx c).live = true → s.areaTakes c = true → ∀ n, s.readImage c = .error (n, none) → Answers .restoreContext s id 3 (leBytes 4 n)) ∧
    ((s.ctx c).live = true → s.areaTakes c = true → ∀ n f a, s.readImage c = .error (n, some (f, a)) → ∃ u, exec .restoreContext s = .next u ∧
      Completed s u 3 (leBytes 4 n) ∧ u.teams = s.teams ∧ (s.ring.set = false → s.ring.kept.length < 64 →
        u.ring.kept = s.ring.kept ++ [({ source := 1, fcode := f.code, ctx := c, addr := a } : HFault).bytes s.gtime])) ∧
    ((s.ctx c).live = true → s.areaTakes c = true → ∀ b p, s.readImage c = .ok (b, p) →
      (s.partsReady c p = false → exec .restoreContext s = .next s) ∧
      (s.partsReady c p = true → ∃ u, exec .restoreContext s = .next u ∧ Completed s u 0 (leBytes 4 0) ∧ (u.ctx c).saving = false ∧
      (u.ctx c).savedCouriers.map Courier.num = p.couriers.map Courier.num ∧ (u.ctx c).saved.length = (s.ctx c).saved.length + p.teams.length))

/-- Table 17-8, functions 0x0B to 0x0F: stage-2 invalidation, the device counters, the host fault ring (R313), peers (R395), digests (R400). -/
def DeviceTablesAreSet : Prop :=
  (∀ (s : State), Waits s 0x0B → ArgsOnly s [(0x10, 16)] → argOf s 0x10 4 < 64 → (s.ctx (argOf s 0x10 4)).live = true →
    (argOf s 0x14 4 = 3 ∨ (argOf s 0x14 4 = 2 ∧ argOf s 0x18 8 % 4096 = 0)) → s.midSave (argOf s 0x10 4) = false →
    ∃ u, exec .stage2Invalidation s = .next u ∧ Completed s u 0 [] ∧ u.mem = s.mem ∧ SameTeams s u ∧
      (∀ j o p, (j, o) ∈ u.ops → o.ctx = argOf s 0x10 4 → p ∈ o.parts → p.dset = false) ∧
      ∀ k e, e ∈ (u.core k).tlb ↔ e ∈ (s.core k).tlb ∧ invalidates (argOf s 0x10 4) (argOf s 0x14 4) (argOf s 0x18 8) e = false) ∧
  (∀ (s : State), Waits s 0x0C → ArgsOnly s [] → Answers .readDeviceCounters s id 0 (leBytes 8 s.remap.toNat ++ leBytes 8 s.mapchg.toNat ++ leBytes 8 s.migrate.toNat ++
    leBytes 8 s.corrected.toNat ++ leBytes 8 s.cleandrop.toNat ++ leBytes 8 s.poisoned.toNat)) ∧
  (∀ (s : State), Waits s 0x0D → ArgsOnly s [(0x10, 12)] → argOf s 0x10 8 % 4096 = 0 → (∃ i, 13 ≤ i ∧ i ≤ 24 ∧ argOf s 0x18 4 = 2 ^ i) →
    argOf s 0x10 8 + argOf s 0x18 4 ≤ Config.localBytes → s.ring.kept = [] → s.ownerOf (argOf s 0x10 8 / 128) = none →
    s.takes (argOf s 0x10 8) = true → s.posted = [] → s.lineHeld (argOf s 0x10 8 / 128) = false → s.anyHeld (argOf s 0x10 8 / 128) = false → s.srcReady .ring = true →
    ∃ u, exec .setHostFaultRing s = .next u ∧ Completed s u 0 (leBytes 4 0 ++ leBytes 4 s.ring.dropped) ∧ u.ring.set = true ∧ u.ring.base = argOf s 0x10 8 ∧
      u.ring.size = argOf s 0x18 4 ∧ u.ring.prod = 0 ∧ u.cohRead (argOf s 0x10 8) 8 = leBytes 8 0 ∧ u.ring.lost = s.ring.dropped ∧
      ((∃ q, u.posted = [q] ∧ q.src = .ring ∧ q.pa = argOf s 0x10 8 + 16 ∧ q.bs = leBytes 8 s.ring.dropped) ∨
        u.posted = [] ∧ u.cohRead (argOf s 0x10 8 + 16) 8 = leBytes 8 s.ring.dropped)) ∧
  (∀ (s : State), Waits s 0x0E → ArgsOnly s [(0x10, 12), (0x40, 64)] → argOf s 0x10 4 < 32 → argOf s 0x14 4 < 2 ^ 16 → argOf s 0x18 4 ≤ 1 →
    let ports := BitVec.ofNat 16 (argOf s 0x14 4)
    Answers .bindPeerIndex s (fun s => { s with
      timeSource := decide (argOf s 0x18 4 = 1)
      peers := Tab.put s.peers (argOf s 0x10 4) { ports := ports, source := decide (argOf s 0x18 4 = 1), identity := BitVec.ofNat 512 (argOf s 0x40 64) } })
      0 (leBytes 4 (ports &&& s.ready.extractLsb' 40 16).toNat)) ∧
  ∀ (s : State), Waits s 0x0F → ArgsOnly s [(0x10, 12), (0x40, 64)] → argOf s 0x10 4 < 64 → (s.ctx (argOf s 0x10 4)).live = true → argOf s 0x18 4 < 4 →
    s.midSave (argOf s 0x10 4) = false →
    let c := argOf s 0x10 4
    let lid := argOf s 0x14 4
    (s.launch c lid ≠ none → Answers .attachManifestInputs s id 0 []) ∧
    (s.launch c lid = none → Answers .attachManifestInputs s (fun s => s.modCtx c fun x => { x with
      attached := (lid, argOf s 0x18 4, BitVec.ofNat 512 (argOf s 0x40 64)) :: x.attached.filter fun e => !(decide (e.1 = lid) && decide (e.2.1 = argOf s 0x18 4)) }) 0 [])

/-- Table 17-8, functions 0x10 to 0x12: telemetry, the power cap and the limits (R403), the firmware image (R401), and MSI-X vectors (R393). -/
def TelemetryFirmwareAndVectorsAreSet : Prop :=
  (∀ (s : State), Waits s 0x10 → ArgsOnly s [(0x10, 12)] →
    (argOf s 0x10 4 = 0 → argOf s 0x14 4 ≤ 4 → Answers .telemetryReadPage s id 0 (s.page (argOf s 0x14 4))) ∧
    (argOf s 0x10 4 = 1 → 1200 ≤ argOf s 0x14 4 ∧ argOf s 0x14 4 ≤ 2600 → Answers .setPowerCap s (fun s => { s with powerCap := argOf s 0x14 4 }) 0 []) ∧
    (argOf s 0x10 4 = 1 → argOf s 0x14 4 < 1200 ∨ 2600 < argOf s 0x14 4 → Answers .setPowerCap s id 2 []) ∧
    (argOf s 0x10 4 = 2 → Answers .setTelemetryLimits s
      (fun (s : State) => let v : State := { s with powerLimit := argOf s 0x14 4, tempLimit := argOf s 0x18 4 }; { v with crossed := s.crossed && v.overLimit }) 0 [])) ∧
  (∀ (s : State) (signed : Bool), Waits s 0x11 → ArgsOnly s [(0x10, 12)] → 0 < argOf s 0x18 4 → argOf s 0x10 8 + argOf s 0x18 4 ≤ Config.localBytes →
    let img := s.cohRead (argOf s 0x10 8) (argOf s 0x18 4)
    let n := Config.imageSerial img
    (signed = false ∨ n.toNat < s.firmware.minimum.toNat → Answers (.firmwareUpdate signed) s id 3 []) ∧
    (signed = true → s.firmware.minimum.toNat ≤ n.toNat →
      Answers (.firmwareUpdate signed) s (fun s => { s with firmware := { s.firmware with staged := some (img, n) } }) 0 (leBytes 4 n.toNat))) ∧
  (∀ (s : State), Waits s 0x12 → ArgsOnly s [(0x10, 16)] → argOf s 0x10 4 = 0 → argOf s 0x14 4 < 64 → 1 ≤ argOf s 0x18 4 → argOf s 0x18 4 ≤ 6 →
    (argOf s 0x18 4 = 3 ∨ argOf s 0x18 4 = 4 → argOf s 0x1C 4 < 64 ∧ s.midSave (argOf s 0x1C 4) = false) →
    ∃ u m, exec .msixBind s = .next u ∧ Completed s u 0 [] ∧ u.msix = Tab.put s.msix (argOf s 0x14 4) m ∧ m.source = argOf s 0x18 4 ∧ m.ctx = argOf s 0x1C 4 ∧ m.waiting = false ∧
      m.sent = 0) ∧
  (∀ (s : State) (m : Msix), Waits s 0x12 → ArgsOnly s [(0x10, 16)] → argOf s 0x10 4 = 1 → argOf s 0x14 4 < 64 → 1 ≤ argOf s 0x18 4 → argOf s 0x18 4 ≤ 6 →
    (argOf s 0x18 4 = 3 ∨ argOf s 0x18 4 = 4 → argOf s 0x1C 4 < 64 ∧ s.midSave (argOf s 0x1C 4) = false) → Tab.find s.msix (argOf s 0x14 4) = some m →
    let named := m.source = argOf s 0x18 4 ∧ (m.source = 3 ∨ m.source = 4 → m.ctx = argOf s 0x1C 4)
    ∃ u n, exec .msixAcknowledge s = .next u ∧ Completed s u 0 [] ∧ Tab.find u.msix (argOf s 0x14 4) = some n ∧ n.source = m.source ∧ n.ctx = m.ctx ∧
      n.sent = (s.irqStep m).sent ∧ (named → n.waiting = false) ∧ (¬ named → n = s.irqStep m) ∧ ∀ v, v ≠ argOf s 0x14 4 → Tab.find u.msix v = (Tab.find s.msix v).map s.irqStep) ∧
  ∀ (s : State), Waits s 0x12 → ArgsOnly s [(0x10, 16)] → argOf s 0x14 4 < 64 → (argOf s 0x18 4 = 3 ∨ argOf s 0x18 4 = 4) → argOf s 0x1C 4 < 64 →
    s.begun = false → s.midSave (argOf s 0x1C 4) = true →
    (argOf s 0x10 4 = 0 → Answers .msixBind s id 4 []) ∧ (argOf s 0x10 4 = 1 → Answers .msixAcknowledge s id 4 [])

/-- R402: a reset clears the device's memory, its registers and its work, keeps host and peer memory and the images, and sets SECP alone; self-tests that
pass set their bits, the others the failed mask, and no bit of a recovering device is set. -/
def ResetsAndSelfTests : Prop :=
  (∀ (s : State) (ok : Bool), ∃ u, exec (.deviceReset ok) s = .next u ∧ u.ready = BitVec.ofNat 64 (2 ^ 38) ∧ u.failed = 0 ∧ u.smapsn = 0 ∧ u.gtime = 0 ∧ u.teams = [] ∧
    u.ops = [] ∧ u.cores = [] ∧ u.ctxs = [] ∧ u.queues = [] ∧ u.slots = [] ∧ u.launches = [] ∧ u.lines = [] ∧ u.posted = [] ∧ u.lags = [] ∧ u.firmware.recovery = !ok ∧
    (∀ n, 64 * n < 2 ^ 48 → Tab.get 0 u.tags n = 0) ∧ (∀ n, 2 ^ 48 ≤ 64 * n → Tab.get 0 u.tags n = Tab.get 0 s.tags n) ∧
    (∀ pa, pa < 2 ^ 48 → Tab.get 0 u.mem pa = 0) ∧ (∀ pa, 2 ^ 48 ≤ pa → Tab.get 0 u.mem pa = Tab.get 0 s.mem pa) ∧
    ∀ img n, s.firmware.staged = some (img, n) → u.firmware.image = img ∧ u.firmware.serial = n ∧ u.firmware.staged = none ∧
      (ok = true → s.firmware.minimum.toNat ≤ u.firmware.minimum.toNat ∧ n.toNat ≤ u.firmware.minimum.toNat)) ∧
  ∀ (s : State) (bit : Nat),
    (∃ u, exec (.selfTestPass 38) s = .next u ∧ ReadyBit s u 38 true) ∧
    (bit < 36 ∨ bit = 37 → s.firmware.recovery = false → s.ready.getLsbD 38 = true →
      (s.failed.getLsbD bit = false → ∃ u, exec (.selfTestPass bit) s = .next u ∧ ReadyBit s u bit true ∧
        ((∀ d, d < 4 → 24 + d = bit ∨ s.ready.getLsbD (24 + d) = true) → u.smapsn ≠ 0)) ∧
      (s.ready.getLsbD bit = false → exec (.selfTestFail bit) s = .next { s with failed := s.failed ||| BitVec.ofNat 64 (2 ^ bit) })) ∧
    (s.firmware.recovery = true → bit ≠ 38 → exec (.selfTestPass bit) s = .next s ∧ exec (.selfTestFail bit) s = .next s)

/-- R401: the recovery mailbox takes pieces of the image and commits it: an image that does not verify, or is below the minimum, is refused; a good one
takes the place of the old one, and the device resets out of recovery. -/
def RecoveryRewritesTheImage : Prop :=
  ∀ (s : State), s.firmware.recovery = true → s.mgmt.rdoor ≠ s.mgmt.rseq →
    (s.mgmt.rcmd = 1 → s.mgmt.roffset.toNat % 128 = 0 → ∃ u, exec .recoveryWritePiece s = .next u ∧ u.mgmt = { s.mgmt with rseq := s.mgmt.rdoor, rstatus := 0 } ∧
      ∀ i, Tab.get 0 u.firmware.pieces i = if s.mgmt.roffset.toNat ≤ i ∧ i < s.mgmt.roffset.toNat + 128 then Tab.get 0 s.mgmt.rdata (i - s.mgmt.roffset.toNat)
        else Tab.get 0 s.firmware.pieces i) ∧
    (s.mgmt.rcmd = 1 → s.mgmt.roffset.toNat % 128 ≠ 0 → ∃ u, exec .recoveryWritePiece s = .next u ∧ u = { s with mgmt := { s.mgmt with rseq := s.mgmt.rdoor, rstatus := 2 } }) ∧
    ∀ signed, s.mgmt.rcmd = 2 → s.mgmt.rlength ≠ 0 →
      let img := readBytes s.firmware.pieces 0 s.mgmt.rlength.toNat
      let n := Config.imageSerial img
      (signed = false ∨ n.toNat < s.firmware.minimum.toNat → ∃ u, exec (.recoveryCommit signed) s = .next u ∧
        u = { s with mgmt := { s.mgmt with rseq := s.mgmt.rdoor, rstatus := 3 } }) ∧
      (signed = true → s.firmware.minimum.toNat ≤ n.toNat → ∃ u, exec (.recoveryCommit signed) s = .next u ∧ u.firmware.image = img ∧ u.firmware.serial = n ∧
        u.firmware.recovery = false ∧ u.ready = BitVec.ofNat 64 (2 ^ 38) ∧ u.teams = [])

/-- R398 to R400: what the DOE mailbox answers to each request; a device in recovery answers none (R401). -/
def MailboxAnswers : Prop :=
  (∀ (s : State) (i : Instr), s.firmware.recovery = true → (i ∈ [.getVersion, .getCapabilities, .negotiateAlgorithms, .getDigests, .getCertificate, .challenge, .getMeasurements,
    .keyExchange, .finish] ∨ ∃ c lid, i = .vendorDefinedRequest c lid) → exec i s = .next s) ∧
  ∀ (s : State), s.firmware.recovery = false →
    exec .getVersion s = .next { s with spdm := .versions [0x12, 0x13] } ∧ exec .getCapabilities s = .next { s with spdm := .capabilities } ∧
    exec .negotiateAlgorithms s = .next { s with spdm := .algorithms } ∧ exec .getDigests s = .next { s with spdm := .digests [sha512 Config.certificates] } ∧
    exec .getCertificate s = .next { s with spdm := .certificate Config.certificates } ∧
    (∃ body, exec .challenge s = .next { s with spdm := .signed body (Config.sign body) }) ∧
    (∃ body, body = s.measurement 1 ++ s.measurement 2 ++ s.measurement 3 ++ s.measurement 4 ++ s.measurement 5 ∧
      exec .getMeasurements s = .next { s with spdm := .signed body (Config.sign body) }) ∧
    exec .keyExchange s = .next { s with spdm := .keyExchange (s.sessions + 1), sessions := s.sessions + 1, sessionOpen := none } ∧
    (∀ n, s.spdm = .keyExchange n → exec .finish s = .next { s with spdm := .finished n, sessionOpen := some n, ideKeys := some n }) ∧
    ∀ c lid, (∀ m, ((s.ctx c).manifests.find? fun m => decide (m.lid = lid)) = some m →
        exec (.vendorDefinedRequest c lid) s = .next { s with spdm := .signed m.bytes (Config.sign (digestBytes (sha512 m.bytes))) }) ∧
      ((∀ m, m ∈ (s.ctx c).manifests → m.lid ≠ lid) → exec (.vendorDefinedRequest c lid) s = .next { s with spdm := .error })

end Sys2Proof.Claims

/-- R254, R255, R365, R366, R396 and R397: the host and the peers reach memory, and links come and go. -/
def Obligations.HostAndPeersReachTheDevice : Prop := Claims.HostReachesMemory ∧ Claims.PeersReachMemory ∧ Claims.LinksComeAndGo

/-- R380, R382 to R388, R394, R404 and R405: commands are checked, contexts set up, removed, saved and restored, teams killed. -/
def Obligations.ContextsAreManaged : Prop :=
  Claims.CommandsAreCheckedFirst ∧ Claims.ContextsAreSetUpAndRemoved ∧ Claims.KillsEndTeams ∧ Claims.ContextsAreSavedAndRestored

/-- R393, R395, R400, R401, R403 and R405: what the other management functions set and answer. -/
def Obligations.TheDeviceIsManaged : Prop :=
  Claims.QueuesCouriersCoresAndSlotsAreSet ∧ Claims.DeviceTablesAreSet ∧ Claims.TelemetryFirmwareAndVectorsAreSet

/-- R398 to R402: resets, self-tests, recovery and the answers of the DOE mailbox. -/
def Obligations.TheDeviceComesUpAndAttests : Prop := Claims.ResetsAndSelfTests ∧ Claims.RecoveryRewritesTheImage ∧ Claims.MailboxAnswers

namespace Sys2Proof.Claims

open Sys2Proof.Machine

/-! ## Words and steps -/

/-- The agent whose turn it is stands before a word that it can fetch, and the word stands for the instruction: what it decodes to, or an unassigned encoding
where it decodes to nothing. A PC that names slot B of a word stands for a D word that has one (R50, R59, R66, R295). -/
def Fetches (s : State) (i : Instr) : Prop :=
  (∃ (t k : Nat) (x : Iss) (pa : Nat), s.cur = .grp t k ∧ s.stand { fmt := .S } = .ok x ∧ (x.pc.toNat % 4 = 0 ∨ x.pc.toNat % 4 = 2 ∧ hasSlotB i = true) ∧
    s.vaReady x.core x.ctx .x (x.pc.toNat / 4 * 4) 4 = true ∧ s.codePa x.core x.ctx (x.pc.toNat / 4 * 4) = .ok pa ∧ s.icached (podOf x.core) pa = true ∧
    (decode (s.codeWord pa) = .ok i ∨ (∃ e, decode (s.codeWord pa) = .error e) ∧ i = .unassignedEncoding (s.codeWord pa))) ∨
  ∃ (c : Nat) (y : Courier) (pa : Nat), s.cur = .courier c ∧ (s.core c).courier = some y ∧ y.stopped = false ∧ y.cpc.toNat % 4 = 0 ∧
    s.vaReady c y.ctx .x y.cpc.toNat 4 = true ∧ s.codePa c y.ctx y.cpc.toNat = .ok pa ∧
    (decode (s.codeWord pa) = .ok i ∨ (∃ e, decode (s.codeWord pa) = .error e) ∧ i = .unassignedEncoding (s.codeWord pa))

/-- The registers and tables whose reset values the spec gives (R242 to R246, R257, R273, R324, R326, R402). -/
def ResetRegisters (s : State) : Prop :=
  s.gtime = 0 ∧ s.ready = 0 ∧ s.smapsn = 0 ∧ s.failed = 0 ∧
  (∀ c, (s.core c).cfg = 1 ∧ s.hstat c = 0x02000000 ∧ (s.core c).cyc = 0 ∧ (s.core c).ctx = none ∧ (s.core c).courier = none ∧ (s.core c).slots = []) ∧
  (∀ n, (s.slotAt n).key = 0 ∧ (s.slotAt n).payload = 0 ∧ (s.slotAt n).ctl = 0) ∧
  (∀ q, (s.queue q).ring = 0 ∧ (s.queue q).taila = 0 ∧ (s.queue q).heada = 0 ∧ (s.queue q).loge = 0 ∧ (s.queue q).prio = 0 ∧ (s.queue q).ctx = 0 ∧
    (s.queue q).enable = false ∧ (s.queue q).stopped = false) ∧
  (∀ pa, pa < 384000000000 → s.cohRead pa 1 = [0]) ∧ (∀ n, Tab.get 0 s.tags n = 0) ∧
  (∀ d h, s.bucket d h = h % 48) ∧ (∀ p, (s.placed p).stack = p % 8 ∧ (s.placed p).frame = p / 8 ∧ (s.placed p).lock = false) ∧
  s.teams = [] ∧ s.ctxs = []

end Sys2Proof.Claims

open Sys2Proof Sys2Proof.Machine in
/-- R53 and Tables 03-24 and 03-25: words written out from the encoding tables decode to the instructions that they stand for. -/
def Obligations.SpecWordsDecode : Prop :=
  decode 0b000001_111_0000010_0000000_0000001_00#32 = .ok (.iadd 7 2 0 1) ∧
  decode 0b100000_011_0000101_0000100_111111111#32 = .ok (.iaddi 3 5 4 511) ∧
  decode 0b000000_111_0000010_0000000_0000001_00#32 = .error .illegal ∧
  decode 0b010111_001_0000010_0000011_0000100_00#32 = .error (.reservedBits (.compact 1 2 3)) ∧
  decode 0b011000_001_010_0010_0000011_0000100_00#32 = .ok (.icmp 1 2 2 3 4 0) ∧
  decode 0b101001_111_0000110_1000010_010_000000#32 = .ok (.ld 7 6 66 2 0) ∧
  decode 0b110100_111_0000001_0000010_0000011_00#32 = .ok (.atomAdd 7 1 2 3 0) ∧
  decode 0b111010_010_11111111111111111111101#32 = .ok (.bra 2 8388605) ∧
  decode 0b011011_000001_00000000000000000010#32 = .ok (.sbra 1 2) ∧
  decode 0b111100_000100_000000_00000000000111#32 = .ok (.smovi 4 7) ∧
  decode 0b111111_000010_000000_000001_00000000#32 = .ok (.sadd 2 0 1) ∧
  decode 0b111111_000000_000000_000000_01000001#32 = .ok .exit ∧
  decode 0b111111_000011_000000_010110_11000000#32 = .ok (.mfsr 3 22) ∧
  decode 0b111110_0000000001_000_1111111111_000#32 = .ok (.dict 1 0 1023 0) ∧
  decode 0b111111_000001_000000_000000_01000001#32 = .error (.reservedBits .exit)

open Sys2Proof Sys2Proof.Machine in
/-- R53 to R60: a well-formed instruction's word decodes to it, with every operand at every value that its encoding admits, also from the word's bytes; and a
word decodes to no instruction but a well-formed one whose word it is. -/
def Obligations.DecodeAndEncodeAgree : Prop :=
  (∀ i : Instr, wellFormed i = true → decode (encode i) = .ok i ∧ ∀ rest, decodeBytes (wordBytes (encode i) ++ rest) = some (.ok i, rest)) ∧
  (∀ (w : Word) (i : Instr), decode w = .ok i → wellFormed i = true ∧ encode i = w)

open Sys2Proof Sys2Proof.Machine in
/-- R50: a step runs the instruction that the word at the PC of the agent whose turn it is decodes to; an entry of the agenda says whose turn it is or which
event comes, and with an empty agenda the current agent goes on, or a tick passes where it does not stand before a word; a group that has given way to ready
groups hands its turn on until each of them has issued (R107). -/
def Obligations.StepRunsTheDecodedWord : Prop :=
  ∀ (s : State) (rest : List Move),
    (∀ i, s.agenda = [] → s.able = true → Claims.Fetches (s.turn s.cur none) i → step s = exec i (s.turn s.cur none)) ∧
    (∀ a i, s.agenda = .issue a :: rest → Claims.Fetches (({ s with agenda := rest } : State).turn a none) i →
      step s = exec i (({ s with agenda := rest } : State).turn a none)) ∧
    (∀ a, (∀ t k g, a = .grp t k → s.grp t k = some g → g.gave = []) → s.turn a none = { s with cur := a }) ∧
    (∀ t k g, s.grp t k = some g → (∀ u j n h, (u, j, n) ∈ g.gave → s.grp u j = some h → h.issues = n → s.readyGrp u j h = false) →
      s.turn (.grp t k) none = { s with cur := .grp t k }) ∧
    (∀ a pc i, s.agenda = .poll a pc :: rest → Claims.Fetches (({ s with agenda := rest } : State).turn a (some pc)) i →
      step s = exec i (({ s with agenda := rest } : State).turn a (some pc))) ∧
    (∀ i pick, s.agenda = .event i pick :: rest → isEvent i = true → step s = exec i { s with agenda := rest, pick := pick }) ∧
    (s.agenda = [] → s.able = false → step s = exec .gtimeTick { s with pick := 0 })

open Sys2Proof Sys2Proof.Machine in
/-- R50, R59, R295 and R320: a group whose PC names no word raises ALIGN; one whose fetch fails a check of the translation raises what failed; one whose word is
not in its pod's instruction cache freezes until it is; nothing is fetched while the word or its tables lie on a stack that is not ready (R402) or
move (R325). -/
def Obligations.FetchesAreChecked : Prop :=
  ∀ (s : State) (x : Iss) (t k : Nat), s.agenda = [] → s.cur = .grp t k → (∀ g, s.grp t k = some g → g.gave = []) → s.stand { fmt := .S } = .ok x →
    (x.pc.toNat % 2 = 1 → step s = .next (x.raise s .align)) ∧
    (x.pc.toNat % 2 = 0 → s.vaReady x.core x.ctx .x (x.pc.toNat / 4 * 4) 4 = false → step s = .next (x.hold s)) ∧
    (x.pc.toNat % 2 = 0 → s.vaReady x.core x.ctx .x (x.pc.toNat / 4 * 4) 4 = true →
      (∀ f, s.codePa x.core x.ctx (x.pc.toNat / 4 * 4) = .error f → step s = .next (x.raise s f)) ∧
      ∀ pa, s.codePa x.core x.ctx (x.pc.toNat / 4 * 4) = .ok pa →
        (s.icached (podOf x.core) pa = false → ∃ u g h, step s = .next u ∧ s.grp t k = some g ∧ u.grp t k = some h ∧ h.frozen = true ∧
          h.quads = g.quads ∧ h.held = { g.held with frozen := true } ∧ u.mem = s.mem ∧ u.cores = s.cores) ∧
        (s.icached (podOf x.core) pa = true → x.pc.toNat % 4 = 2 → hasSlotB (fetched (s.codeWord pa)) = false → step s = .next (x.raise s .align)))

open Sys2Proof Sys2Proof.Machine in
/-- What reset leaves in the registers, tables and memory for which the spec gives a value (R242 to R246, R257, R273, R324, R326, R402). -/
def Obligations.ResetLeavesTheSpecsValues : Prop := Claims.ResetRegisters State.reset

open Sys2Proof Sys2Proof.Machine in
/-- At reset, memory and tags are in canonical form. -/
def Obligations.ResetIsSound : Prop := State.reset.Sound

open Sys2Proof Sys2Proof.Machine in
/-- Every step of every sound state leaves memory and tags in canonical form: equal memories stay equal data (log 2). -/
def Obligations.StepKeepsSound : Prop := ∀ s t : State, s.Sound → step s = .next t → t.Sound
end

