-- ==== Sys2Proof/Laws/Table.lean ====
section
/-! SUPPORT. Laws of sparse tables: what a read gives after a write, and that every operation keeps the canonical form. -/

namespace Sys2Proof.Machine

variable {α : Type}

/-! ## Reads after writes -/

theorem Tab.find_put_same (t : Tab α) (k : Nat) (v : α) : Tab.find (Tab.put t k v) k = some v := by
  induction t with
  | nil => simp [Tab.put, Tab.find]
  | cons e t ih =>
    obtain ⟨j, w⟩ := e
    by_cases h : k = j
    · simp [Tab.put, Tab.find, h]
    · by_cases h2 : k < j <;> simp [Tab.put, Tab.find, h, h2, ih]

theorem Tab.find_put_other (t : Tab α) (k j : Nat) (v : α) (h : j ≠ k) : Tab.find (Tab.put t k v) j = Tab.find t j := by
  induction t with
  | nil => simp [Tab.put, Tab.find, h]
  | cons e t ih =>
    obtain ⟨i, w⟩ := e
    by_cases hk : k = i
    · subst hk; simp [Tab.put, Tab.find, h]
    · by_cases h2 : k < i
      · simp [Tab.put, Tab.find, hk, h2, h]
      · simp [Tab.put, Tab.find, hk, h2, ih]

theorem Tab.find_put (t : Tab α) (k j : Nat) (v : α) : Tab.find (Tab.put t k v) j = if j = k then some v else Tab.find t j := by
  by_cases h : j = k
  · subst h; simp [Tab.find_put_same]
  · simp [h, Tab.find_put_other]

theorem Tab.get_eq_find (d : α) (t : Tab α) (k : Nat) : Tab.get d t k = (Tab.find t k).getD d := by
  induction t with
  | nil => simp [Tab.get, Tab.find]
  | cons e t ih =>
    obtain ⟨j, w⟩ := e
    by_cases h : k = j <;> simp [Tab.get, Tab.find, h, ih]

theorem Tab.get_put (d : α) (t : Tab α) (k j : Nat) (v : α) : Tab.get d (Tab.put t k v) j = if j = k then v else Tab.get d t j := by
  simp only [Tab.get_eq_find, Tab.find_put]
  split <;> simp

theorem Tab.find_del_same (t : Tab α) (k : Nat) : Tab.find (Tab.del t k) k = none := by
  induction t with
  | nil => simp [Tab.del, Tab.find]
  | cons e t ih =>
    obtain ⟨j, w⟩ := e
    by_cases h : k = j <;> simp [Tab.del, Tab.find, h]
    · simpa [h] using ih
    · exact ih

theorem Tab.find_del_other (t : Tab α) (k j : Nat) (h : j ≠ k) : Tab.find (Tab.del t k) j = Tab.find t j := by
  induction t with
  | nil => simp [Tab.del, Tab.find]
  | cons e t ih =>
    obtain ⟨i, w⟩ := e
    by_cases hk : k = i
    · subst hk; simp [Tab.del, Tab.find, h, ih]
    · simp [Tab.del, Tab.find, hk, ih]

theorem Tab.find_del (t : Tab α) (k j : Nat) : Tab.find (Tab.del t k) j = if j = k then none else Tab.find t j := by
  by_cases h : j = k
  · subst h; simp [Tab.find_del_same]
  · simp [h, Tab.find_del_other]

/-- A read of a table after one entry is set. -/
theorem Tab.get_set [DecidableEq α] (d : α) (t : Tab α) (k j : Nat) (v : α) :
    Tab.get d (Tab.set d t k v) j = if j = k then v else Tab.get d t j := by
  unfold Tab.set
  split
  · rename_i h
    simp only [Tab.get_eq_find, Tab.find_del, h]
    split <;> simp
  · exact Tab.get_put d t k j v

theorem Tab.find_modify (t : Tab α) (k j : Nat) (f : α → α) :
    Tab.find (Tab.modify t k f) j = if j = k then (Tab.find t k).map f else Tab.find t j := by
  unfold Tab.modify
  cases h : Tab.find t k with
  | none => by_cases hj : j = k <;> simp [hj, h]
  | some v => simp [Tab.find_put]

theorem Tab.find_modify_same (t : Tab α) (k : Nat) (f : α → α) : Tab.find (Tab.modify t k f) k = (Tab.find t k).map f := by
  simp [Tab.find_modify]

theorem Tab.find_modify_other (t : Tab α) (k j : Nat) (f : α → α) (h : j ≠ k) :
    Tab.find (Tab.modify t k f) j = Tab.find t j := by
  simp [Tab.find_modify, h]

/-- A read of a table whose values are mapped by a function of key and value. -/
theorem Tab.find_map {β : Type} (t : Tab α) (f : Nat → α → β) (k : Nat) :
    Tab.find (t.map fun (n, v) => (n, f n v)) k = (Tab.find t k).map (f k) := by
  induction t with
  | nil => simp [Tab.find]
  | cons e t ih =>
    obtain ⟨j, w⟩ := e
    by_cases h : k = j
    · subst h; simp [Tab.find]
    · simpa [Tab.find, h] using ih

/-! ## The canonical form -/

theorem Tab.rising_mono (t : Tab α) {a b : Nat} (h : a ≤ b) (w : Tab.rising b t = true) : Tab.rising a t = true := by
  cases t with
  | nil => rfl
  | cons e t =>
    obtain ⟨j, v⟩ := e
    simp only [Tab.rising, Bool.and_eq_true, decide_eq_true_eq] at w ⊢
    exact ⟨by omega, w.2⟩

theorem Tab.rising_put (t : Tab α) (b k : Nat) (v : α) (hb : b ≤ k) (w : Tab.rising b t = true) :
    Tab.rising b (Tab.put t k v) = true := by
  induction t generalizing b with
  | nil => simp [Tab.put, Tab.rising, hb]
  | cons e t ih =>
    obtain ⟨j, x⟩ := e
    simp only [Tab.rising, Bool.and_eq_true, decide_eq_true_eq] at w
    unfold Tab.put
    split
    · rename_i h; subst h; simp [Tab.rising, w]
    · split
      · rename_i h1 h2
        simp only [Tab.rising, Bool.and_eq_true, decide_eq_true_eq]
        exact ⟨hb, by omega, w.2⟩
      · rename_i h1 h2
        simp only [Tab.rising, Bool.and_eq_true, decide_eq_true_eq]
        exact ⟨w.1, ih (j + 1) (by omega) w.2⟩

theorem Tab.rising_del (t : Tab α) (b k : Nat) (w : Tab.rising b t = true) : Tab.rising b (Tab.del t k) = true := by
  induction t generalizing b with
  | nil => rfl
  | cons e t ih =>
    obtain ⟨j, x⟩ := e
    simp only [Tab.rising, Bool.and_eq_true, decide_eq_true_eq] at w
    unfold Tab.del
    split
    · exact ih b (Tab.rising_mono t (by omega) w.2)
    · simp only [Tab.rising, Bool.and_eq_true, decide_eq_true_eq]
      exact ⟨w.1, ih (j + 1) w.2⟩

theorem Tab.mem_put (t : Tab α) (k : Nat) (v : α) (e : Nat × α) (h : e ∈ Tab.put t k v) : e = (k, v) ∨ e ∈ t := by
  induction t with
  | nil => simp [Tab.put] at h; exact .inl h
  | cons x t ih =>
    obtain ⟨j, w⟩ := x
    unfold Tab.put at h
    split at h
    · rcases List.mem_cons.1 h with h | h
      · exact .inl h
      · exact .inr (List.mem_cons_of_mem _ h)
    · split at h
      · rcases List.mem_cons.1 h with h | h
        · exact .inl h
        · exact .inr h
      · rcases List.mem_cons.1 h with h | h
        · exact .inr (h ▸ List.mem_cons_self ..)
        · exact (ih h).imp id (List.mem_cons_of_mem _)

theorem Tab.mem_del (t : Tab α) (k : Nat) (e : Nat × α) (h : e ∈ Tab.del t k) : e ∈ t := by
  induction t with
  | nil => exact h
  | cons x t ih =>
    obtain ⟨j, w⟩ := x
    unfold Tab.del at h
    split at h
    · exact List.mem_cons_of_mem _ (ih h)
    · rcases List.mem_cons.1 h with h | h
      · exact h ▸ List.mem_cons_self ..
      · exact List.mem_cons_of_mem _ (ih h)

theorem Tab.wf_nil [DecidableEq α] (d : α) : Tab.wf d ([] : Tab α) = true := rfl

theorem Tab.wf_put [DecidableEq α] (d : α) (t : Tab α) (k : Nat) (v : α) (hv : v ≠ d) (w : Tab.wf d t = true) :
    Tab.wf d (Tab.put t k v) = true := by
  simp only [Tab.wf, Bool.and_eq_true, List.all_eq_true, decide_eq_true_eq] at w ⊢
  refine ⟨Tab.rising_put t 0 k v (Nat.zero_le k) w.1, fun e he => ?_⟩
  rcases Tab.mem_put t k v e he with h | h
  · rw [h]; exact hv
  · exact w.2 e h

theorem Tab.wf_del [DecidableEq α] (d : α) (t : Tab α) (k : Nat) (w : Tab.wf d t = true) : Tab.wf d (Tab.del t k) = true := by
  simp only [Tab.wf, Bool.and_eq_true, List.all_eq_true, decide_eq_true_eq] at w ⊢
  exact ⟨Tab.rising_del t 0 k w.1, fun e he => w.2 e (Tab.mem_del t k e he)⟩

/-- Setting an entry keeps the canonical form. -/
theorem Tab.wf_set [DecidableEq α] (d : α) (t : Tab α) (k : Nat) (v : α) (w : Tab.wf d t = true) :
    Tab.wf d (Tab.set d t k v) = true := by
  unfold Tab.set
  split
  · exact Tab.wf_del d t k w
  · rename_i h; exact Tab.wf_put d t k v h w

/-- A key below every key of a rising table has no entry. -/
theorem Tab.find_none_of_rising (t : Tab α) (b k : Nat) (w : Tab.rising b t = true) (h : k < b) : Tab.find t k = none := by
  induction t generalizing b with
  | nil => rfl
  | cons e t ih =>
    obtain ⟨j, v⟩ := e
    simp only [Tab.rising, Bool.and_eq_true, decide_eq_true_eq] at w
    have : k ≠ j := by omega
    simp only [Tab.find, this, if_false]
    exact ih (j + 1) w.2 (by omega)

end Sys2Proof.Machine
end

