-- ==== Sys2Proof/Laws/Memory.lean ====
section
/-! SUPPORT. Laws of memory bytes: reads after writes, little-endian numbers, and the canonical form under writes. -/

namespace Sys2Proof.Machine

theorem get_writeBytes (t : Tab Byte) (a : Nat) (bs : List Byte) (k : Nat) :
    Tab.get 0 (writeBytes t a bs) k = if a ≤ k ∧ k < a + bs.length then (bs[k - a]?).getD 0 else Tab.get 0 t k := by
  induction bs generalizing t a with
  | nil =>
    have : ¬ (a ≤ k ∧ k < a + 0) := by omega
    rw [writeBytes, List.length_nil, if_neg this]
  | cons b bs ih =>
    simp only [writeBytes, ih, Tab.get_set, List.length_cons]
    by_cases h : k = a
    · subst h
      have h1 : ¬ (k + 1 ≤ k ∧ k < k + 1 + bs.length) := by omega
      have h2 : k ≤ k ∧ k < k + (bs.length + 1) := by omega
      rw [if_neg h1, if_pos h2]; simp
    · by_cases h3 : a + 1 ≤ k ∧ k < a + 1 + bs.length
      · have h4 : a ≤ k ∧ k < a + (bs.length + 1) := by omega
        have h5 : k - a = (k - (a + 1)) + 1 := by omega
        rw [if_pos h3, if_pos h4, h5]; simp
      · have h4 : ¬ (a ≤ k ∧ k < a + (bs.length + 1)) := by omega
        rw [if_neg h3, if_neg h4, if_neg h]

/-- A byte outside the bytes written reads as before. -/
theorem get_writeBytes_other (t : Tab Byte) (a : Nat) (bs : List Byte) (k : Nat) (h : k < a ∨ a + bs.length ≤ k) :
    Tab.get 0 (writeBytes t a bs) k = Tab.get 0 t k := by
  rw [get_writeBytes, if_neg (by omega)]

theorem readBytes_length (t : Tab Byte) (a n : Nat) : (readBytes t a n).length = n := by
  induction n generalizing a with
  | zero => rfl
  | succ n ih => simp [readBytes, ih]

/-- Bytes written are the bytes read. -/
theorem readBytes_writeBytes (t : Tab Byte) (a : Nat) (bs : List Byte) : readBytes (writeBytes t a bs) a bs.length = bs := by
  induction bs generalizing t a with
  | nil => rfl
  | cons b bs ih =>
    simp only [List.length_cons, readBytes, writeBytes, ih]
    congr 1
    rw [get_writeBytes_other _ _ _ _ (by omega), Tab.get_set, if_pos rfl]

theorem leBytes_length (n v : Nat) : (leBytes n v).length = n := by
  induction n generalizing v with
  | zero => rfl
  | succ n ih => simp [leBytes, ih]

/-- A number's low bytes, read back little-endian. -/
theorem leNat_leBytes (n v : Nat) : leNat (leBytes n v) = v % 256 ^ n := by
  induction n generalizing v with
  | zero => simp [leBytes, leNat, Nat.mod_one]
  | succ n ih =>
    simp only [leBytes, leNat, ih, BitVec.toNat_ofNat]
    have h : 256 ^ (n + 1) = 256 * 256 ^ n := by rw [Nat.pow_succ, Nat.mul_comm]
    rw [h, Nat.mod_mul]

/-- Writing bytes keeps the canonical form of memory. -/
theorem writeBytes_wf (t : Tab Byte) (a : Nat) (bs : List Byte) (w : Tab.wf 0 t = true) : Tab.wf 0 (writeBytes t a bs) = true := by
  induction bs generalizing t a with
  | nil => exact w
  | cons b bs ih => exact ih _ _ (Tab.wf_set 0 t a b w)

theorem Memory.wf_writeBytes (m : List Host.Cell) (a : Nat) (bs : List Byte) (w : Memory.wf m = true) :
    Memory.wf (writeBytes m a bs) = true := writeBytes_wf m a bs w

theorem Memory.wf_reset : Memory.wf State.reset.mem = true := rfl

end Sys2Proof.Machine
end

