-- ==== Sys2Proof/Laws/Frame.lean ====
section
/-! SUPPORT. A handler frame read back gives the group that it was written from (R377, R378). -/

namespace Sys2Proof.Machine

theorem field_left (A B : List Byte) (off n : Nat) (h : off + n ≤ A.length) : field (A ++ B) off n = field A off n := by
  unfold field
  rw [List.drop_append_of_le_length (by omega), List.take_append_of_le_length (by rw [List.length_drop]; omega)]

theorem field_right (A B : List Byte) (off n : Nat) (h : A.length ≤ off) : field (A ++ B) off n = field B (off - A.length) n := by
  unfold field
  rw [List.drop_append, List.drop_eq_nil_of_le h, List.nil_append]

theorem field_whole (A : List Byte) (n : Nat) (h : A.length = n) : field A 0 n = leNat A := by
  unfold field
  rw [List.drop_zero, ← h, List.take_length]

theorem flatMap_length (f : Nat → List Byte) (w : Nat) (hw : ∀ i, (f i).length = w) (N : Nat) : ((List.range N).flatMap f).length = w * N := by
  induction N with
  | zero => rfl
  | succ N ih => simp [List.range_succ, ih, hw, Nat.mul_succ]

theorem field_flatMap (f : Nat → List Byte) (w : Nat) (hw : ∀ i, (f i).length = w) (N i off n : Nat) (hi : i < N) (hn : off + n ≤ w) :
    field ((List.range N).flatMap f) (w * i + off) n = field (f i) off n := by
  induction N with
  | zero => omega
  | succ N ih =>
    have L := flatMap_length f w hw N
    rw [List.range_succ, List.flatMap_append, List.flatMap_singleton]
    rcases Nat.lt_or_ge i N with h | h
    · have : w * (i + 1) ≤ w * N := Nat.mul_le_mul_left _ h
      rw [Nat.mul_succ] at this
      rw [field_left _ _ _ _ (by rw [L]; omega), ih h]
    · obtain rfl : i = N := by omega
      rw [field_right _ _ _ _ (by rw [L]; omega), L, Nat.add_sub_cancel_left]

theorem get_foldl_set {α : Type} [DecidableEq α] (d : α) (f : Nat → α) (t : Tab α) (b N k : Nat) :
    Tab.get d ((List.range N).foldl (fun t n => Tab.set d t (b + n) (f n)) t) k = if b ≤ k ∧ k < b + N then f (k - b) else Tab.get d t k := by
  induction N with
  | zero => rw [if_neg (by omega)]; rfl
  | succ N ih =>
    rw [List.range_succ, List.foldl_append, List.foldl_cons, List.foldl_nil, Tab.get_set, ih]
    by_cases h : k = b + N
    · rw [if_pos h, if_pos (by omega), h, Nat.add_sub_cancel_left]
    · rw [if_neg h]
      by_cases g : b ≤ k ∧ k < b + N
      · rw [if_pos g, if_pos (by omega)]
      · rw [if_neg g, if_neg (by omega)]

theorem get_foldl_set₂ {α : Type} [DecidableEq α] (d : α) (f : Nat → Nat → α) (t : Tab α) (R k : Nat) :
    Tab.get d ((List.range R).foldl (fun t r => (List.range 96).foldl (fun t l => Tab.set d t (96 * r + l) (f r l)) t) t) k =
      if k < 96 * R then f (k / 96) (k % 96) else Tab.get d t k := by
  induction R with
  | zero => simp
  | succ R ih =>
    rw [List.range_succ (n := R), List.foldl_append, List.foldl_cons, List.foldl_nil, get_foldl_set, ih]
    by_cases h : 96 * R ≤ k ∧ k < 96 * R + 96
    · rw [if_pos h, if_pos (by omega), show k / 96 = R by omega, show k % 96 = k - 96 * R by omega]
    · rw [if_neg h]
      by_cases g : k < 96 * R
      · rw [if_pos g, if_pos (by omega)]
      · rw [if_neg g, if_neg (by omega)]

theorem flatMap_range_congr {f g : Nat → List Byte} {N : Nat} (h : ∀ i, i < N → f i = g i) : (List.range N).flatMap f = (List.range N).flatMap g := by
  simp only [List.flatMap_def]
  rw [List.map_congr_left fun i hi => h i (List.mem_range.mp hi)]

theorem zeros_length (n : Nat) : (zeros n).length = n := by simp [zeros]

theorem maskBytes_length (m : LaneMask) : (maskBytes m).length = 16 := by simp [maskBytes, leBytes_length, zeros_length]

theorem scalarBytes_length (g : Grp) : g.scalarBytes.length = 256 := flatMap_length _ 4 (fun _ => leBytes_length _ _) 64

theorem predBytes_length (g : Grp) : g.predBytes.length = 112 := flatMap_length _ 16 (fun _ => maskBytes_length _) 7

theorem vecBytes_length (g : Grp) : (g.vecBytes 8).length = 3072 :=
  flatMap_length _ 384 (fun _ => flatMap_length _ 4 (fun _ => leBytes_length _ _) 96) 8

theorem hints_bytes_length (h : Hints) : h.bytes.length = 20 := by simp [Hints.bytes, leBytes_length]

/-- The bytes of a frame before its quad records. -/
def Grp.frameHead (g : Grp) : List Byte :=
  g.scalarBytes ++ (g.predBytes ++ (zeros 16 ++ (leBytes 4 g.nmode.toNat ++ (leBytes 4 g.gflags.toNat ++ (leBytes 4 g.garm.toNat ++ (leBytes 4 g.hints.pend ++
    (g.hints.bytes ++ (leBytes 4 g.repst ++ (leBytes 4 g.frag.toNat ++ (zeros 84 ++ (g.vecBytes 8 ++ zeros 512)))))))))))

theorem frame_split (g : Grp) : g.frameBytes = g.frameHead ++ g.quadBytes := by simp only [Grp.frameBytes, Grp.frameHead, List.append_assoc]

theorem frameHead_length (g : Grp) : g.frameHead.length = 4096 := by
  simp only [Grp.frameHead, List.length_append, scalarBytes_length, predBytes_length, zeros_length, leBytes_length, hints_bytes_length, vecBytes_length]

theorem field_head (g : Grp) (off n : Nat) (h : off + n ≤ 4096) : field g.frameBytes off n = field g.frameHead off n := by
  rw [frame_split, field_left _ _ _ _ (by rw [frameHead_length]; exact h)]

theorem field_le (n v : Nat) : field (leBytes n v) 0 n = v % 256 ^ n := by rw [field_whole _ _ (leBytes_length n v), leNat_leBytes]

theorem frame_scalar (g : Grp) (n : Nat) (h : n < 64) : field g.frameBytes (4 * n) 4 = (Tab.get 0 g.s n).toNat := by
  rw [field_head _ _ _ (by omega), Grp.frameHead, field_left _ _ _ _ (by rw [scalarBytes_length]; omega)]
  refine (field_flatMap _ 4 (fun _ => leBytes_length _ _) 64 n 0 4 h (by omega)).trans ?_
  rw [field_le]
  exact Nat.mod_eq_of_lt (Tab.get 0 g.s n).isLt

theorem frame_pred (g : Grp) (n : Nat) (h : n < 7) : field g.frameBytes (0x100 + 16 * n) 12 = (Tab.get 0 g.p n).toNat := by
  rw [field_head _ _ _ (by omega), Grp.frameHead, field_right _ _ _ _ (by rw [scalarBytes_length]; omega), scalarBytes_length,
    field_left _ _ _ _ (by rw [predBytes_length]; omega), show 0x100 + 16 * n - 256 = 16 * n + 0 by omega]
  refine (field_flatMap _ 16 (fun _ => maskBytes_length _) 7 n 0 12 h (by omega)).trans ?_
  rw [maskBytes, field_left _ _ _ _ (by simp [leBytes_length]), field_le]
  exact Nat.mod_eq_of_lt (Tab.get 0 g.p n).isLt

/-- The word at an offset from 0x180 to 0x1AC of a frame. -/
theorem frame_word (g : Grp) (off : Nat) (h : 384 ≤ off) (h' : off + 4 ≤ 4096) :
    field g.frameBytes off 4 = field (leBytes 4 g.nmode.toNat ++ (leBytes 4 g.gflags.toNat ++ (leBytes 4 g.garm.toNat ++ (leBytes 4 g.hints.pend ++
      (g.hints.bytes ++ (leBytes 4 g.repst ++ (leBytes 4 g.frag.toNat ++ (zeros 84 ++ (g.vecBytes 8 ++ zeros 512))))))))) (off - 384) 4 := by
  rw [field_head _ _ _ (by omega), Grp.frameHead, field_right _ _ _ _ (by rw [scalarBytes_length]; omega), scalarBytes_length,
    field_right _ _ _ _ (by rw [predBytes_length]; omega), predBytes_length, field_right _ _ _ _ (by rw [zeros_length]; omega), zeros_length, show off - 256 - 112 - 16 = off - 384 by omega]

theorem frame_nmode (g : Grp) : field g.frameBytes 0x180 4 = g.nmode.toNat := by
  rw [frame_word _ _ (by decide) (by decide), field_left _ _ _ _ (by simp [leBytes_length]), field_le]
  exact Nat.mod_eq_of_lt g.nmode.isLt

theorem frame_gflags (g : Grp) : field g.frameBytes 0x184 4 = g.gflags.toNat := by
  rw [frame_word _ _ (by decide) (by decide), field_right _ _ _ _ (by simp [leBytes_length]), leBytes_length, field_left _ _ _ _ (by simp [leBytes_length]), field_le]
  exact Nat.mod_eq_of_lt (Nat.lt_of_lt_of_le g.gflags.isLt (by decide))

theorem frame_garm (g : Grp) : field g.frameBytes 0x188 4 = g.garm.toNat := by
  rw [frame_word _ _ (by decide) (by decide), field_right _ _ _ _ (by simp [leBytes_length]), leBytes_length, field_right _ _ _ _ (by simp [leBytes_length]), leBytes_length,
    field_left _ _ _ _ (by simp [leBytes_length]), field_le]
  exact Nat.mod_eq_of_lt (Nat.lt_of_lt_of_le g.garm.isLt (by decide))

theorem frame_pend (g : Grp) : field g.frameBytes 0x18C 4 = g.hints.pend % 2 ^ 32 := by
  rw [frame_word _ _ (by decide) (by decide), field_right _ _ _ _ (by simp [leBytes_length]), leBytes_length, field_right _ _ _ _ (by simp [leBytes_length]), leBytes_length,
    field_right _ _ _ _ (by simp [leBytes_length]), leBytes_length, field_left _ _ _ _ (by simp [leBytes_length]), field_le]
  all_goals rfl

theorem frame_rep (g : Grp) : field g.frameBytes 0x1A4 4 = g.repst % 2 ^ 32 := by
  rw [frame_word _ _ (by decide) (by decide), field_right _ _ _ _ (by simp [leBytes_length]), leBytes_length, field_right _ _ _ _ (by simp [leBytes_length]), leBytes_length,
    field_right _ _ _ _ (by simp [leBytes_length]), leBytes_length, field_right _ _ _ _ (by simp [leBytes_length]), leBytes_length,
    field_right _ _ _ _ (by simp [hints_bytes_length]), hints_bytes_length, field_left _ _ _ _ (by simp [leBytes_length]), field_le]
  all_goals rfl

theorem frame_frag (g : Grp) : field g.frameBytes 0x1A8 4 = g.frag.toNat := by
  rw [frame_word _ _ (by decide) (by decide), field_right _ _ _ _ (by simp [leBytes_length]), leBytes_length, field_right _ _ _ _ (by simp [leBytes_length]), leBytes_length,
    field_right _ _ _ _ (by simp [leBytes_length]), leBytes_length, field_right _ _ _ _ (by simp [leBytes_length]), leBytes_length,
    field_right _ _ _ _ (by simp [hints_bytes_length]), hints_bytes_length, field_right _ _ _ _ (by simp [leBytes_length]), leBytes_length,
    field_left _ _ _ _ (by simp [leBytes_length]), field_le]
  exact Nat.mod_eq_of_lt (Nat.lt_of_lt_of_le g.frag.isLt (by decide))

theorem field_zeros (n off k : Nat) : field (zeros n) off k = 0 := by
  unfold field zeros
  rw [List.drop_replicate, List.take_replicate]
  generalize min k (n - off) = m
  induction m with
  | zero => rfl
  | succ m ih => simp only [List.replicate_succ, leNat, ih]; rfl

theorem field_payload (h : Hints) (k : Nat) (hk : k < 5) (hh : h = {}) : field h.bytes (4 * k) 4 = 0 := by
  subst hh
  have : ∀ k, k < 5 → field ({} : Hints).bytes (4 * k) 4 = 0 := by decide
  exact this k hk

theorem frame_predZero (g : Grp) (n : Nat) (h : n < 7) : field g.frameBytes (0x10C + 16 * n) 4 = 0 := by
  rw [field_head _ _ _ (by omega), Grp.frameHead, field_right _ _ _ _ (by rw [scalarBytes_length]; omega), scalarBytes_length,
    field_left _ _ _ _ (by rw [predBytes_length]; omega), show 0x10C + 16 * n - 256 = 16 * n + 12 by omega]
  refine (field_flatMap _ 16 (fun _ => maskBytes_length _) 7 n 12 4 h (by omega)).trans ?_
  rw [maskBytes, field_right _ _ _ _ (by simp [leBytes_length]), field_zeros]

theorem frame_gap (g : Grp) : field g.frameBytes 0x170 16 = 0 := by
  rw [field_head _ _ _ (by decide), Grp.frameHead, field_right _ _ _ _ (by rw [scalarBytes_length] <;> decide), scalarBytes_length,
    field_right _ _ _ _ (by rw [predBytes_length] <;> decide), predBytes_length, field_left _ _ _ _ (by rw [zeros_length] <;> decide), field_zeros]

/-- The bytes of a frame from 0x180 to its quad records. -/
def Grp.frameTail (g : Grp) : List Byte :=
  leBytes 4 g.nmode.toNat ++ (leBytes 4 g.gflags.toNat ++ (leBytes 4 g.garm.toNat ++ (leBytes 4 g.hints.pend ++
    (g.hints.bytes ++ (leBytes 4 g.repst ++ (leBytes 4 g.frag.toNat ++ (zeros 84 ++ (g.vecBytes 8 ++ zeros 512))))))))

theorem frame_tail (g : Grp) (off n : Nat) (h : 384 ≤ off) (h' : off + n ≤ 4096) : field g.frameBytes off n = field g.frameTail (off - 384) n := by
  rw [field_head _ _ _ (by omega), Grp.frameHead, field_right _ _ _ _ (by rw [scalarBytes_length]; omega), scalarBytes_length,
    field_right _ _ _ _ (by rw [predBytes_length]; omega), predBytes_length, field_right _ _ _ _ (by rw [zeros_length]; omega), zeros_length, show off - 256 - 112 - 16 = off - 384 by omega]
  rfl

theorem frame_payload (g : Grp) (k : Nat) (hk : k < 5) (hh : g.hints = {}) : field g.frameBytes (0x190 + 4 * k) 4 = 0 := by
  rw [frame_tail _ _ _ (by omega) (by omega), Grp.frameTail, field_right _ _ _ _ (by rw [leBytes_length]; omega), leBytes_length,
    field_right _ _ _ _ (by rw [leBytes_length]; omega), leBytes_length, field_right _ _ _ _ (by rw [leBytes_length]; omega), leBytes_length,
    field_right _ _ _ _ (by rw [leBytes_length]; omega), leBytes_length, field_left _ _ _ _ (by rw [hints_bytes_length]; omega),
    show 0x190 + 4 * k - 384 - 4 - 4 - 4 - 4 = 4 * k by omega, field_payload _ k hk hh]

theorem frame_fragGap (g : Grp) : field g.frameBytes 0x1AC 84 = 0 := by
  rw [frame_tail _ _ _ (by decide) (by decide), Grp.frameTail, field_right _ _ _ _ (by rw [leBytes_length] <;> decide), leBytes_length,
    field_right _ _ _ _ (by rw [leBytes_length] <;> decide), leBytes_length, field_right _ _ _ _ (by rw [leBytes_length] <;> decide), leBytes_length,
    field_right _ _ _ _ (by rw [leBytes_length] <;> decide), leBytes_length, field_right _ _ _ _ (by rw [hints_bytes_length] <;> decide), hints_bytes_length,
    field_right _ _ _ _ (by rw [leBytes_length] <;> decide), leBytes_length, field_right _ _ _ _ (by rw [leBytes_length] <;> decide), leBytes_length,
    field_left _ _ _ _ (by rw [zeros_length] <;> decide), field_zeros]

theorem frame_vecGap (g : Grp) : field g.frameBytes 0xE00 512 = 0 := by
  rw [frame_tail _ _ _ (by decide) (by decide), Grp.frameTail, field_right _ _ _ _ (by rw [leBytes_length] <;> decide), leBytes_length,
    field_right _ _ _ _ (by rw [leBytes_length] <;> decide), leBytes_length, field_right _ _ _ _ (by rw [leBytes_length] <;> decide), leBytes_length,
    field_right _ _ _ _ (by rw [leBytes_length] <;> decide), leBytes_length, field_right _ _ _ _ (by rw [hints_bytes_length] <;> decide), hints_bytes_length,
    field_right _ _ _ _ (by rw [leBytes_length] <;> decide), leBytes_length, field_right _ _ _ _ (by rw [leBytes_length] <;> decide), leBytes_length,
    field_right _ _ _ _ (by rw [zeros_length] <;> decide), zeros_length, field_right _ _ _ _ (by rw [vecBytes_length] <;> decide), vecBytes_length, field_zeros]

/-- The frame of a group without pending hints keeps every reserved field zero. -/
theorem frame_clean (g : Grp) (hh : g.hints = {}) (hr : g.rep = none) (hn : g.nmode.toNat < 2 ^ 21) : frameClean g.frameBytes = true := by
  have hp : g.hints.pend = 0 := by rw [hh]; rfl
  have hs : g.repst = 0 := by rw [Grp.repst, hr]
  have h5 : g.gflags.toNat < 32 := g.gflags.isLt
  have h6 : g.garm.toNat < 32 := g.garm.isLt
  have h24 : g.frag.toNat < 2 ^ 24 := g.frag.isLt
  simp only [frameClean, frame_gap, frame_nmode, frame_gflags, frame_garm, frame_pend, frame_rep, frame_frag, frame_fragGap, frame_vecGap, hp, hs]
  simp only [Bool.and_eq_true, List.all_eq_true, List.mem_range, decide_eq_true_eq]
  refine ⟨⟨⟨⟨⟨⟨⟨⟨⟨⟨fun n h => frame_predZero g n h, trivial⟩, hn⟩, h5⟩, h6⟩, by decide⟩, fun k h => ?_⟩, by decide⟩, h24⟩, trivial⟩, trivial⟩
  rw [frame_payload g k h hh]; decide

theorem frame_vec (g : Grp) (r l : Nat) (hr : r < 8) (hl : l < 96) : field g.frameBytes (0x200 + 384 * r + 4 * l) 4 = (Tab.get 0 g.v (96 * r + l)).toNat := by
  rw [frame_word _ _ (by omega) (by omega), field_right _ _ _ _ (by rw [leBytes_length]; omega), leBytes_length, field_right _ _ _ _ (by rw [leBytes_length]; omega), leBytes_length,
    field_right _ _ _ _ (by rw [leBytes_length]; omega), leBytes_length, field_right _ _ _ _ (by rw [leBytes_length]; omega), leBytes_length,
    field_right _ _ _ _ (by rw [hints_bytes_length]; omega), hints_bytes_length, field_right _ _ _ _ (by rw [leBytes_length]; omega), leBytes_length,
    field_right _ _ _ _ (by rw [leBytes_length]; omega), leBytes_length, field_right _ _ _ _ (by rw [zeros_length]; omega), zeros_length,
    field_left _ _ _ _ (by rw [vecBytes_length]; omega), show 0x200 + 384 * r + 4 * l - 384 - 4 - 4 - 4 - 4 - 20 - 4 - 4 - 84 = 384 * r + 4 * l by omega]
  refine (field_flatMap _ 384 (fun _ => flatMap_length _ 4 (fun _ => leBytes_length _ _) 96) 8 r (4 * l) 4 hr (by omega)).trans ?_
  refine (field_flatMap _ 4 (fun _ => leBytes_length _ _) 96 l 0 4 hl (by omega)).trans ?_
  rw [field_le]
  exact Nat.mod_eq_of_lt (Tab.get 0 g.v (96 * r + l)).isLt

/-- Every quad record of the group reads back as the quad, and no quad's lanes are all orphaned. -/
def Grp.quadsGood (g : Grp) : Prop :=
  ∀ q, q < 24 → (Tab.get {} g.quads q).bytes.length = 512 ∧ readQuad (Tab.get {} g.quads q).bytes (quadBits (~~~g.exited) q) = some (Tab.get {} g.quads q) ∧
    ((Tab.get {} g.quads q).path.isSome ∨ (Tab.get {} g.quads q).settle = Tab.get {} g.quads q)

theorem quad_record (f : Nat → List Byte) (N : Nat) (hf : ∀ q, q < N → (f q).length = 512) (q : Nat) (h : q < N) :
    (((List.range N).flatMap f).drop (512 * q)).take 512 = f q := by
  have e : (List.range N).flatMap f = (List.range N).flatMap fun q => if q < N then f q else zeros 512 := flatMap_range_congr fun i hi => by rw [if_pos hi]
  rw [e]
  have L : ∀ M, ((List.range M).flatMap fun q => if q < N then f q else zeros 512).length = 512 * M := fun M =>
    flatMap_length _ 512 (fun i => by split; · exact hf i ‹_›
                                      · exact zeros_length _) M
  have key : ∀ M, q < M → (((List.range M).flatMap fun q => if q < N then f q else zeros 512).drop (512 * q)).take 512 = f q := by
    intro M hM
    induction M with
    | zero => omega
    | succ M ih =>
      rw [List.range_succ, List.flatMap_append, List.flatMap_singleton]
      rcases Nat.lt_or_ge q M with g | g
      · rw [List.drop_append_of_le_length (by rw [L]; omega), List.take_append_of_le_length (by rw [List.length_drop, L]; omega), ih g]
      · obtain rfl : q = M := by omega
        rw [List.drop_append, List.drop_eq_nil_of_le (Nat.le_of_eq (L _)), List.nil_append, L, Nat.sub_self, List.drop_zero, if_pos h, ← hf q h, List.take_length]
  exact key N h

theorem readQuads_map (b : List Byte) (live : LaneMask) (f : Nat → Quad) (l : List Nat) (h : ∀ q, q ∈ l → readQuad ((b.drop (512 * q)).take 512) (quadBits live q) = some (f q)) :
    readQuads b live l = some (l.map fun q => (q, f q)) := by
  induction l with
  | nil => rfl
  | cons q l ih =>
    unfold readQuads
    rw [h q (by simp), ih fun j hj => h j (by simp [hj])]
    rfl

theorem get_map_range {α : Type} (d : α) (f : Nat → α) (l : List Nat) (k : Nat) (h : k ∈ l) : Tab.get d (l.map fun q => (q, f q)) k = f k := by
  induction l with
  | nil => cases h
  | cons j l ih =>
    simp only [List.map_cons, Tab.get]
    by_cases e : k = j
    · rw [if_pos e, e]
    · rw [if_neg e]; exact ih (by simpa [e] using h)

/-- Two groups whose items of Table 16-3 agree have one frame. -/
theorem frame_congr {y g : Grp} (hs : ∀ n, n < 64 → Tab.get 0 y.s n = Tab.get 0 g.s n) (hp : ∀ n, n < 7 → Tab.get 0 y.p n = Tab.get 0 g.p n)
    (hv : ∀ r l, r < 8 → l < 96 → Tab.get 0 y.v (96 * r + l) = Tab.get 0 g.v (96 * r + l)) (hq : ∀ q, q < 24 → Tab.get {} y.quads q = Tab.get {} g.quads q)
    (hn : y.nmode = g.nmode) (hf : y.gflags = g.gflags) (ha : y.garm = g.garm) (hh : y.hints = g.hints) (hr : y.rep = g.rep) (hg : y.frag = g.frag) :
    y.frameBytes = g.frameBytes := by
  have es : y.scalarBytes = g.scalarBytes := flatMap_range_congr fun n h => by rw [hs n h]
  have ep : y.predBytes = g.predBytes := flatMap_range_congr fun n h => by rw [hp n h]
  have ev : y.vecBytes 8 = g.vecBytes 8 := flatMap_range_congr fun r h => flatMap_range_congr fun l k => by rw [hv r l h k]
  have eq : y.quadBytes = g.quadBytes := flatMap_range_congr fun q h => by rw [hq q h]
  simp only [Grp.frameBytes, Grp.repst, es, ep, ev, eq, hn, hf, ha, hh, hr, hg]

/-- A quad with a path is no orphan (R104). -/
theorem settle_path (q : Quad) (p : Path) (h : q.path = some p) : q.settle = q := by
  unfold Quad.settle Quad.unorphan
  simp [h]

/-- R377 and R378: the frame of a group without pending hints is good, and gives its registers and quads back. -/
theorem fromFrame_frameBytes (g x : Grp) (hx : x.exited = g.exited) (hh : g.hints = {}) (hr : g.rep = none) (hn : g.nmode.toNat < 2 ^ 21) (hq : g.quadsGood) :
    ∃ y, x.fromFrame g.frameBytes = some y ∧ y.exited = x.exited ∧ ∀ q, q < 24 → (Tab.get {} y.quads q).path.map Path.mask = (Tab.get {} g.quads q).path.map Path.mask := by
  have hp : g.hints.pend = 0 := by rw [hh]; rfl
  have rq : readQuads (g.frameBytes.drop 0x1000) (~~~x.exited) (List.range 24) = some ((List.range 24).map fun q => (q, Tab.get {} g.quads q)) := by
    refine readQuads_map _ _ _ _ fun q m => ?_
    have m := List.mem_range.mp m
    rw [frame_split, List.drop_append, List.drop_eq_nil_of_le (as := g.frameHead) (Nat.le_of_eq (frameHead_length g)), frameHead_length, List.nil_append, Nat.sub_self, List.drop_zero, Grp.quadBytes,
      quad_record _ 24 (fun q h => (hq q h).1) q m, hx]
    exact (hq q m).2.1
  have e0 : ∀ k, framePayload g.frameBytes k = none := fun k => by
    unfold framePayload
    rw [frame_pend, hp, if_neg (by simp [bitOf])]
  have er : bitOf (field g.frameBytes 0x1A4 4) 6 = false := by rw [frame_rep, Grp.repst, hr]; decide
  unfold Grp.fromFrame
  simp only [rq, e0, er, frame_nmode, frame_gflags, frame_garm, frame_frag, BitVec.ofNat_toNat, BitVec.setWidth_eq]
  have fs : ∀ n, n < 64 → field g.frameBytes (4 * n) 4 = (Tab.get 0 g.s n).toNat := frame_scalar g
  rw [if_pos (frame_clean g hh hr hn)]
  refine ⟨_, rfl, rfl, fun q h => ?_⟩
  simp only [List.map_map]
  rw [show ((List.range 24).map ((fun e : Nat × Quad => (e.1, (if g.frag.getLsbD e.1 = true then { e.2 with path := e.2.path.map fun p => { p with pc := x.fpc } } else e.2).settle)) ∘ fun q => (q, Tab.get {} g.quads q))) =
    (List.range 24).map (fun q => (q, (if g.frag.getLsbD q = true then { Tab.get {} g.quads q with path := (Tab.get {} g.quads q).path.map fun p => { p with pc := x.fpc } } else Tab.get {} g.quads q).settle)) from rfl,
    get_map_range _ _ _ _ (List.mem_range.mpr h)]
  have hs := (hq q h).2.2
  generalize Tab.get {} g.quads q = k at hs ⊢
  rcases hp' : k.path with _ | p
  · have hs : k.settle = k := by rcases hs with hs | hs
                                 · rw [hp'] at hs; cases hs
                                 · exact hs
    split
    · rw [show ({ k with path := (none : Option Path).map fun p => { p with pc := x.fpc } } : Quad) = k by cases k; simp_all, hs, hp']
    · rw [hs, hp']
  · split
    · rw [settle_path _ _ rfl]; rfl
    · rw [settle_path _ p hp', hp']

end Sys2Proof.Machine
end

