-- ==== Sys2Proof/Laws/State.lean ====
section
/-! SUPPORT. What each update of the state does to each field, by `rfl`, and reads after updates of teams, groups, cores,
contexts and lines. -/

namespace Sys2Proof.Machine

/-! ## `State.modTeam` writes `teams` alone. -/

@[simp] theorem State.modTeam_gtime (s : State) (t : Nat) (f : Team → Team) : (s.modTeam t f).gtime = s.gtime := rfl
@[simp] theorem State.modTeam_lags (s : State) (t : Nat) (f : Team → Team) : (s.modTeam t f).lags = s.lags := rfl
@[simp] theorem State.modTeam_ready (s : State) (t : Nat) (f : Team → Team) : (s.modTeam t f).ready = s.ready := rfl
@[simp] theorem State.modTeam_failed (s : State) (t : Nat) (f : Team → Team) : (s.modTeam t f).failed = s.failed := rfl
@[simp] theorem State.modTeam_smapsn (s : State) (t : Nat) (f : Team → Team) : (s.modTeam t f).smapsn = s.smapsn := rfl
@[simp] theorem State.modTeam_mem (s : State) (t : Nat) (f : Team → Team) : (s.modTeam t f).mem = s.mem := rfl
@[simp] theorem State.modTeam_tags (s : State) (t : Nat) (f : Team → Team) : (s.modTeam t f).tags = s.tags := rfl
@[simp] theorem State.modTeam_poison (s : State) (t : Nat) (f : Team → Team) : (s.modTeam t f).poison = s.poison := rfl
@[simp] theorem State.modTeam_lines (s : State) (t : Nat) (f : Team → Team) : (s.modTeam t f).lines = s.lines := rfl
@[simp] theorem State.modTeam_buckets (s : State) (t : Nat) (f : Team → Team) : (s.modTeam t f).buckets = s.buckets := rfl
@[simp] theorem State.modTeam_mapChange (s : State) (t : Nat) (f : Team → Team) : (s.modTeam t f).mapChange = s.mapChange := rfl
@[simp] theorem State.modTeam_placement (s : State) (t : Nat) (f : Team → Team) : (s.modTeam t f).placement = s.placement := rfl
@[simp] theorem State.modTeam_moving (s : State) (t : Nat) (f : Team → Team) : (s.modTeam t f).moving = s.moving := rfl
@[simp] theorem State.modTeam_placeHalvings (s : State) (t : Nat) (f : Team → Team) : (s.modTeam t f).placeHalvings = s.placeHalvings := rfl
@[simp] theorem State.modTeam_ops (s : State) (t : Nat) (f : Team → Team) : (s.modTeam t f).ops = s.ops := rfl
@[simp] theorem State.modTeam_nextOp (s : State) (t : Nat) (f : Team → Team) : (s.modTeam t f).nextOp = s.nextOp := rfl
@[simp] theorem State.modTeam_posted (s : State) (t : Nat) (f : Team → Team) : (s.modTeam t f).posted = s.posted := rfl
@[simp] theorem State.modTeam_srcWct (s : State) (t : Nat) (f : Team → Team) : (s.modTeam t f).srcWct = s.srcWct := rfl
@[simp] theorem State.modTeam_watches (s : State) (t : Nat) (f : Team → Team) : (s.modTeam t f).watches = s.watches := rfl
@[simp] theorem State.modTeam_nextUid (s : State) (t : Nat) (f : Team → Team) : (s.modTeam t f).nextUid = s.nextUid := rfl
@[simp] theorem State.modTeam_cores (s : State) (t : Nat) (f : Team → Team) : (s.modTeam t f).cores = s.cores := rfl
@[simp] theorem State.modTeam_hamper (s : State) (t : Nat) (f : Team → Team) : (s.modTeam t f).hamper = s.hamper := rfl
@[simp] theorem State.modTeam_credits (s : State) (t : Nat) (f : Team → Team) : (s.modTeam t f).credits = s.credits := rfl
@[simp] theorem State.modTeam_mcast (s : State) (t : Nat) (f : Team → Team) : (s.modTeam t f).mcast = s.mcast := rfl
@[simp] theorem State.modTeam_l2tlb (s : State) (t : Nat) (f : Team → Team) : (s.modTeam t f).l2tlb = s.l2tlb := rfl
@[simp] theorem State.modTeam_icache (s : State) (t : Nat) (f : Team → Team) : (s.modTeam t f).icache = s.icache := rfl
@[simp] theorem State.modTeam_slots (s : State) (t : Nat) (f : Team → Team) : (s.modTeam t f).slots = s.slots := rfl
@[simp] theorem State.modTeam_shadows (s : State) (t : Nat) (f : Team → Team) : (s.modTeam t f).shadows = s.shadows := rfl
@[simp] theorem State.modTeam_broadcasts (s : State) (t : Nat) (f : Team → Team) : (s.modTeam t f).broadcasts = s.broadcasts := rfl
@[simp] theorem State.modTeam_increqs (s : State) (t : Nat) (f : Team → Team) : (s.modTeam t f).increqs = s.increqs := rfl
@[simp] theorem State.modTeam_heaps (s : State) (t : Nat) (f : Team → Team) : (s.modTeam t f).heaps = s.heaps := rfl
@[simp] theorem State.modTeam_heapTurn (s : State) (t : Nat) (f : Team → Team) : (s.modTeam t f).heapTurn = s.heapTurn := rfl
@[simp] theorem State.modTeam_spilled (s : State) (t : Nat) (f : Team → Team) : (s.modTeam t f).spilled = s.spilled := rfl
@[simp] theorem State.modTeam_grids (s : State) (t : Nat) (f : Team → Team) : (s.modTeam t f).grids = s.grids := rfl
@[simp] theorem State.modTeam_queues (s : State) (t : Nat) (f : Team → Team) : (s.modTeam t f).queues = s.queues := rfl
@[simp] theorem State.modTeam_lastQueue (s : State) (t : Nat) (f : Team → Team) : (s.modTeam t f).lastQueue = s.lastQueue := rfl
@[simp] theorem State.modTeam_launches (s : State) (t : Nat) (f : Team → Team) : (s.modTeam t f).launches = s.launches := rfl
@[simp] theorem State.modTeam_pairLaunches (s : State) (t : Nat) (f : Team → Team) : (s.modTeam t f).pairLaunches = s.pairLaunches := rfl
@[simp] theorem State.modTeam_raced (s : State) (t : Nat) (f : Team → Team) : (s.modTeam t f).raced = s.raced := rfl
@[simp] theorem State.modTeam_stale (s : State) (t : Nat) (f : Team → Team) : (s.modTeam t f).stale = s.stale := rfl
@[simp] theorem State.modTeam_padds (s : State) (t : Nat) (f : Team → Team) : (s.modTeam t f).padds = s.padds := rfl
@[simp] theorem State.modTeam_ctxs (s : State) (t : Nat) (f : Team → Team) : (s.modTeam t f).ctxs = s.ctxs := rfl
@[simp] theorem State.modTeam_counts (s : State) (t : Nat) (f : Team → Team) : (s.modTeam t f).counts = s.counts := rfl
@[simp] theorem State.modTeam_ring (s : State) (t : Nat) (f : Team → Team) : (s.modTeam t f).ring = s.ring := rfl
@[simp] theorem State.modTeam_mgmt (s : State) (t : Nat) (f : Team → Team) : (s.modTeam t f).mgmt = s.mgmt := rfl
@[simp] theorem State.modTeam_msix (s : State) (t : Nat) (f : Team → Team) : (s.modTeam t f).msix = s.msix := rfl
@[simp] theorem State.modTeam_peers (s : State) (t : Nat) (f : Team → Team) : (s.modTeam t f).peers = s.peers := rfl
@[simp] theorem State.modTeam_remap (s : State) (t : Nat) (f : Team → Team) : (s.modTeam t f).remap = s.remap := rfl
@[simp] theorem State.modTeam_mapchg (s : State) (t : Nat) (f : Team → Team) : (s.modTeam t f).mapchg = s.mapchg := rfl
@[simp] theorem State.modTeam_migrate (s : State) (t : Nat) (f : Team → Team) : (s.modTeam t f).migrate = s.migrate := rfl
@[simp] theorem State.modTeam_corrected (s : State) (t : Nat) (f : Team → Team) : (s.modTeam t f).corrected = s.corrected := rfl
@[simp] theorem State.modTeam_cleandrop (s : State) (t : Nat) (f : Team → Team) : (s.modTeam t f).cleandrop = s.cleandrop := rfl
@[simp] theorem State.modTeam_poisoned (s : State) (t : Nat) (f : Team → Team) : (s.modTeam t f).poisoned = s.poisoned := rfl
@[simp] theorem State.modTeam_telemetry (s : State) (t : Nat) (f : Team → Team) : (s.modTeam t f).telemetry = s.telemetry := rfl
@[simp] theorem State.modTeam_powerCap (s : State) (t : Nat) (f : Team → Team) : (s.modTeam t f).powerCap = s.powerCap := rfl
@[simp] theorem State.modTeam_powerLimit (s : State) (t : Nat) (f : Team → Team) : (s.modTeam t f).powerLimit = s.powerLimit := rfl
@[simp] theorem State.modTeam_tempLimit (s : State) (t : Nat) (f : Team → Team) : (s.modTeam t f).tempLimit = s.tempLimit := rfl
@[simp] theorem State.modTeam_capIntervals (s : State) (t : Nat) (f : Team → Team) : (s.modTeam t f).capIntervals = s.capIntervals := rfl
@[simp] theorem State.modTeam_ppm (s : State) (t : Nat) (f : Team → Team) : (s.modTeam t f).ppm = s.ppm := rfl
@[simp] theorem State.modTeam_capLast (s : State) (t : Nat) (f : Team → Team) : (s.modTeam t f).capLast = s.capLast := rfl
@[simp] theorem State.modTeam_crossed (s : State) (t : Nat) (f : Team → Team) : (s.modTeam t f).crossed = s.crossed := rfl
@[simp] theorem State.modTeam_ideKeys (s : State) (t : Nat) (f : Team → Team) : (s.modTeam t f).ideKeys = s.ideKeys := rfl
@[simp] theorem State.modTeam_skews (s : State) (t : Nat) (f : Team → Team) : (s.modTeam t f).skews = s.skews := rfl
@[simp] theorem State.modTeam_timeSource (s : State) (t : Nat) (f : Team → Team) : (s.modTeam t f).timeSource = s.timeSource := rfl
@[simp] theorem State.modTeam_margins (s : State) (t : Nat) (f : Team → Team) : (s.modTeam t f).margins = s.margins := rfl
@[simp] theorem State.modTeam_retrained (s : State) (t : Nat) (f : Team → Team) : (s.modTeam t f).retrained = s.retrained := rfl
@[simp] theorem State.modTeam_firmware (s : State) (t : Nat) (f : Team → Team) : (s.modTeam t f).firmware = s.firmware := rfl
@[simp] theorem State.modTeam_spdm (s : State) (t : Nat) (f : Team → Team) : (s.modTeam t f).spdm = s.spdm := rfl
@[simp] theorem State.modTeam_sessions (s : State) (t : Nat) (f : Team → Team) : (s.modTeam t f).sessions = s.sessions := rfl
@[simp] theorem State.modTeam_sessionOpen (s : State) (t : Nat) (f : Team → Team) : (s.modTeam t f).sessionOpen = s.sessionOpen := rfl
@[simp] theorem State.modTeam_replies (s : State) (t : Nat) (f : Team → Team) : (s.modTeam t f).replies = s.replies := rfl
@[simp] theorem State.modTeam_acks (s : State) (t : Nat) (f : Team → Team) : (s.modTeam t f).acks = s.acks := rfl
@[simp] theorem State.modTeam_acked (s : State) (t : Nat) (f : Team → Team) : (s.modTeam t f).acked = s.acked := rfl
@[simp] theorem State.modTeam_readyEvents (s : State) (t : Nat) (f : Team → Team) : (s.modTeam t f).readyEvents = s.readyEvents := rfl
@[simp] theorem State.modTeam_powerEvents (s : State) (t : Nat) (f : Team → Team) : (s.modTeam t f).powerEvents = s.powerEvents := rfl
@[simp] theorem State.modTeam_stashSerial (s : State) (t : Nat) (f : Team → Team) : (s.modTeam t f).stashSerial = s.stashSerial := rfl
@[simp] theorem State.modTeam_quarantine (s : State) (t : Nat) (f : Team → Team) : (s.modTeam t f).quarantine = s.quarantine := rfl
@[simp] theorem State.modTeam_freeCtr (s : State) (t : Nat) (f : Team → Team) : (s.modTeam t f).freeCtr = s.freeCtr := rfl
@[simp] theorem State.modTeam_order (s : State) (t : Nat) (f : Team → Team) : (s.modTeam t f).order = s.order := rfl
@[simp] theorem State.modTeam_agenda (s : State) (t : Nat) (f : Team → Team) : (s.modTeam t f).agenda = s.agenda := rfl
@[simp] theorem State.modTeam_pick (s : State) (t : Nat) (f : Team → Team) : (s.modTeam t f).pick = s.pick := rfl
@[simp] theorem State.modTeam_cur (s : State) (t : Nat) (f : Team → Team) : (s.modTeam t f).cur = s.cur := rfl

/-! ## `State.modGrp` writes `teams` alone. -/

@[simp] theorem State.modGrp_gtime (s : State) (t k : Nat) (f : Grp → Grp) : (s.modGrp t k f).gtime = s.gtime := rfl
@[simp] theorem State.modGrp_lags (s : State) (t k : Nat) (f : Grp → Grp) : (s.modGrp t k f).lags = s.lags := rfl
@[simp] theorem State.modGrp_ready (s : State) (t k : Nat) (f : Grp → Grp) : (s.modGrp t k f).ready = s.ready := rfl
@[simp] theorem State.modGrp_failed (s : State) (t k : Nat) (f : Grp → Grp) : (s.modGrp t k f).failed = s.failed := rfl
@[simp] theorem State.modGrp_smapsn (s : State) (t k : Nat) (f : Grp → Grp) : (s.modGrp t k f).smapsn = s.smapsn := rfl
@[simp] theorem State.modGrp_mem (s : State) (t k : Nat) (f : Grp → Grp) : (s.modGrp t k f).mem = s.mem := rfl
@[simp] theorem State.modGrp_tags (s : State) (t k : Nat) (f : Grp → Grp) : (s.modGrp t k f).tags = s.tags := rfl
@[simp] theorem State.modGrp_poison (s : State) (t k : Nat) (f : Grp → Grp) : (s.modGrp t k f).poison = s.poison := rfl
@[simp] theorem State.modGrp_lines (s : State) (t k : Nat) (f : Grp → Grp) : (s.modGrp t k f).lines = s.lines := rfl
@[simp] theorem State.modGrp_buckets (s : State) (t k : Nat) (f : Grp → Grp) : (s.modGrp t k f).buckets = s.buckets := rfl
@[simp] theorem State.modGrp_mapChange (s : State) (t k : Nat) (f : Grp → Grp) : (s.modGrp t k f).mapChange = s.mapChange := rfl
@[simp] theorem State.modGrp_placement (s : State) (t k : Nat) (f : Grp → Grp) : (s.modGrp t k f).placement = s.placement := rfl
@[simp] theorem State.modGrp_moving (s : State) (t k : Nat) (f : Grp → Grp) : (s.modGrp t k f).moving = s.moving := rfl
@[simp] theorem State.modGrp_placeHalvings (s : State) (t k : Nat) (f : Grp → Grp) : (s.modGrp t k f).placeHalvings = s.placeHalvings := rfl
@[simp] theorem State.modGrp_ops (s : State) (t k : Nat) (f : Grp → Grp) : (s.modGrp t k f).ops = s.ops := rfl
@[simp] theorem State.modGrp_nextOp (s : State) (t k : Nat) (f : Grp → Grp) : (s.modGrp t k f).nextOp = s.nextOp := rfl
@[simp] theorem State.modGrp_posted (s : State) (t k : Nat) (f : Grp → Grp) : (s.modGrp t k f).posted = s.posted := rfl
@[simp] theorem State.modGrp_srcWct (s : State) (t k : Nat) (f : Grp → Grp) : (s.modGrp t k f).srcWct = s.srcWct := rfl
@[simp] theorem State.modGrp_watches (s : State) (t k : Nat) (f : Grp → Grp) : (s.modGrp t k f).watches = s.watches := rfl
@[simp] theorem State.modGrp_nextUid (s : State) (t k : Nat) (f : Grp → Grp) : (s.modGrp t k f).nextUid = s.nextUid := rfl
@[simp] theorem State.modGrp_cores (s : State) (t k : Nat) (f : Grp → Grp) : (s.modGrp t k f).cores = s.cores := rfl
@[simp] theorem State.modGrp_hamper (s : State) (t k : Nat) (f : Grp → Grp) : (s.modGrp t k f).hamper = s.hamper := rfl
@[simp] theorem State.modGrp_credits (s : State) (t k : Nat) (f : Grp → Grp) : (s.modGrp t k f).credits = s.credits := rfl
@[simp] theorem State.modGrp_mcast (s : State) (t k : Nat) (f : Grp → Grp) : (s.modGrp t k f).mcast = s.mcast := rfl
@[simp] theorem State.modGrp_l2tlb (s : State) (t k : Nat) (f : Grp → Grp) : (s.modGrp t k f).l2tlb = s.l2tlb := rfl
@[simp] theorem State.modGrp_icache (s : State) (t k : Nat) (f : Grp → Grp) : (s.modGrp t k f).icache = s.icache := rfl
@[simp] theorem State.modGrp_slots (s : State) (t k : Nat) (f : Grp → Grp) : (s.modGrp t k f).slots = s.slots := rfl
@[simp] theorem State.modGrp_shadows (s : State) (t k : Nat) (f : Grp → Grp) : (s.modGrp t k f).shadows = s.shadows := rfl
@[simp] theorem State.modGrp_broadcasts (s : State) (t k : Nat) (f : Grp → Grp) : (s.modGrp t k f).broadcasts = s.broadcasts := rfl
@[simp] theorem State.modGrp_increqs (s : State) (t k : Nat) (f : Grp → Grp) : (s.modGrp t k f).increqs = s.increqs := rfl
@[simp] theorem State.modGrp_heaps (s : State) (t k : Nat) (f : Grp → Grp) : (s.modGrp t k f).heaps = s.heaps := rfl
@[simp] theorem State.modGrp_heapTurn (s : State) (t k : Nat) (f : Grp → Grp) : (s.modGrp t k f).heapTurn = s.heapTurn := rfl
@[simp] theorem State.modGrp_spilled (s : State) (t k : Nat) (f : Grp → Grp) : (s.modGrp t k f).spilled = s.spilled := rfl
@[simp] theorem State.modGrp_grids (s : State) (t k : Nat) (f : Grp → Grp) : (s.modGrp t k f).grids = s.grids := rfl
@[simp] theorem State.modGrp_queues (s : State) (t k : Nat) (f : Grp → Grp) : (s.modGrp t k f).queues = s.queues := rfl
@[simp] theorem State.modGrp_lastQueue (s : State) (t k : Nat) (f : Grp → Grp) : (s.modGrp t k f).lastQueue = s.lastQueue := rfl
@[simp] theorem State.modGrp_launches (s : State) (t k : Nat) (f : Grp → Grp) : (s.modGrp t k f).launches = s.launches := rfl
@[simp] theorem State.modGrp_pairLaunches (s : State) (t k : Nat) (f : Grp → Grp) : (s.modGrp t k f).pairLaunches = s.pairLaunches := rfl
@[simp] theorem State.modGrp_raced (s : State) (t k : Nat) (f : Grp → Grp) : (s.modGrp t k f).raced = s.raced := rfl
@[simp] theorem State.modGrp_stale (s : State) (t k : Nat) (f : Grp → Grp) : (s.modGrp t k f).stale = s.stale := rfl
@[simp] theorem State.modGrp_padds (s : State) (t k : Nat) (f : Grp → Grp) : (s.modGrp t k f).padds = s.padds := rfl
@[simp] theorem State.modGrp_ctxs (s : State) (t k : Nat) (f : Grp → Grp) : (s.modGrp t k f).ctxs = s.ctxs := rfl
@[simp] theorem State.modGrp_counts (s : State) (t k : Nat) (f : Grp → Grp) : (s.modGrp t k f).counts = s.counts := rfl
@[simp] theorem State.modGrp_ring (s : State) (t k : Nat) (f : Grp → Grp) : (s.modGrp t k f).ring = s.ring := rfl
@[simp] theorem State.modGrp_mgmt (s : State) (t k : Nat) (f : Grp → Grp) : (s.modGrp t k f).mgmt = s.mgmt := rfl
@[simp] theorem State.modGrp_msix (s : State) (t k : Nat) (f : Grp → Grp) : (s.modGrp t k f).msix = s.msix := rfl
@[simp] theorem State.modGrp_peers (s : State) (t k : Nat) (f : Grp → Grp) : (s.modGrp t k f).peers = s.peers := rfl
@[simp] theorem State.modGrp_remap (s : State) (t k : Nat) (f : Grp → Grp) : (s.modGrp t k f).remap = s.remap := rfl
@[simp] theorem State.modGrp_mapchg (s : State) (t k : Nat) (f : Grp → Grp) : (s.modGrp t k f).mapchg = s.mapchg := rfl
@[simp] theorem State.modGrp_migrate (s : State) (t k : Nat) (f : Grp → Grp) : (s.modGrp t k f).migrate = s.migrate := rfl
@[simp] theorem State.modGrp_corrected (s : State) (t k : Nat) (f : Grp → Grp) : (s.modGrp t k f).corrected = s.corrected := rfl
@[simp] theorem State.modGrp_cleandrop (s : State) (t k : Nat) (f : Grp → Grp) : (s.modGrp t k f).cleandrop = s.cleandrop := rfl
@[simp] theorem State.modGrp_poisoned (s : State) (t k : Nat) (f : Grp → Grp) : (s.modGrp t k f).poisoned = s.poisoned := rfl
@[simp] theorem State.modGrp_telemetry (s : State) (t k : Nat) (f : Grp → Grp) : (s.modGrp t k f).telemetry = s.telemetry := rfl
@[simp] theorem State.modGrp_powerCap (s : State) (t k : Nat) (f : Grp → Grp) : (s.modGrp t k f).powerCap = s.powerCap := rfl
@[simp] theorem State.modGrp_powerLimit (s : State) (t k : Nat) (f : Grp → Grp) : (s.modGrp t k f).powerLimit = s.powerLimit := rfl
@[simp] theorem State.modGrp_tempLimit (s : State) (t k : Nat) (f : Grp → Grp) : (s.modGrp t k f).tempLimit = s.tempLimit := rfl
@[simp] theorem State.modGrp_capIntervals (s : State) (t k : Nat) (f : Grp → Grp) : (s.modGrp t k f).capIntervals = s.capIntervals := rfl
@[simp] theorem State.modGrp_ppm (s : State) (t k : Nat) (f : Grp → Grp) : (s.modGrp t k f).ppm = s.ppm := rfl
@[simp] theorem State.modGrp_capLast (s : State) (t k : Nat) (f : Grp → Grp) : (s.modGrp t k f).capLast = s.capLast := rfl
@[simp] theorem State.modGrp_crossed (s : State) (t k : Nat) (f : Grp → Grp) : (s.modGrp t k f).crossed = s.crossed := rfl
@[simp] theorem State.modGrp_ideKeys (s : State) (t k : Nat) (f : Grp → Grp) : (s.modGrp t k f).ideKeys = s.ideKeys := rfl
@[simp] theorem State.modGrp_skews (s : State) (t k : Nat) (f : Grp → Grp) : (s.modGrp t k f).skews = s.skews := rfl
@[simp] theorem State.modGrp_timeSource (s : State) (t k : Nat) (f : Grp → Grp) : (s.modGrp t k f).timeSource = s.timeSource := rfl
@[simp] theorem State.modGrp_margins (s : State) (t k : Nat) (f : Grp → Grp) : (s.modGrp t k f).margins = s.margins := rfl
@[simp] theorem State.modGrp_retrained (s : State) (t k : Nat) (f : Grp → Grp) : (s.modGrp t k f).retrained = s.retrained := rfl
@[simp] theorem State.modGrp_firmware (s : State) (t k : Nat) (f : Grp → Grp) : (s.modGrp t k f).firmware = s.firmware := rfl
@[simp] theorem State.modGrp_spdm (s : State) (t k : Nat) (f : Grp → Grp) : (s.modGrp t k f).spdm = s.spdm := rfl
@[simp] theorem State.modGrp_sessions (s : State) (t k : Nat) (f : Grp → Grp) : (s.modGrp t k f).sessions = s.sessions := rfl
@[simp] theorem State.modGrp_sessionOpen (s : State) (t k : Nat) (f : Grp → Grp) : (s.modGrp t k f).sessionOpen = s.sessionOpen := rfl
@[simp] theorem State.modGrp_replies (s : State) (t k : Nat) (f : Grp → Grp) : (s.modGrp t k f).replies = s.replies := rfl
@[simp] theorem State.modGrp_acks (s : State) (t k : Nat) (f : Grp → Grp) : (s.modGrp t k f).acks = s.acks := rfl
@[simp] theorem State.modGrp_acked (s : State) (t k : Nat) (f : Grp → Grp) : (s.modGrp t k f).acked = s.acked := rfl
@[simp] theorem State.modGrp_readyEvents (s : State) (t k : Nat) (f : Grp → Grp) : (s.modGrp t k f).readyEvents = s.readyEvents := rfl
@[simp] theorem State.modGrp_powerEvents (s : State) (t k : Nat) (f : Grp → Grp) : (s.modGrp t k f).powerEvents = s.powerEvents := rfl
@[simp] theorem State.modGrp_stashSerial (s : State) (t k : Nat) (f : Grp → Grp) : (s.modGrp t k f).stashSerial = s.stashSerial := rfl
@[simp] theorem State.modGrp_quarantine (s : State) (t k : Nat) (f : Grp → Grp) : (s.modGrp t k f).quarantine = s.quarantine := rfl
@[simp] theorem State.modGrp_freeCtr (s : State) (t k : Nat) (f : Grp → Grp) : (s.modGrp t k f).freeCtr = s.freeCtr := rfl
@[simp] theorem State.modGrp_order (s : State) (t k : Nat) (f : Grp → Grp) : (s.modGrp t k f).order = s.order := rfl
@[simp] theorem State.modGrp_agenda (s : State) (t k : Nat) (f : Grp → Grp) : (s.modGrp t k f).agenda = s.agenda := rfl
@[simp] theorem State.modGrp_pick (s : State) (t k : Nat) (f : Grp → Grp) : (s.modGrp t k f).pick = s.pick := rfl
@[simp] theorem State.modGrp_cur (s : State) (t k : Nat) (f : Grp → Grp) : (s.modGrp t k f).cur = s.cur := rfl

/-! ## `State.modCore` writes `cores` alone. -/

@[simp] theorem State.modCore_gtime (s : State) (c : Nat) (f : Core → Core) : (s.modCore c f).gtime = s.gtime := rfl
@[simp] theorem State.modCore_lags (s : State) (c : Nat) (f : Core → Core) : (s.modCore c f).lags = s.lags := rfl
@[simp] theorem State.modCore_ready (s : State) (c : Nat) (f : Core → Core) : (s.modCore c f).ready = s.ready := rfl
@[simp] theorem State.modCore_failed (s : State) (c : Nat) (f : Core → Core) : (s.modCore c f).failed = s.failed := rfl
@[simp] theorem State.modCore_smapsn (s : State) (c : Nat) (f : Core → Core) : (s.modCore c f).smapsn = s.smapsn := rfl
@[simp] theorem State.modCore_mem (s : State) (c : Nat) (f : Core → Core) : (s.modCore c f).mem = s.mem := rfl
@[simp] theorem State.modCore_tags (s : State) (c : Nat) (f : Core → Core) : (s.modCore c f).tags = s.tags := rfl
@[simp] theorem State.modCore_poison (s : State) (c : Nat) (f : Core → Core) : (s.modCore c f).poison = s.poison := rfl
@[simp] theorem State.modCore_lines (s : State) (c : Nat) (f : Core → Core) : (s.modCore c f).lines = s.lines := rfl
@[simp] theorem State.modCore_buckets (s : State) (c : Nat) (f : Core → Core) : (s.modCore c f).buckets = s.buckets := rfl
@[simp] theorem State.modCore_mapChange (s : State) (c : Nat) (f : Core → Core) : (s.modCore c f).mapChange = s.mapChange := rfl
@[simp] theorem State.modCore_placement (s : State) (c : Nat) (f : Core → Core) : (s.modCore c f).placement = s.placement := rfl
@[simp] theorem State.modCore_moving (s : State) (c : Nat) (f : Core → Core) : (s.modCore c f).moving = s.moving := rfl
@[simp] theorem State.modCore_placeHalvings (s : State) (c : Nat) (f : Core → Core) : (s.modCore c f).placeHalvings = s.placeHalvings := rfl
@[simp] theorem State.modCore_ops (s : State) (c : Nat) (f : Core → Core) : (s.modCore c f).ops = s.ops := rfl
@[simp] theorem State.modCore_nextOp (s : State) (c : Nat) (f : Core → Core) : (s.modCore c f).nextOp = s.nextOp := rfl
@[simp] theorem State.modCore_posted (s : State) (c : Nat) (f : Core → Core) : (s.modCore c f).posted = s.posted := rfl
@[simp] theorem State.modCore_srcWct (s : State) (c : Nat) (f : Core → Core) : (s.modCore c f).srcWct = s.srcWct := rfl
@[simp] theorem State.modCore_watches (s : State) (c : Nat) (f : Core → Core) : (s.modCore c f).watches = s.watches := rfl
@[simp] theorem State.modCore_teams (s : State) (c : Nat) (f : Core → Core) : (s.modCore c f).teams = s.teams := rfl
@[simp] theorem State.modCore_nextUid (s : State) (c : Nat) (f : Core → Core) : (s.modCore c f).nextUid = s.nextUid := rfl
@[simp] theorem State.modCore_hamper (s : State) (c : Nat) (f : Core → Core) : (s.modCore c f).hamper = s.hamper := rfl
@[simp] theorem State.modCore_credits (s : State) (c : Nat) (f : Core → Core) : (s.modCore c f).credits = s.credits := rfl
@[simp] theorem State.modCore_mcast (s : State) (c : Nat) (f : Core → Core) : (s.modCore c f).mcast = s.mcast := rfl
@[simp] theorem State.modCore_l2tlb (s : State) (c : Nat) (f : Core → Core) : (s.modCore c f).l2tlb = s.l2tlb := rfl
@[simp] theorem State.modCore_icache (s : State) (c : Nat) (f : Core → Core) : (s.modCore c f).icache = s.icache := rfl
@[simp] theorem State.modCore_slots (s : State) (c : Nat) (f : Core → Core) : (s.modCore c f).slots = s.slots := rfl
@[simp] theorem State.modCore_shadows (s : State) (c : Nat) (f : Core → Core) : (s.modCore c f).shadows = s.shadows := rfl
@[simp] theorem State.modCore_broadcasts (s : State) (c : Nat) (f : Core → Core) : (s.modCore c f).broadcasts = s.broadcasts := rfl
@[simp] theorem State.modCore_increqs (s : State) (c : Nat) (f : Core → Core) : (s.modCore c f).increqs = s.increqs := rfl
@[simp] theorem State.modCore_heaps (s : State) (c : Nat) (f : Core → Core) : (s.modCore c f).heaps = s.heaps := rfl
@[simp] theorem State.modCore_heapTurn (s : State) (c : Nat) (f : Core → Core) : (s.modCore c f).heapTurn = s.heapTurn := rfl
@[simp] theorem State.modCore_spilled (s : State) (c : Nat) (f : Core → Core) : (s.modCore c f).spilled = s.spilled := rfl
@[simp] theorem State.modCore_grids (s : State) (c : Nat) (f : Core → Core) : (s.modCore c f).grids = s.grids := rfl
@[simp] theorem State.modCore_queues (s : State) (c : Nat) (f : Core → Core) : (s.modCore c f).queues = s.queues := rfl
@[simp] theorem State.modCore_lastQueue (s : State) (c : Nat) (f : Core → Core) : (s.modCore c f).lastQueue = s.lastQueue := rfl
@[simp] theorem State.modCore_launches (s : State) (c : Nat) (f : Core → Core) : (s.modCore c f).launches = s.launches := rfl
@[simp] theorem State.modCore_pairLaunches (s : State) (c : Nat) (f : Core → Core) : (s.modCore c f).pairLaunches = s.pairLaunches := rfl
@[simp] theorem State.modCore_raced (s : State) (c : Nat) (f : Core → Core) : (s.modCore c f).raced = s.raced := rfl
@[simp] theorem State.modCore_stale (s : State) (c : Nat) (f : Core → Core) : (s.modCore c f).stale = s.stale := rfl
@[simp] theorem State.modCore_padds (s : State) (c : Nat) (f : Core → Core) : (s.modCore c f).padds = s.padds := rfl
@[simp] theorem State.modCore_ctxs (s : State) (c : Nat) (f : Core → Core) : (s.modCore c f).ctxs = s.ctxs := rfl
@[simp] theorem State.modCore_counts (s : State) (c : Nat) (f : Core → Core) : (s.modCore c f).counts = s.counts := rfl
@[simp] theorem State.modCore_ring (s : State) (c : Nat) (f : Core → Core) : (s.modCore c f).ring = s.ring := rfl
@[simp] theorem State.modCore_mgmt (s : State) (c : Nat) (f : Core → Core) : (s.modCore c f).mgmt = s.mgmt := rfl
@[simp] theorem State.modCore_msix (s : State) (c : Nat) (f : Core → Core) : (s.modCore c f).msix = s.msix := rfl
@[simp] theorem State.modCore_peers (s : State) (c : Nat) (f : Core → Core) : (s.modCore c f).peers = s.peers := rfl
@[simp] theorem State.modCore_remap (s : State) (c : Nat) (f : Core → Core) : (s.modCore c f).remap = s.remap := rfl
@[simp] theorem State.modCore_mapchg (s : State) (c : Nat) (f : Core → Core) : (s.modCore c f).mapchg = s.mapchg := rfl
@[simp] theorem State.modCore_migrate (s : State) (c : Nat) (f : Core → Core) : (s.modCore c f).migrate = s.migrate := rfl
@[simp] theorem State.modCore_corrected (s : State) (c : Nat) (f : Core → Core) : (s.modCore c f).corrected = s.corrected := rfl
@[simp] theorem State.modCore_cleandrop (s : State) (c : Nat) (f : Core → Core) : (s.modCore c f).cleandrop = s.cleandrop := rfl
@[simp] theorem State.modCore_poisoned (s : State) (c : Nat) (f : Core → Core) : (s.modCore c f).poisoned = s.poisoned := rfl
@[simp] theorem State.modCore_telemetry (s : State) (c : Nat) (f : Core → Core) : (s.modCore c f).telemetry = s.telemetry := rfl
@[simp] theorem State.modCore_powerCap (s : State) (c : Nat) (f : Core → Core) : (s.modCore c f).powerCap = s.powerCap := rfl
@[simp] theorem State.modCore_powerLimit (s : State) (c : Nat) (f : Core → Core) : (s.modCore c f).powerLimit = s.powerLimit := rfl
@[simp] theorem State.modCore_tempLimit (s : State) (c : Nat) (f : Core → Core) : (s.modCore c f).tempLimit = s.tempLimit := rfl
@[simp] theorem State.modCore_capIntervals (s : State) (c : Nat) (f : Core → Core) : (s.modCore c f).capIntervals = s.capIntervals := rfl
@[simp] theorem State.modCore_ppm (s : State) (c : Nat) (f : Core → Core) : (s.modCore c f).ppm = s.ppm := rfl
@[simp] theorem State.modCore_capLast (s : State) (c : Nat) (f : Core → Core) : (s.modCore c f).capLast = s.capLast := rfl
@[simp] theorem State.modCore_crossed (s : State) (c : Nat) (f : Core → Core) : (s.modCore c f).crossed = s.crossed := rfl
@[simp] theorem State.modCore_ideKeys (s : State) (c : Nat) (f : Core → Core) : (s.modCore c f).ideKeys = s.ideKeys := rfl
@[simp] theorem State.modCore_skews (s : State) (c : Nat) (f : Core → Core) : (s.modCore c f).skews = s.skews := rfl
@[simp] theorem State.modCore_timeSource (s : State) (c : Nat) (f : Core → Core) : (s.modCore c f).timeSource = s.timeSource := rfl
@[simp] theorem State.modCore_margins (s : State) (c : Nat) (f : Core → Core) : (s.modCore c f).margins = s.margins := rfl
@[simp] theorem State.modCore_retrained (s : State) (c : Nat) (f : Core → Core) : (s.modCore c f).retrained = s.retrained := rfl
@[simp] theorem State.modCore_firmware (s : State) (c : Nat) (f : Core → Core) : (s.modCore c f).firmware = s.firmware := rfl
@[simp] theorem State.modCore_spdm (s : State) (c : Nat) (f : Core → Core) : (s.modCore c f).spdm = s.spdm := rfl
@[simp] theorem State.modCore_sessions (s : State) (c : Nat) (f : Core → Core) : (s.modCore c f).sessions = s.sessions := rfl
@[simp] theorem State.modCore_sessionOpen (s : State) (c : Nat) (f : Core → Core) : (s.modCore c f).sessionOpen = s.sessionOpen := rfl
@[simp] theorem State.modCore_replies (s : State) (c : Nat) (f : Core → Core) : (s.modCore c f).replies = s.replies := rfl
@[simp] theorem State.modCore_acks (s : State) (c : Nat) (f : Core → Core) : (s.modCore c f).acks = s.acks := rfl
@[simp] theorem State.modCore_acked (s : State) (c : Nat) (f : Core → Core) : (s.modCore c f).acked = s.acked := rfl
@[simp] theorem State.modCore_readyEvents (s : State) (c : Nat) (f : Core → Core) : (s.modCore c f).readyEvents = s.readyEvents := rfl
@[simp] theorem State.modCore_powerEvents (s : State) (c : Nat) (f : Core → Core) : (s.modCore c f).powerEvents = s.powerEvents := rfl
@[simp] theorem State.modCore_stashSerial (s : State) (c : Nat) (f : Core → Core) : (s.modCore c f).stashSerial = s.stashSerial := rfl
@[simp] theorem State.modCore_quarantine (s : State) (c : Nat) (f : Core → Core) : (s.modCore c f).quarantine = s.quarantine := rfl
@[simp] theorem State.modCore_freeCtr (s : State) (c : Nat) (f : Core → Core) : (s.modCore c f).freeCtr = s.freeCtr := rfl
@[simp] theorem State.modCore_order (s : State) (c : Nat) (f : Core → Core) : (s.modCore c f).order = s.order := rfl
@[simp] theorem State.modCore_agenda (s : State) (c : Nat) (f : Core → Core) : (s.modCore c f).agenda = s.agenda := rfl
@[simp] theorem State.modCore_pick (s : State) (c : Nat) (f : Core → Core) : (s.modCore c f).pick = s.pick := rfl
@[simp] theorem State.modCore_cur (s : State) (c : Nat) (f : Core → Core) : (s.modCore c f).cur = s.cur := rfl

/-! ## `State.modCtx` writes `ctxs` alone. -/

@[simp] theorem State.modCtx_gtime (s : State) (c : Nat) (f : Ctx → Ctx) : (s.modCtx c f).gtime = s.gtime := rfl
@[simp] theorem State.modCtx_lags (s : State) (c : Nat) (f : Ctx → Ctx) : (s.modCtx c f).lags = s.lags := rfl
@[simp] theorem State.modCtx_ready (s : State) (c : Nat) (f : Ctx → Ctx) : (s.modCtx c f).ready = s.ready := rfl
@[simp] theorem State.modCtx_failed (s : State) (c : Nat) (f : Ctx → Ctx) : (s.modCtx c f).failed = s.failed := rfl
@[simp] theorem State.modCtx_smapsn (s : State) (c : Nat) (f : Ctx → Ctx) : (s.modCtx c f).smapsn = s.smapsn := rfl
@[simp] theorem State.modCtx_mem (s : State) (c : Nat) (f : Ctx → Ctx) : (s.modCtx c f).mem = s.mem := rfl
@[simp] theorem State.modCtx_tags (s : State) (c : Nat) (f : Ctx → Ctx) : (s.modCtx c f).tags = s.tags := rfl
@[simp] theorem State.modCtx_poison (s : State) (c : Nat) (f : Ctx → Ctx) : (s.modCtx c f).poison = s.poison := rfl
@[simp] theorem State.modCtx_lines (s : State) (c : Nat) (f : Ctx → Ctx) : (s.modCtx c f).lines = s.lines := rfl
@[simp] theorem State.modCtx_buckets (s : State) (c : Nat) (f : Ctx → Ctx) : (s.modCtx c f).buckets = s.buckets := rfl
@[simp] theorem State.modCtx_mapChange (s : State) (c : Nat) (f : Ctx → Ctx) : (s.modCtx c f).mapChange = s.mapChange := rfl
@[simp] theorem State.modCtx_placement (s : State) (c : Nat) (f : Ctx → Ctx) : (s.modCtx c f).placement = s.placement := rfl
@[simp] theorem State.modCtx_moving (s : State) (c : Nat) (f : Ctx → Ctx) : (s.modCtx c f).moving = s.moving := rfl
@[simp] theorem State.modCtx_placeHalvings (s : State) (c : Nat) (f : Ctx → Ctx) : (s.modCtx c f).placeHalvings = s.placeHalvings := rfl
@[simp] theorem State.modCtx_ops (s : State) (c : Nat) (f : Ctx → Ctx) : (s.modCtx c f).ops = s.ops := rfl
@[simp] theorem State.modCtx_nextOp (s : State) (c : Nat) (f : Ctx → Ctx) : (s.modCtx c f).nextOp = s.nextOp := rfl
@[simp] theorem State.modCtx_posted (s : State) (c : Nat) (f : Ctx → Ctx) : (s.modCtx c f).posted = s.posted := rfl
@[simp] theorem State.modCtx_srcWct (s : State) (c : Nat) (f : Ctx → Ctx) : (s.modCtx c f).srcWct = s.srcWct := rfl
@[simp] theorem State.modCtx_watches (s : State) (c : Nat) (f : Ctx → Ctx) : (s.modCtx c f).watches = s.watches := rfl
@[simp] theorem State.modCtx_teams (s : State) (c : Nat) (f : Ctx → Ctx) : (s.modCtx c f).teams = s.teams := rfl
@[simp] theorem State.modCtx_nextUid (s : State) (c : Nat) (f : Ctx → Ctx) : (s.modCtx c f).nextUid = s.nextUid := rfl
@[simp] theorem State.modCtx_cores (s : State) (c : Nat) (f : Ctx → Ctx) : (s.modCtx c f).cores = s.cores := rfl
@[simp] theorem State.modCtx_hamper (s : State) (c : Nat) (f : Ctx → Ctx) : (s.modCtx c f).hamper = s.hamper := rfl
@[simp] theorem State.modCtx_credits (s : State) (c : Nat) (f : Ctx → Ctx) : (s.modCtx c f).credits = s.credits := rfl
@[simp] theorem State.modCtx_mcast (s : State) (c : Nat) (f : Ctx → Ctx) : (s.modCtx c f).mcast = s.mcast := rfl
@[simp] theorem State.modCtx_l2tlb (s : State) (c : Nat) (f : Ctx → Ctx) : (s.modCtx c f).l2tlb = s.l2tlb := rfl
@[simp] theorem State.modCtx_icache (s : State) (c : Nat) (f : Ctx → Ctx) : (s.modCtx c f).icache = s.icache := rfl
@[simp] theorem State.modCtx_slots (s : State) (c : Nat) (f : Ctx → Ctx) : (s.modCtx c f).slots = s.slots := rfl
@[simp] theorem State.modCtx_shadows (s : State) (c : Nat) (f : Ctx → Ctx) : (s.modCtx c f).shadows = s.shadows := rfl
@[simp] theorem State.modCtx_broadcasts (s : State) (c : Nat) (f : Ctx → Ctx) : (s.modCtx c f).broadcasts = s.broadcasts := rfl
@[simp] theorem State.modCtx_increqs (s : State) (c : Nat) (f : Ctx → Ctx) : (s.modCtx c f).increqs = s.increqs := rfl
@[simp] theorem State.modCtx_heaps (s : State) (c : Nat) (f : Ctx → Ctx) : (s.modCtx c f).heaps = s.heaps := rfl
@[simp] theorem State.modCtx_heapTurn (s : State) (c : Nat) (f : Ctx → Ctx) : (s.modCtx c f).heapTurn = s.heapTurn := rfl
@[simp] theorem State.modCtx_spilled (s : State) (c : Nat) (f : Ctx → Ctx) : (s.modCtx c f).spilled = s.spilled := rfl
@[simp] theorem State.modCtx_grids (s : State) (c : Nat) (f : Ctx → Ctx) : (s.modCtx c f).grids = s.grids := rfl
@[simp] theorem State.modCtx_queues (s : State) (c : Nat) (f : Ctx → Ctx) : (s.modCtx c f).queues = s.queues := rfl
@[simp] theorem State.modCtx_lastQueue (s : State) (c : Nat) (f : Ctx → Ctx) : (s.modCtx c f).lastQueue = s.lastQueue := rfl
@[simp] theorem State.modCtx_launches (s : State) (c : Nat) (f : Ctx → Ctx) : (s.modCtx c f).launches = s.launches := rfl
@[simp] theorem State.modCtx_pairLaunches (s : State) (c : Nat) (f : Ctx → Ctx) : (s.modCtx c f).pairLaunches = s.pairLaunches := rfl
@[simp] theorem State.modCtx_raced (s : State) (c : Nat) (f : Ctx → Ctx) : (s.modCtx c f).raced = s.raced := rfl
@[simp] theorem State.modCtx_stale (s : State) (c : Nat) (f : Ctx → Ctx) : (s.modCtx c f).stale = s.stale := rfl
@[simp] theorem State.modCtx_padds (s : State) (c : Nat) (f : Ctx → Ctx) : (s.modCtx c f).padds = s.padds := rfl
@[simp] theorem State.modCtx_counts (s : State) (c : Nat) (f : Ctx → Ctx) : (s.modCtx c f).counts = s.counts := rfl
@[simp] theorem State.modCtx_ring (s : State) (c : Nat) (f : Ctx → Ctx) : (s.modCtx c f).ring = s.ring := rfl
@[simp] theorem State.modCtx_mgmt (s : State) (c : Nat) (f : Ctx → Ctx) : (s.modCtx c f).mgmt = s.mgmt := rfl
@[simp] theorem State.modCtx_msix (s : State) (c : Nat) (f : Ctx → Ctx) : (s.modCtx c f).msix = s.msix := rfl
@[simp] theorem State.modCtx_peers (s : State) (c : Nat) (f : Ctx → Ctx) : (s.modCtx c f).peers = s.peers := rfl
@[simp] theorem State.modCtx_remap (s : State) (c : Nat) (f : Ctx → Ctx) : (s.modCtx c f).remap = s.remap := rfl
@[simp] theorem State.modCtx_mapchg (s : State) (c : Nat) (f : Ctx → Ctx) : (s.modCtx c f).mapchg = s.mapchg := rfl
@[simp] theorem State.modCtx_migrate (s : State) (c : Nat) (f : Ctx → Ctx) : (s.modCtx c f).migrate = s.migrate := rfl
@[simp] theorem State.modCtx_corrected (s : State) (c : Nat) (f : Ctx → Ctx) : (s.modCtx c f).corrected = s.corrected := rfl
@[simp] theorem State.modCtx_cleandrop (s : State) (c : Nat) (f : Ctx → Ctx) : (s.modCtx c f).cleandrop = s.cleandrop := rfl
@[simp] theorem State.modCtx_poisoned (s : State) (c : Nat) (f : Ctx → Ctx) : (s.modCtx c f).poisoned = s.poisoned := rfl
@[simp] theorem State.modCtx_telemetry (s : State) (c : Nat) (f : Ctx → Ctx) : (s.modCtx c f).telemetry = s.telemetry := rfl
@[simp] theorem State.modCtx_powerCap (s : State) (c : Nat) (f : Ctx → Ctx) : (s.modCtx c f).powerCap = s.powerCap := rfl
@[simp] theorem State.modCtx_powerLimit (s : State) (c : Nat) (f : Ctx → Ctx) : (s.modCtx c f).powerLimit = s.powerLimit := rfl
@[simp] theorem State.modCtx_tempLimit (s : State) (c : Nat) (f : Ctx → Ctx) : (s.modCtx c f).tempLimit = s.tempLimit := rfl
@[simp] theorem State.modCtx_capIntervals (s : State) (c : Nat) (f : Ctx → Ctx) : (s.modCtx c f).capIntervals = s.capIntervals := rfl
@[simp] theorem State.modCtx_ppm (s : State) (c : Nat) (f : Ctx → Ctx) : (s.modCtx c f).ppm = s.ppm := rfl
@[simp] theorem State.modCtx_capLast (s : State) (c : Nat) (f : Ctx → Ctx) : (s.modCtx c f).capLast = s.capLast := rfl
@[simp] theorem State.modCtx_crossed (s : State) (c : Nat) (f : Ctx → Ctx) : (s.modCtx c f).crossed = s.crossed := rfl
@[simp] theorem State.modCtx_ideKeys (s : State) (c : Nat) (f : Ctx → Ctx) : (s.modCtx c f).ideKeys = s.ideKeys := rfl
@[simp] theorem State.modCtx_skews (s : State) (c : Nat) (f : Ctx → Ctx) : (s.modCtx c f).skews = s.skews := rfl
@[simp] theorem State.modCtx_timeSource (s : State) (c : Nat) (f : Ctx → Ctx) : (s.modCtx c f).timeSource = s.timeSource := rfl
@[simp] theorem State.modCtx_margins (s : State) (c : Nat) (f : Ctx → Ctx) : (s.modCtx c f).margins = s.margins := rfl
@[simp] theorem State.modCtx_retrained (s : State) (c : Nat) (f : Ctx → Ctx) : (s.modCtx c f).retrained = s.retrained := rfl
@[simp] theorem State.modCtx_firmware (s : State) (c : Nat) (f : Ctx → Ctx) : (s.modCtx c f).firmware = s.firmware := rfl
@[simp] theorem State.modCtx_spdm (s : State) (c : Nat) (f : Ctx → Ctx) : (s.modCtx c f).spdm = s.spdm := rfl
@[simp] theorem State.modCtx_sessions (s : State) (c : Nat) (f : Ctx → Ctx) : (s.modCtx c f).sessions = s.sessions := rfl
@[simp] theorem State.modCtx_sessionOpen (s : State) (c : Nat) (f : Ctx → Ctx) : (s.modCtx c f).sessionOpen = s.sessionOpen := rfl
@[simp] theorem State.modCtx_replies (s : State) (c : Nat) (f : Ctx → Ctx) : (s.modCtx c f).replies = s.replies := rfl
@[simp] theorem State.modCtx_acks (s : State) (c : Nat) (f : Ctx → Ctx) : (s.modCtx c f).acks = s.acks := rfl
@[simp] theorem State.modCtx_acked (s : State) (c : Nat) (f : Ctx → Ctx) : (s.modCtx c f).acked = s.acked := rfl
@[simp] theorem State.modCtx_readyEvents (s : State) (c : Nat) (f : Ctx → Ctx) : (s.modCtx c f).readyEvents = s.readyEvents := rfl
@[simp] theorem State.modCtx_powerEvents (s : State) (c : Nat) (f : Ctx → Ctx) : (s.modCtx c f).powerEvents = s.powerEvents := rfl
@[simp] theorem State.modCtx_stashSerial (s : State) (c : Nat) (f : Ctx → Ctx) : (s.modCtx c f).stashSerial = s.stashSerial := rfl
@[simp] theorem State.modCtx_quarantine (s : State) (c : Nat) (f : Ctx → Ctx) : (s.modCtx c f).quarantine = s.quarantine := rfl
@[simp] theorem State.modCtx_freeCtr (s : State) (c : Nat) (f : Ctx → Ctx) : (s.modCtx c f).freeCtr = s.freeCtr := rfl
@[simp] theorem State.modCtx_order (s : State) (c : Nat) (f : Ctx → Ctx) : (s.modCtx c f).order = s.order := rfl
@[simp] theorem State.modCtx_agenda (s : State) (c : Nat) (f : Ctx → Ctx) : (s.modCtx c f).agenda = s.agenda := rfl
@[simp] theorem State.modCtx_pick (s : State) (c : Nat) (f : Ctx → Ctx) : (s.modCtx c f).pick = s.pick := rfl
@[simp] theorem State.modCtx_cur (s : State) (c : Nat) (f : Ctx → Ctx) : (s.modCtx c f).cur = s.cur := rfl

/-! ## `State.modLine` writes `lines` alone. -/

@[simp] theorem State.modLine_gtime (s : State) (n : Nat) (f : Line → Line) : (s.modLine n f).gtime = s.gtime := rfl
@[simp] theorem State.modLine_lags (s : State) (n : Nat) (f : Line → Line) : (s.modLine n f).lags = s.lags := rfl
@[simp] theorem State.modLine_ready (s : State) (n : Nat) (f : Line → Line) : (s.modLine n f).ready = s.ready := rfl
@[simp] theorem State.modLine_failed (s : State) (n : Nat) (f : Line → Line) : (s.modLine n f).failed = s.failed := rfl
@[simp] theorem State.modLine_smapsn (s : State) (n : Nat) (f : Line → Line) : (s.modLine n f).smapsn = s.smapsn := rfl
@[simp] theorem State.modLine_mem (s : State) (n : Nat) (f : Line → Line) : (s.modLine n f).mem = s.mem := rfl
@[simp] theorem State.modLine_tags (s : State) (n : Nat) (f : Line → Line) : (s.modLine n f).tags = s.tags := rfl
@[simp] theorem State.modLine_poison (s : State) (n : Nat) (f : Line → Line) : (s.modLine n f).poison = s.poison := rfl
@[simp] theorem State.modLine_buckets (s : State) (n : Nat) (f : Line → Line) : (s.modLine n f).buckets = s.buckets := rfl
@[simp] theorem State.modLine_mapChange (s : State) (n : Nat) (f : Line → Line) : (s.modLine n f).mapChange = s.mapChange := rfl
@[simp] theorem State.modLine_placement (s : State) (n : Nat) (f : Line → Line) : (s.modLine n f).placement = s.placement := rfl
@[simp] theorem State.modLine_moving (s : State) (n : Nat) (f : Line → Line) : (s.modLine n f).moving = s.moving := rfl
@[simp] theorem State.modLine_placeHalvings (s : State) (n : Nat) (f : Line → Line) : (s.modLine n f).placeHalvings = s.placeHalvings := rfl
@[simp] theorem State.modLine_ops (s : State) (n : Nat) (f : Line → Line) : (s.modLine n f).ops = s.ops := rfl
@[simp] theorem State.modLine_nextOp (s : State) (n : Nat) (f : Line → Line) : (s.modLine n f).nextOp = s.nextOp := rfl
@[simp] theorem State.modLine_posted (s : State) (n : Nat) (f : Line → Line) : (s.modLine n f).posted = s.posted := rfl
@[simp] theorem State.modLine_srcWct (s : State) (n : Nat) (f : Line → Line) : (s.modLine n f).srcWct = s.srcWct := rfl
@[simp] theorem State.modLine_watches (s : State) (n : Nat) (f : Line → Line) : (s.modLine n f).watches = s.watches := rfl
@[simp] theorem State.modLine_teams (s : State) (n : Nat) (f : Line → Line) : (s.modLine n f).teams = s.teams := rfl
@[simp] theorem State.modLine_nextUid (s : State) (n : Nat) (f : Line → Line) : (s.modLine n f).nextUid = s.nextUid := rfl
@[simp] theorem State.modLine_cores (s : State) (n : Nat) (f : Line → Line) : (s.modLine n f).cores = s.cores := rfl
@[simp] theorem State.modLine_hamper (s : State) (n : Nat) (f : Line → Line) : (s.modLine n f).hamper = s.hamper := rfl
@[simp] theorem State.modLine_credits (s : State) (n : Nat) (f : Line → Line) : (s.modLine n f).credits = s.credits := rfl
@[simp] theorem State.modLine_mcast (s : State) (n : Nat) (f : Line → Line) : (s.modLine n f).mcast = s.mcast := rfl
@[simp] theorem State.modLine_l2tlb (s : State) (n : Nat) (f : Line → Line) : (s.modLine n f).l2tlb = s.l2tlb := rfl
@[simp] theorem State.modLine_icache (s : State) (n : Nat) (f : Line → Line) : (s.modLine n f).icache = s.icache := rfl
@[simp] theorem State.modLine_slots (s : State) (n : Nat) (f : Line → Line) : (s.modLine n f).slots = s.slots := rfl
@[simp] theorem State.modLine_shadows (s : State) (n : Nat) (f : Line → Line) : (s.modLine n f).shadows = s.shadows := rfl
@[simp] theorem State.modLine_broadcasts (s : State) (n : Nat) (f : Line → Line) : (s.modLine n f).broadcasts = s.broadcasts := rfl
@[simp] theorem State.modLine_increqs (s : State) (n : Nat) (f : Line → Line) : (s.modLine n f).increqs = s.increqs := rfl
@[simp] theorem State.modLine_heaps (s : State) (n : Nat) (f : Line → Line) : (s.modLine n f).heaps = s.heaps := rfl
@[simp] theorem State.modLine_heapTurn (s : State) (n : Nat) (f : Line → Line) : (s.modLine n f).heapTurn = s.heapTurn := rfl
@[simp] theorem State.modLine_spilled (s : State) (n : Nat) (f : Line → Line) : (s.modLine n f).spilled = s.spilled := rfl
@[simp] theorem State.modLine_grids (s : State) (n : Nat) (f : Line → Line) : (s.modLine n f).grids = s.grids := rfl
@[simp] theorem State.modLine_queues (s : State) (n : Nat) (f : Line → Line) : (s.modLine n f).queues = s.queues := rfl
@[simp] theorem State.modLine_lastQueue (s : State) (n : Nat) (f : Line → Line) : (s.modLine n f).lastQueue = s.lastQueue := rfl
@[simp] theorem State.modLine_launches (s : State) (n : Nat) (f : Line → Line) : (s.modLine n f).launches = s.launches := rfl
@[simp] theorem State.modLine_pairLaunches (s : State) (n : Nat) (f : Line → Line) : (s.modLine n f).pairLaunches = s.pairLaunches := rfl
@[simp] theorem State.modLine_raced (s : State) (n : Nat) (f : Line → Line) : (s.modLine n f).raced = s.raced := rfl
@[simp] theorem State.modLine_stale (s : State) (n : Nat) (f : Line → Line) : (s.modLine n f).stale = s.stale := rfl
@[simp] theorem State.modLine_padds (s : State) (n : Nat) (f : Line → Line) : (s.modLine n f).padds = s.padds := rfl
@[simp] theorem State.modLine_ctxs (s : State) (n : Nat) (f : Line → Line) : (s.modLine n f).ctxs = s.ctxs := rfl
@[simp] theorem State.modLine_counts (s : State) (n : Nat) (f : Line → Line) : (s.modLine n f).counts = s.counts := rfl
@[simp] theorem State.modLine_ring (s : State) (n : Nat) (f : Line → Line) : (s.modLine n f).ring = s.ring := rfl
@[simp] theorem State.modLine_mgmt (s : State) (n : Nat) (f : Line → Line) : (s.modLine n f).mgmt = s.mgmt := rfl
@[simp] theorem State.modLine_msix (s : State) (n : Nat) (f : Line → Line) : (s.modLine n f).msix = s.msix := rfl
@[simp] theorem State.modLine_peers (s : State) (n : Nat) (f : Line → Line) : (s.modLine n f).peers = s.peers := rfl
@[simp] theorem State.modLine_remap (s : State) (n : Nat) (f : Line → Line) : (s.modLine n f).remap = s.remap := rfl
@[simp] theorem State.modLine_mapchg (s : State) (n : Nat) (f : Line → Line) : (s.modLine n f).mapchg = s.mapchg := rfl
@[simp] theorem State.modLine_migrate (s : State) (n : Nat) (f : Line → Line) : (s.modLine n f).migrate = s.migrate := rfl
@[simp] theorem State.modLine_corrected (s : State) (n : Nat) (f : Line → Line) : (s.modLine n f).corrected = s.corrected := rfl
@[simp] theorem State.modLine_cleandrop (s : State) (n : Nat) (f : Line → Line) : (s.modLine n f).cleandrop = s.cleandrop := rfl
@[simp] theorem State.modLine_poisoned (s : State) (n : Nat) (f : Line → Line) : (s.modLine n f).poisoned = s.poisoned := rfl
@[simp] theorem State.modLine_telemetry (s : State) (n : Nat) (f : Line → Line) : (s.modLine n f).telemetry = s.telemetry := rfl
@[simp] theorem State.modLine_powerCap (s : State) (n : Nat) (f : Line → Line) : (s.modLine n f).powerCap = s.powerCap := rfl
@[simp] theorem State.modLine_powerLimit (s : State) (n : Nat) (f : Line → Line) : (s.modLine n f).powerLimit = s.powerLimit := rfl
@[simp] theorem State.modLine_tempLimit (s : State) (n : Nat) (f : Line → Line) : (s.modLine n f).tempLimit = s.tempLimit := rfl
@[simp] theorem State.modLine_capIntervals (s : State) (n : Nat) (f : Line → Line) : (s.modLine n f).capIntervals = s.capIntervals := rfl
@[simp] theorem State.modLine_ppm (s : State) (n : Nat) (f : Line → Line) : (s.modLine n f).ppm = s.ppm := rfl
@[simp] theorem State.modLine_capLast (s : State) (n : Nat) (f : Line → Line) : (s.modLine n f).capLast = s.capLast := rfl
@[simp] theorem State.modLine_crossed (s : State) (n : Nat) (f : Line → Line) : (s.modLine n f).crossed = s.crossed := rfl
@[simp] theorem State.modLine_ideKeys (s : State) (n : Nat) (f : Line → Line) : (s.modLine n f).ideKeys = s.ideKeys := rfl
@[simp] theorem State.modLine_skews (s : State) (n : Nat) (f : Line → Line) : (s.modLine n f).skews = s.skews := rfl
@[simp] theorem State.modLine_timeSource (s : State) (n : Nat) (f : Line → Line) : (s.modLine n f).timeSource = s.timeSource := rfl
@[simp] theorem State.modLine_margins (s : State) (n : Nat) (f : Line → Line) : (s.modLine n f).margins = s.margins := rfl
@[simp] theorem State.modLine_retrained (s : State) (n : Nat) (f : Line → Line) : (s.modLine n f).retrained = s.retrained := rfl
@[simp] theorem State.modLine_firmware (s : State) (n : Nat) (f : Line → Line) : (s.modLine n f).firmware = s.firmware := rfl
@[simp] theorem State.modLine_spdm (s : State) (n : Nat) (f : Line → Line) : (s.modLine n f).spdm = s.spdm := rfl
@[simp] theorem State.modLine_sessions (s : State) (n : Nat) (f : Line → Line) : (s.modLine n f).sessions = s.sessions := rfl
@[simp] theorem State.modLine_sessionOpen (s : State) (n : Nat) (f : Line → Line) : (s.modLine n f).sessionOpen = s.sessionOpen := rfl
@[simp] theorem State.modLine_replies (s : State) (n : Nat) (f : Line → Line) : (s.modLine n f).replies = s.replies := rfl
@[simp] theorem State.modLine_acks (s : State) (n : Nat) (f : Line → Line) : (s.modLine n f).acks = s.acks := rfl
@[simp] theorem State.modLine_acked (s : State) (n : Nat) (f : Line → Line) : (s.modLine n f).acked = s.acked := rfl
@[simp] theorem State.modLine_readyEvents (s : State) (n : Nat) (f : Line → Line) : (s.modLine n f).readyEvents = s.readyEvents := rfl
@[simp] theorem State.modLine_powerEvents (s : State) (n : Nat) (f : Line → Line) : (s.modLine n f).powerEvents = s.powerEvents := rfl
@[simp] theorem State.modLine_stashSerial (s : State) (n : Nat) (f : Line → Line) : (s.modLine n f).stashSerial = s.stashSerial := rfl
@[simp] theorem State.modLine_quarantine (s : State) (n : Nat) (f : Line → Line) : (s.modLine n f).quarantine = s.quarantine := rfl
@[simp] theorem State.modLine_freeCtr (s : State) (n : Nat) (f : Line → Line) : (s.modLine n f).freeCtr = s.freeCtr := rfl
@[simp] theorem State.modLine_order (s : State) (n : Nat) (f : Line → Line) : (s.modLine n f).order = s.order := rfl
@[simp] theorem State.modLine_agenda (s : State) (n : Nat) (f : Line → Line) : (s.modLine n f).agenda = s.agenda := rfl
@[simp] theorem State.modLine_pick (s : State) (n : Nat) (f : Line → Line) : (s.modLine n f).pick = s.pick := rfl
@[simp] theorem State.modLine_cur (s : State) (n : Nat) (f : Line → Line) : (s.modLine n f).cur = s.cur := rfl

/-! ## `State.modLaunch` writes `launches` alone. -/

@[simp] theorem State.modLaunch_gtime (s : State) (c l : Nat) (f : Launch → Launch) : (s.modLaunch c l f).gtime = s.gtime := rfl
@[simp] theorem State.modLaunch_lags (s : State) (c l : Nat) (f : Launch → Launch) : (s.modLaunch c l f).lags = s.lags := rfl
@[simp] theorem State.modLaunch_ready (s : State) (c l : Nat) (f : Launch → Launch) : (s.modLaunch c l f).ready = s.ready := rfl
@[simp] theorem State.modLaunch_failed (s : State) (c l : Nat) (f : Launch → Launch) : (s.modLaunch c l f).failed = s.failed := rfl
@[simp] theorem State.modLaunch_smapsn (s : State) (c l : Nat) (f : Launch → Launch) : (s.modLaunch c l f).smapsn = s.smapsn := rfl
@[simp] theorem State.modLaunch_mem (s : State) (c l : Nat) (f : Launch → Launch) : (s.modLaunch c l f).mem = s.mem := rfl
@[simp] theorem State.modLaunch_tags (s : State) (c l : Nat) (f : Launch → Launch) : (s.modLaunch c l f).tags = s.tags := rfl
@[simp] theorem State.modLaunch_poison (s : State) (c l : Nat) (f : Launch → Launch) : (s.modLaunch c l f).poison = s.poison := rfl
@[simp] theorem State.modLaunch_lines (s : State) (c l : Nat) (f : Launch → Launch) : (s.modLaunch c l f).lines = s.lines := rfl
@[simp] theorem State.modLaunch_buckets (s : State) (c l : Nat) (f : Launch → Launch) : (s.modLaunch c l f).buckets = s.buckets := rfl
@[simp] theorem State.modLaunch_mapChange (s : State) (c l : Nat) (f : Launch → Launch) : (s.modLaunch c l f).mapChange = s.mapChange := rfl
@[simp] theorem State.modLaunch_placement (s : State) (c l : Nat) (f : Launch → Launch) : (s.modLaunch c l f).placement = s.placement := rfl
@[simp] theorem State.modLaunch_moving (s : State) (c l : Nat) (f : Launch → Launch) : (s.modLaunch c l f).moving = s.moving := rfl
@[simp] theorem State.modLaunch_placeHalvings (s : State) (c l : Nat) (f : Launch → Launch) : (s.modLaunch c l f).placeHalvings = s.placeHalvings := rfl
@[simp] theorem State.modLaunch_ops (s : State) (c l : Nat) (f : Launch → Launch) : (s.modLaunch c l f).ops = s.ops := rfl
@[simp] theorem State.modLaunch_nextOp (s : State) (c l : Nat) (f : Launch → Launch) : (s.modLaunch c l f).nextOp = s.nextOp := rfl
@[simp] theorem State.modLaunch_posted (s : State) (c l : Nat) (f : Launch → Launch) : (s.modLaunch c l f).posted = s.posted := rfl
@[simp] theorem State.modLaunch_srcWct (s : State) (c l : Nat) (f : Launch → Launch) : (s.modLaunch c l f).srcWct = s.srcWct := rfl
@[simp] theorem State.modLaunch_watches (s : State) (c l : Nat) (f : Launch → Launch) : (s.modLaunch c l f).watches = s.watches := rfl
@[simp] theorem State.modLaunch_teams (s : State) (c l : Nat) (f : Launch → Launch) : (s.modLaunch c l f).teams = s.teams := rfl
@[simp] theorem State.modLaunch_nextUid (s : State) (c l : Nat) (f : Launch → Launch) : (s.modLaunch c l f).nextUid = s.nextUid := rfl
@[simp] theorem State.modLaunch_cores (s : State) (c l : Nat) (f : Launch → Launch) : (s.modLaunch c l f).cores = s.cores := rfl
@[simp] theorem State.modLaunch_hamper (s : State) (c l : Nat) (f : Launch → Launch) : (s.modLaunch c l f).hamper = s.hamper := rfl
@[simp] theorem State.modLaunch_credits (s : State) (c l : Nat) (f : Launch → Launch) : (s.modLaunch c l f).credits = s.credits := rfl
@[simp] theorem State.modLaunch_mcast (s : State) (c l : Nat) (f : Launch → Launch) : (s.modLaunch c l f).mcast = s.mcast := rfl
@[simp] theorem State.modLaunch_l2tlb (s : State) (c l : Nat) (f : Launch → Launch) : (s.modLaunch c l f).l2tlb = s.l2tlb := rfl
@[simp] theorem State.modLaunch_icache (s : State) (c l : Nat) (f : Launch → Launch) : (s.modLaunch c l f).icache = s.icache := rfl
@[simp] theorem State.modLaunch_slots (s : State) (c l : Nat) (f : Launch → Launch) : (s.modLaunch c l f).slots = s.slots := rfl
@[simp] theorem State.modLaunch_shadows (s : State) (c l : Nat) (f : Launch → Launch) : (s.modLaunch c l f).shadows = s.shadows := rfl
@[simp] theorem State.modLaunch_broadcasts (s : State) (c l : Nat) (f : Launch → Launch) : (s.modLaunch c l f).broadcasts = s.broadcasts := rfl
@[simp] theorem State.modLaunch_increqs (s : State) (c l : Nat) (f : Launch → Launch) : (s.modLaunch c l f).increqs = s.increqs := rfl
@[simp] theorem State.modLaunch_heaps (s : State) (c l : Nat) (f : Launch → Launch) : (s.modLaunch c l f).heaps = s.heaps := rfl
@[simp] theorem State.modLaunch_heapTurn (s : State) (c l : Nat) (f : Launch → Launch) : (s.modLaunch c l f).heapTurn = s.heapTurn := rfl
@[simp] theorem State.modLaunch_spilled (s : State) (c l : Nat) (f : Launch → Launch) : (s.modLaunch c l f).spilled = s.spilled := rfl
@[simp] theorem State.modLaunch_grids (s : State) (c l : Nat) (f : Launch → Launch) : (s.modLaunch c l f).grids = s.grids := rfl
@[simp] theorem State.modLaunch_queues (s : State) (c l : Nat) (f : Launch → Launch) : (s.modLaunch c l f).queues = s.queues := rfl
@[simp] theorem State.modLaunch_lastQueue (s : State) (c l : Nat) (f : Launch → Launch) : (s.modLaunch c l f).lastQueue = s.lastQueue := rfl
@[simp] theorem State.modLaunch_pairLaunches (s : State) (c l : Nat) (f : Launch → Launch) : (s.modLaunch c l f).pairLaunches = s.pairLaunches := rfl
@[simp] theorem State.modLaunch_raced (s : State) (c l : Nat) (f : Launch → Launch) : (s.modLaunch c l f).raced = s.raced := rfl
@[simp] theorem State.modLaunch_stale (s : State) (c l : Nat) (f : Launch → Launch) : (s.modLaunch c l f).stale = s.stale := rfl
@[simp] theorem State.modLaunch_padds (s : State) (c l : Nat) (f : Launch → Launch) : (s.modLaunch c l f).padds = s.padds := rfl
@[simp] theorem State.modLaunch_ctxs (s : State) (c l : Nat) (f : Launch → Launch) : (s.modLaunch c l f).ctxs = s.ctxs := rfl
@[simp] theorem State.modLaunch_counts (s : State) (c l : Nat) (f : Launch → Launch) : (s.modLaunch c l f).counts = s.counts := rfl
@[simp] theorem State.modLaunch_ring (s : State) (c l : Nat) (f : Launch → Launch) : (s.modLaunch c l f).ring = s.ring := rfl
@[simp] theorem State.modLaunch_mgmt (s : State) (c l : Nat) (f : Launch → Launch) : (s.modLaunch c l f).mgmt = s.mgmt := rfl
@[simp] theorem State.modLaunch_msix (s : State) (c l : Nat) (f : Launch → Launch) : (s.modLaunch c l f).msix = s.msix := rfl
@[simp] theorem State.modLaunch_peers (s : State) (c l : Nat) (f : Launch → Launch) : (s.modLaunch c l f).peers = s.peers := rfl
@[simp] theorem State.modLaunch_remap (s : State) (c l : Nat) (f : Launch → Launch) : (s.modLaunch c l f).remap = s.remap := rfl
@[simp] theorem State.modLaunch_mapchg (s : State) (c l : Nat) (f : Launch → Launch) : (s.modLaunch c l f).mapchg = s.mapchg := rfl
@[simp] theorem State.modLaunch_migrate (s : State) (c l : Nat) (f : Launch → Launch) : (s.modLaunch c l f).migrate = s.migrate := rfl
@[simp] theorem State.modLaunch_corrected (s : State) (c l : Nat) (f : Launch → Launch) : (s.modLaunch c l f).corrected = s.corrected := rfl
@[simp] theorem State.modLaunch_cleandrop (s : State) (c l : Nat) (f : Launch → Launch) : (s.modLaunch c l f).cleandrop = s.cleandrop := rfl
@[simp] theorem State.modLaunch_poisoned (s : State) (c l : Nat) (f : Launch → Launch) : (s.modLaunch c l f).poisoned = s.poisoned := rfl
@[simp] theorem State.modLaunch_telemetry (s : State) (c l : Nat) (f : Launch → Launch) : (s.modLaunch c l f).telemetry = s.telemetry := rfl
@[simp] theorem State.modLaunch_powerCap (s : State) (c l : Nat) (f : Launch → Launch) : (s.modLaunch c l f).powerCap = s.powerCap := rfl
@[simp] theorem State.modLaunch_powerLimit (s : State) (c l : Nat) (f : Launch → Launch) : (s.modLaunch c l f).powerLimit = s.powerLimit := rfl
@[simp] theorem State.modLaunch_tempLimit (s : State) (c l : Nat) (f : Launch → Launch) : (s.modLaunch c l f).tempLimit = s.tempLimit := rfl
@[simp] theorem State.modLaunch_capIntervals (s : State) (c l : Nat) (f : Launch → Launch) : (s.modLaunch c l f).capIntervals = s.capIntervals := rfl
@[simp] theorem State.modLaunch_ppm (s : State) (c l : Nat) (f : Launch → Launch) : (s.modLaunch c l f).ppm = s.ppm := rfl
@[simp] theorem State.modLaunch_capLast (s : State) (c l : Nat) (f : Launch → Launch) : (s.modLaunch c l f).capLast = s.capLast := rfl
@[simp] theorem State.modLaunch_crossed (s : State) (c l : Nat) (f : Launch → Launch) : (s.modLaunch c l f).crossed = s.crossed := rfl
@[simp] theorem State.modLaunch_ideKeys (s : State) (c l : Nat) (f : Launch → Launch) : (s.modLaunch c l f).ideKeys = s.ideKeys := rfl
@[simp] theorem State.modLaunch_skews (s : State) (c l : Nat) (f : Launch → Launch) : (s.modLaunch c l f).skews = s.skews := rfl
@[simp] theorem State.modLaunch_timeSource (s : State) (c l : Nat) (f : Launch → Launch) : (s.modLaunch c l f).timeSource = s.timeSource := rfl
@[simp] theorem State.modLaunch_margins (s : State) (c l : Nat) (f : Launch → Launch) : (s.modLaunch c l f).margins = s.margins := rfl
@[simp] theorem State.modLaunch_retrained (s : State) (c l : Nat) (f : Launch → Launch) : (s.modLaunch c l f).retrained = s.retrained := rfl
@[simp] theorem State.modLaunch_firmware (s : State) (c l : Nat) (f : Launch → Launch) : (s.modLaunch c l f).firmware = s.firmware := rfl
@[simp] theorem State.modLaunch_spdm (s : State) (c l : Nat) (f : Launch → Launch) : (s.modLaunch c l f).spdm = s.spdm := rfl
@[simp] theorem State.modLaunch_sessions (s : State) (c l : Nat) (f : Launch → Launch) : (s.modLaunch c l f).sessions = s.sessions := rfl
@[simp] theorem State.modLaunch_sessionOpen (s : State) (c l : Nat) (f : Launch → Launch) : (s.modLaunch c l f).sessionOpen = s.sessionOpen := rfl
@[simp] theorem State.modLaunch_replies (s : State) (c l : Nat) (f : Launch → Launch) : (s.modLaunch c l f).replies = s.replies := rfl
@[simp] theorem State.modLaunch_acks (s : State) (c l : Nat) (f : Launch → Launch) : (s.modLaunch c l f).acks = s.acks := rfl
@[simp] theorem State.modLaunch_acked (s : State) (c l : Nat) (f : Launch → Launch) : (s.modLaunch c l f).acked = s.acked := rfl
@[simp] theorem State.modLaunch_readyEvents (s : State) (c l : Nat) (f : Launch → Launch) : (s.modLaunch c l f).readyEvents = s.readyEvents := rfl
@[simp] theorem State.modLaunch_powerEvents (s : State) (c l : Nat) (f : Launch → Launch) : (s.modLaunch c l f).powerEvents = s.powerEvents := rfl
@[simp] theorem State.modLaunch_stashSerial (s : State) (c l : Nat) (f : Launch → Launch) : (s.modLaunch c l f).stashSerial = s.stashSerial := rfl
@[simp] theorem State.modLaunch_quarantine (s : State) (c l : Nat) (f : Launch → Launch) : (s.modLaunch c l f).quarantine = s.quarantine := rfl
@[simp] theorem State.modLaunch_freeCtr (s : State) (c l : Nat) (f : Launch → Launch) : (s.modLaunch c l f).freeCtr = s.freeCtr := rfl
@[simp] theorem State.modLaunch_order (s : State) (c l : Nat) (f : Launch → Launch) : (s.modLaunch c l f).order = s.order := rfl
@[simp] theorem State.modLaunch_agenda (s : State) (c l : Nat) (f : Launch → Launch) : (s.modLaunch c l f).agenda = s.agenda := rfl
@[simp] theorem State.modLaunch_pick (s : State) (c l : Nat) (f : Launch → Launch) : (s.modLaunch c l f).pick = s.pick := rfl
@[simp] theorem State.modLaunch_cur (s : State) (c l : Nat) (f : Launch → Launch) : (s.modLaunch c l f).cur = s.cur := rfl

/-! ## `State.modPairLaunch` writes `pairLaunches` alone. -/

@[simp] theorem State.modPairLaunch_gtime (s : State) (c l : Nat) (f : PairLaunch → PairLaunch) : (s.modPairLaunch c l f).gtime = s.gtime := rfl
@[simp] theorem State.modPairLaunch_lags (s : State) (c l : Nat) (f : PairLaunch → PairLaunch) : (s.modPairLaunch c l f).lags = s.lags := rfl
@[simp] theorem State.modPairLaunch_ready (s : State) (c l : Nat) (f : PairLaunch → PairLaunch) : (s.modPairLaunch c l f).ready = s.ready := rfl
@[simp] theorem State.modPairLaunch_failed (s : State) (c l : Nat) (f : PairLaunch → PairLaunch) : (s.modPairLaunch c l f).failed = s.failed := rfl
@[simp] theorem State.modPairLaunch_smapsn (s : State) (c l : Nat) (f : PairLaunch → PairLaunch) : (s.modPairLaunch c l f).smapsn = s.smapsn := rfl
@[simp] theorem State.modPairLaunch_mem (s : State) (c l : Nat) (f : PairLaunch → PairLaunch) : (s.modPairLaunch c l f).mem = s.mem := rfl
@[simp] theorem State.modPairLaunch_tags (s : State) (c l : Nat) (f : PairLaunch → PairLaunch) : (s.modPairLaunch c l f).tags = s.tags := rfl
@[simp] theorem State.modPairLaunch_poison (s : State) (c l : Nat) (f : PairLaunch → PairLaunch) : (s.modPairLaunch c l f).poison = s.poison := rfl
@[simp] theorem State.modPairLaunch_lines (s : State) (c l : Nat) (f : PairLaunch → PairLaunch) : (s.modPairLaunch c l f).lines = s.lines := rfl
@[simp] theorem State.modPairLaunch_buckets (s : State) (c l : Nat) (f : PairLaunch → PairLaunch) : (s.modPairLaunch c l f).buckets = s.buckets := rfl
@[simp] theorem State.modPairLaunch_mapChange (s : State) (c l : Nat) (f : PairLaunch → PairLaunch) : (s.modPairLaunch c l f).mapChange = s.mapChange := rfl
@[simp] theorem State.modPairLaunch_placement (s : State) (c l : Nat) (f : PairLaunch → PairLaunch) : (s.modPairLaunch c l f).placement = s.placement := rfl
@[simp] theorem State.modPairLaunch_moving (s : State) (c l : Nat) (f : PairLaunch → PairLaunch) : (s.modPairLaunch c l f).moving = s.moving := rfl
@[simp] theorem State.modPairLaunch_placeHalvings (s : State) (c l : Nat) (f : PairLaunch → PairLaunch) : (s.modPairLaunch c l f).placeHalvings = s.placeHalvings := rfl
@[simp] theorem State.modPairLaunch_ops (s : State) (c l : Nat) (f : PairLaunch → PairLaunch) : (s.modPairLaunch c l f).ops = s.ops := rfl
@[simp] theorem State.modPairLaunch_nextOp (s : State) (c l : Nat) (f : PairLaunch → PairLaunch) : (s.modPairLaunch c l f).nextOp = s.nextOp := rfl
@[simp] theorem State.modPairLaunch_posted (s : State) (c l : Nat) (f : PairLaunch → PairLaunch) : (s.modPairLaunch c l f).posted = s.posted := rfl
@[simp] theorem State.modPairLaunch_srcWct (s : State) (c l : Nat) (f : PairLaunch → PairLaunch) : (s.modPairLaunch c l f).srcWct = s.srcWct := rfl
@[simp] theorem State.modPairLaunch_watches (s : State) (c l : Nat) (f : PairLaunch → PairLaunch) : (s.modPairLaunch c l f).watches = s.watches := rfl
@[simp] theorem State.modPairLaunch_teams (s : State) (c l : Nat) (f : PairLaunch → PairLaunch) : (s.modPairLaunch c l f).teams = s.teams := rfl
@[simp] theorem State.modPairLaunch_nextUid (s : State) (c l : Nat) (f : PairLaunch → PairLaunch) : (s.modPairLaunch c l f).nextUid = s.nextUid := rfl
@[simp] theorem State.modPairLaunch_cores (s : State) (c l : Nat) (f : PairLaunch → PairLaunch) : (s.modPairLaunch c l f).cores = s.cores := rfl
@[simp] theorem State.modPairLaunch_hamper (s : State) (c l : Nat) (f : PairLaunch → PairLaunch) : (s.modPairLaunch c l f).hamper = s.hamper := rfl
@[simp] theorem State.modPairLaunch_credits (s : State) (c l : Nat) (f : PairLaunch → PairLaunch) : (s.modPairLaunch c l f).credits = s.credits := rfl
@[simp] theorem State.modPairLaunch_mcast (s : State) (c l : Nat) (f : PairLaunch → PairLaunch) : (s.modPairLaunch c l f).mcast = s.mcast := rfl
@[simp] theorem State.modPairLaunch_l2tlb (s : State) (c l : Nat) (f : PairLaunch → PairLaunch) : (s.modPairLaunch c l f).l2tlb = s.l2tlb := rfl
@[simp] theorem State.modPairLaunch_icache (s : State) (c l : Nat) (f : PairLaunch → PairLaunch) : (s.modPairLaunch c l f).icache = s.icache := rfl
@[simp] theorem State.modPairLaunch_slots (s : State) (c l : Nat) (f : PairLaunch → PairLaunch) : (s.modPairLaunch c l f).slots = s.slots := rfl
@[simp] theorem State.modPairLaunch_shadows (s : State) (c l : Nat) (f : PairLaunch → PairLaunch) : (s.modPairLaunch c l f).shadows = s.shadows := rfl
@[simp] theorem State.modPairLaunch_broadcasts (s : State) (c l : Nat) (f : PairLaunch → PairLaunch) : (s.modPairLaunch c l f).broadcasts = s.broadcasts := rfl
@[simp] theorem State.modPairLaunch_increqs (s : State) (c l : Nat) (f : PairLaunch → PairLaunch) : (s.modPairLaunch c l f).increqs = s.increqs := rfl
@[simp] theorem State.modPairLaunch_heaps (s : State) (c l : Nat) (f : PairLaunch → PairLaunch) : (s.modPairLaunch c l f).heaps = s.heaps := rfl
@[simp] theorem State.modPairLaunch_heapTurn (s : State) (c l : Nat) (f : PairLaunch → PairLaunch) : (s.modPairLaunch c l f).heapTurn = s.heapTurn := rfl
@[simp] theorem State.modPairLaunch_spilled (s : State) (c l : Nat) (f : PairLaunch → PairLaunch) : (s.modPairLaunch c l f).spilled = s.spilled := rfl
@[simp] theorem State.modPairLaunch_grids (s : State) (c l : Nat) (f : PairLaunch → PairLaunch) : (s.modPairLaunch c l f).grids = s.grids := rfl
@[simp] theorem State.modPairLaunch_queues (s : State) (c l : Nat) (f : PairLaunch → PairLaunch) : (s.modPairLaunch c l f).queues = s.queues := rfl
@[simp] theorem State.modPairLaunch_lastQueue (s : State) (c l : Nat) (f : PairLaunch → PairLaunch) : (s.modPairLaunch c l f).lastQueue = s.lastQueue := rfl
@[simp] theorem State.modPairLaunch_launches (s : State) (c l : Nat) (f : PairLaunch → PairLaunch) : (s.modPairLaunch c l f).launches = s.launches := rfl
@[simp] theorem State.modPairLaunch_raced (s : State) (c l : Nat) (f : PairLaunch → PairLaunch) : (s.modPairLaunch c l f).raced = s.raced := rfl
@[simp] theorem State.modPairLaunch_stale (s : State) (c l : Nat) (f : PairLaunch → PairLaunch) : (s.modPairLaunch c l f).stale = s.stale := rfl
@[simp] theorem State.modPairLaunch_padds (s : State) (c l : Nat) (f : PairLaunch → PairLaunch) : (s.modPairLaunch c l f).padds = s.padds := rfl
@[simp] theorem State.modPairLaunch_ctxs (s : State) (c l : Nat) (f : PairLaunch → PairLaunch) : (s.modPairLaunch c l f).ctxs = s.ctxs := rfl
@[simp] theorem State.modPairLaunch_counts (s : State) (c l : Nat) (f : PairLaunch → PairLaunch) : (s.modPairLaunch c l f).counts = s.counts := rfl
@[simp] theorem State.modPairLaunch_ring (s : State) (c l : Nat) (f : PairLaunch → PairLaunch) : (s.modPairLaunch c l f).ring = s.ring := rfl
@[simp] theorem State.modPairLaunch_mgmt (s : State) (c l : Nat) (f : PairLaunch → PairLaunch) : (s.modPairLaunch c l f).mgmt = s.mgmt := rfl
@[simp] theorem State.modPairLaunch_msix (s : State) (c l : Nat) (f : PairLaunch → PairLaunch) : (s.modPairLaunch c l f).msix = s.msix := rfl
@[simp] theorem State.modPairLaunch_peers (s : State) (c l : Nat) (f : PairLaunch → PairLaunch) : (s.modPairLaunch c l f).peers = s.peers := rfl
@[simp] theorem State.modPairLaunch_remap (s : State) (c l : Nat) (f : PairLaunch → PairLaunch) : (s.modPairLaunch c l f).remap = s.remap := rfl
@[simp] theorem State.modPairLaunch_mapchg (s : State) (c l : Nat) (f : PairLaunch → PairLaunch) : (s.modPairLaunch c l f).mapchg = s.mapchg := rfl
@[simp] theorem State.modPairLaunch_migrate (s : State) (c l : Nat) (f : PairLaunch → PairLaunch) : (s.modPairLaunch c l f).migrate = s.migrate := rfl
@[simp] theorem State.modPairLaunch_corrected (s : State) (c l : Nat) (f : PairLaunch → PairLaunch) : (s.modPairLaunch c l f).corrected = s.corrected := rfl
@[simp] theorem State.modPairLaunch_cleandrop (s : State) (c l : Nat) (f : PairLaunch → PairLaunch) : (s.modPairLaunch c l f).cleandrop = s.cleandrop := rfl
@[simp] theorem State.modPairLaunch_poisoned (s : State) (c l : Nat) (f : PairLaunch → PairLaunch) : (s.modPairLaunch c l f).poisoned = s.poisoned := rfl
@[simp] theorem State.modPairLaunch_telemetry (s : State) (c l : Nat) (f : PairLaunch → PairLaunch) : (s.modPairLaunch c l f).telemetry = s.telemetry := rfl
@[simp] theorem State.modPairLaunch_powerCap (s : State) (c l : Nat) (f : PairLaunch → PairLaunch) : (s.modPairLaunch c l f).powerCap = s.powerCap := rfl
@[simp] theorem State.modPairLaunch_powerLimit (s : State) (c l : Nat) (f : PairLaunch → PairLaunch) : (s.modPairLaunch c l f).powerLimit = s.powerLimit := rfl
@[simp] theorem State.modPairLaunch_tempLimit (s : State) (c l : Nat) (f : PairLaunch → PairLaunch) : (s.modPairLaunch c l f).tempLimit = s.tempLimit := rfl
@[simp] theorem State.modPairLaunch_capIntervals (s : State) (c l : Nat) (f : PairLaunch → PairLaunch) : (s.modPairLaunch c l f).capIntervals = s.capIntervals := rfl
@[simp] theorem State.modPairLaunch_ppm (s : State) (c l : Nat) (f : PairLaunch → PairLaunch) : (s.modPairLaunch c l f).ppm = s.ppm := rfl
@[simp] theorem State.modPairLaunch_capLast (s : State) (c l : Nat) (f : PairLaunch → PairLaunch) : (s.modPairLaunch c l f).capLast = s.capLast := rfl
@[simp] theorem State.modPairLaunch_crossed (s : State) (c l : Nat) (f : PairLaunch → PairLaunch) : (s.modPairLaunch c l f).crossed = s.crossed := rfl
@[simp] theorem State.modPairLaunch_ideKeys (s : State) (c l : Nat) (f : PairLaunch → PairLaunch) : (s.modPairLaunch c l f).ideKeys = s.ideKeys := rfl
@[simp] theorem State.modPairLaunch_skews (s : State) (c l : Nat) (f : PairLaunch → PairLaunch) : (s.modPairLaunch c l f).skews = s.skews := rfl
@[simp] theorem State.modPairLaunch_timeSource (s : State) (c l : Nat) (f : PairLaunch → PairLaunch) : (s.modPairLaunch c l f).timeSource = s.timeSource := rfl
@[simp] theorem State.modPairLaunch_margins (s : State) (c l : Nat) (f : PairLaunch → PairLaunch) : (s.modPairLaunch c l f).margins = s.margins := rfl
@[simp] theorem State.modPairLaunch_retrained (s : State) (c l : Nat) (f : PairLaunch → PairLaunch) : (s.modPairLaunch c l f).retrained = s.retrained := rfl
@[simp] theorem State.modPairLaunch_firmware (s : State) (c l : Nat) (f : PairLaunch → PairLaunch) : (s.modPairLaunch c l f).firmware = s.firmware := rfl
@[simp] theorem State.modPairLaunch_spdm (s : State) (c l : Nat) (f : PairLaunch → PairLaunch) : (s.modPairLaunch c l f).spdm = s.spdm := rfl
@[simp] theorem State.modPairLaunch_sessions (s : State) (c l : Nat) (f : PairLaunch → PairLaunch) : (s.modPairLaunch c l f).sessions = s.sessions := rfl
@[simp] theorem State.modPairLaunch_sessionOpen (s : State) (c l : Nat) (f : PairLaunch → PairLaunch) : (s.modPairLaunch c l f).sessionOpen = s.sessionOpen := rfl
@[simp] theorem State.modPairLaunch_replies (s : State) (c l : Nat) (f : PairLaunch → PairLaunch) : (s.modPairLaunch c l f).replies = s.replies := rfl
@[simp] theorem State.modPairLaunch_acks (s : State) (c l : Nat) (f : PairLaunch → PairLaunch) : (s.modPairLaunch c l f).acks = s.acks := rfl
@[simp] theorem State.modPairLaunch_acked (s : State) (c l : Nat) (f : PairLaunch → PairLaunch) : (s.modPairLaunch c l f).acked = s.acked := rfl
@[simp] theorem State.modPairLaunch_readyEvents (s : State) (c l : Nat) (f : PairLaunch → PairLaunch) : (s.modPairLaunch c l f).readyEvents = s.readyEvents := rfl
@[simp] theorem State.modPairLaunch_powerEvents (s : State) (c l : Nat) (f : PairLaunch → PairLaunch) : (s.modPairLaunch c l f).powerEvents = s.powerEvents := rfl
@[simp] theorem State.modPairLaunch_stashSerial (s : State) (c l : Nat) (f : PairLaunch → PairLaunch) : (s.modPairLaunch c l f).stashSerial = s.stashSerial := rfl
@[simp] theorem State.modPairLaunch_quarantine (s : State) (c l : Nat) (f : PairLaunch → PairLaunch) : (s.modPairLaunch c l f).quarantine = s.quarantine := rfl
@[simp] theorem State.modPairLaunch_freeCtr (s : State) (c l : Nat) (f : PairLaunch → PairLaunch) : (s.modPairLaunch c l f).freeCtr = s.freeCtr := rfl
@[simp] theorem State.modPairLaunch_order (s : State) (c l : Nat) (f : PairLaunch → PairLaunch) : (s.modPairLaunch c l f).order = s.order := rfl
@[simp] theorem State.modPairLaunch_agenda (s : State) (c l : Nat) (f : PairLaunch → PairLaunch) : (s.modPairLaunch c l f).agenda = s.agenda := rfl
@[simp] theorem State.modPairLaunch_pick (s : State) (c l : Nat) (f : PairLaunch → PairLaunch) : (s.modPairLaunch c l f).pick = s.pick := rfl
@[simp] theorem State.modPairLaunch_cur (s : State) (c l : Nat) (f : PairLaunch → PairLaunch) : (s.modPairLaunch c l f).cur = s.cur := rfl

/-! ## `State.setQueue` writes `queues` alone. -/

@[simp] theorem State.setQueue_gtime (s : State) (n : Nat) (q : Queue) : (s.setQueue n q).gtime = s.gtime := rfl
@[simp] theorem State.setQueue_lags (s : State) (n : Nat) (q : Queue) : (s.setQueue n q).lags = s.lags := rfl
@[simp] theorem State.setQueue_ready (s : State) (n : Nat) (q : Queue) : (s.setQueue n q).ready = s.ready := rfl
@[simp] theorem State.setQueue_failed (s : State) (n : Nat) (q : Queue) : (s.setQueue n q).failed = s.failed := rfl
@[simp] theorem State.setQueue_smapsn (s : State) (n : Nat) (q : Queue) : (s.setQueue n q).smapsn = s.smapsn := rfl
@[simp] theorem State.setQueue_mem (s : State) (n : Nat) (q : Queue) : (s.setQueue n q).mem = s.mem := rfl
@[simp] theorem State.setQueue_tags (s : State) (n : Nat) (q : Queue) : (s.setQueue n q).tags = s.tags := rfl
@[simp] theorem State.setQueue_poison (s : State) (n : Nat) (q : Queue) : (s.setQueue n q).poison = s.poison := rfl
@[simp] theorem State.setQueue_lines (s : State) (n : Nat) (q : Queue) : (s.setQueue n q).lines = s.lines := rfl
@[simp] theorem State.setQueue_buckets (s : State) (n : Nat) (q : Queue) : (s.setQueue n q).buckets = s.buckets := rfl
@[simp] theorem State.setQueue_mapChange (s : State) (n : Nat) (q : Queue) : (s.setQueue n q).mapChange = s.mapChange := rfl
@[simp] theorem State.setQueue_placement (s : State) (n : Nat) (q : Queue) : (s.setQueue n q).placement = s.placement := rfl
@[simp] theorem State.setQueue_moving (s : State) (n : Nat) (q : Queue) : (s.setQueue n q).moving = s.moving := rfl
@[simp] theorem State.setQueue_placeHalvings (s : State) (n : Nat) (q : Queue) : (s.setQueue n q).placeHalvings = s.placeHalvings := rfl
@[simp] theorem State.setQueue_ops (s : State) (n : Nat) (q : Queue) : (s.setQueue n q).ops = s.ops := rfl
@[simp] theorem State.setQueue_nextOp (s : State) (n : Nat) (q : Queue) : (s.setQueue n q).nextOp = s.nextOp := rfl
@[simp] theorem State.setQueue_posted (s : State) (n : Nat) (q : Queue) : (s.setQueue n q).posted = s.posted := rfl
@[simp] theorem State.setQueue_srcWct (s : State) (n : Nat) (q : Queue) : (s.setQueue n q).srcWct = s.srcWct := rfl
@[simp] theorem State.setQueue_watches (s : State) (n : Nat) (q : Queue) : (s.setQueue n q).watches = s.watches := rfl
@[simp] theorem State.setQueue_teams (s : State) (n : Nat) (q : Queue) : (s.setQueue n q).teams = s.teams := rfl
@[simp] theorem State.setQueue_nextUid (s : State) (n : Nat) (q : Queue) : (s.setQueue n q).nextUid = s.nextUid := rfl
@[simp] theorem State.setQueue_cores (s : State) (n : Nat) (q : Queue) : (s.setQueue n q).cores = s.cores := rfl
@[simp] theorem State.setQueue_hamper (s : State) (n : Nat) (q : Queue) : (s.setQueue n q).hamper = s.hamper := rfl
@[simp] theorem State.setQueue_credits (s : State) (n : Nat) (q : Queue) : (s.setQueue n q).credits = s.credits := rfl
@[simp] theorem State.setQueue_mcast (s : State) (n : Nat) (q : Queue) : (s.setQueue n q).mcast = s.mcast := rfl
@[simp] theorem State.setQueue_l2tlb (s : State) (n : Nat) (q : Queue) : (s.setQueue n q).l2tlb = s.l2tlb := rfl
@[simp] theorem State.setQueue_icache (s : State) (n : Nat) (q : Queue) : (s.setQueue n q).icache = s.icache := rfl
@[simp] theorem State.setQueue_slots (s : State) (n : Nat) (q : Queue) : (s.setQueue n q).slots = s.slots := rfl
@[simp] theorem State.setQueue_shadows (s : State) (n : Nat) (q : Queue) : (s.setQueue n q).shadows = s.shadows := rfl
@[simp] theorem State.setQueue_broadcasts (s : State) (n : Nat) (q : Queue) : (s.setQueue n q).broadcasts = s.broadcasts := rfl
@[simp] theorem State.setQueue_increqs (s : State) (n : Nat) (q : Queue) : (s.setQueue n q).increqs = s.increqs := rfl
@[simp] theorem State.setQueue_heaps (s : State) (n : Nat) (q : Queue) : (s.setQueue n q).heaps = s.heaps := rfl
@[simp] theorem State.setQueue_heapTurn (s : State) (n : Nat) (q : Queue) : (s.setQueue n q).heapTurn = s.heapTurn := rfl
@[simp] theorem State.setQueue_spilled (s : State) (n : Nat) (q : Queue) : (s.setQueue n q).spilled = s.spilled := rfl
@[simp] theorem State.setQueue_grids (s : State) (n : Nat) (q : Queue) : (s.setQueue n q).grids = s.grids := rfl
@[simp] theorem State.setQueue_lastQueue (s : State) (n : Nat) (q : Queue) : (s.setQueue n q).lastQueue = s.lastQueue := rfl
@[simp] theorem State.setQueue_launches (s : State) (n : Nat) (q : Queue) : (s.setQueue n q).launches = s.launches := rfl
@[simp] theorem State.setQueue_pairLaunches (s : State) (n : Nat) (q : Queue) : (s.setQueue n q).pairLaunches = s.pairLaunches := rfl
@[simp] theorem State.setQueue_raced (s : State) (n : Nat) (q : Queue) : (s.setQueue n q).raced = s.raced := rfl
@[simp] theorem State.setQueue_stale (s : State) (n : Nat) (q : Queue) : (s.setQueue n q).stale = s.stale := rfl
@[simp] theorem State.setQueue_padds (s : State) (n : Nat) (q : Queue) : (s.setQueue n q).padds = s.padds := rfl
@[simp] theorem State.setQueue_ctxs (s : State) (n : Nat) (q : Queue) : (s.setQueue n q).ctxs = s.ctxs := rfl
@[simp] theorem State.setQueue_counts (s : State) (n : Nat) (q : Queue) : (s.setQueue n q).counts = s.counts := rfl
@[simp] theorem State.setQueue_ring (s : State) (n : Nat) (q : Queue) : (s.setQueue n q).ring = s.ring := rfl
@[simp] theorem State.setQueue_mgmt (s : State) (n : Nat) (q : Queue) : (s.setQueue n q).mgmt = s.mgmt := rfl
@[simp] theorem State.setQueue_msix (s : State) (n : Nat) (q : Queue) : (s.setQueue n q).msix = s.msix := rfl
@[simp] theorem State.setQueue_peers (s : State) (n : Nat) (q : Queue) : (s.setQueue n q).peers = s.peers := rfl
@[simp] theorem State.setQueue_remap (s : State) (n : Nat) (q : Queue) : (s.setQueue n q).remap = s.remap := rfl
@[simp] theorem State.setQueue_mapchg (s : State) (n : Nat) (q : Queue) : (s.setQueue n q).mapchg = s.mapchg := rfl
@[simp] theorem State.setQueue_migrate (s : State) (n : Nat) (q : Queue) : (s.setQueue n q).migrate = s.migrate := rfl
@[simp] theorem State.setQueue_corrected (s : State) (n : Nat) (q : Queue) : (s.setQueue n q).corrected = s.corrected := rfl
@[simp] theorem State.setQueue_cleandrop (s : State) (n : Nat) (q : Queue) : (s.setQueue n q).cleandrop = s.cleandrop := rfl
@[simp] theorem State.setQueue_poisoned (s : State) (n : Nat) (q : Queue) : (s.setQueue n q).poisoned = s.poisoned := rfl
@[simp] theorem State.setQueue_telemetry (s : State) (n : Nat) (q : Queue) : (s.setQueue n q).telemetry = s.telemetry := rfl
@[simp] theorem State.setQueue_powerCap (s : State) (n : Nat) (q : Queue) : (s.setQueue n q).powerCap = s.powerCap := rfl
@[simp] theorem State.setQueue_powerLimit (s : State) (n : Nat) (q : Queue) : (s.setQueue n q).powerLimit = s.powerLimit := rfl
@[simp] theorem State.setQueue_tempLimit (s : State) (n : Nat) (q : Queue) : (s.setQueue n q).tempLimit = s.tempLimit := rfl
@[simp] theorem State.setQueue_capIntervals (s : State) (n : Nat) (q : Queue) : (s.setQueue n q).capIntervals = s.capIntervals := rfl
@[simp] theorem State.setQueue_ppm (s : State) (n : Nat) (q : Queue) : (s.setQueue n q).ppm = s.ppm := rfl
@[simp] theorem State.setQueue_capLast (s : State) (n : Nat) (q : Queue) : (s.setQueue n q).capLast = s.capLast := rfl
@[simp] theorem State.setQueue_crossed (s : State) (n : Nat) (q : Queue) : (s.setQueue n q).crossed = s.crossed := rfl
@[simp] theorem State.setQueue_ideKeys (s : State) (n : Nat) (q : Queue) : (s.setQueue n q).ideKeys = s.ideKeys := rfl
@[simp] theorem State.setQueue_skews (s : State) (n : Nat) (q : Queue) : (s.setQueue n q).skews = s.skews := rfl
@[simp] theorem State.setQueue_timeSource (s : State) (n : Nat) (q : Queue) : (s.setQueue n q).timeSource = s.timeSource := rfl
@[simp] theorem State.setQueue_margins (s : State) (n : Nat) (q : Queue) : (s.setQueue n q).margins = s.margins := rfl
@[simp] theorem State.setQueue_retrained (s : State) (n : Nat) (q : Queue) : (s.setQueue n q).retrained = s.retrained := rfl
@[simp] theorem State.setQueue_firmware (s : State) (n : Nat) (q : Queue) : (s.setQueue n q).firmware = s.firmware := rfl
@[simp] theorem State.setQueue_spdm (s : State) (n : Nat) (q : Queue) : (s.setQueue n q).spdm = s.spdm := rfl
@[simp] theorem State.setQueue_sessions (s : State) (n : Nat) (q : Queue) : (s.setQueue n q).sessions = s.sessions := rfl
@[simp] theorem State.setQueue_sessionOpen (s : State) (n : Nat) (q : Queue) : (s.setQueue n q).sessionOpen = s.sessionOpen := rfl
@[simp] theorem State.setQueue_replies (s : State) (n : Nat) (q : Queue) : (s.setQueue n q).replies = s.replies := rfl
@[simp] theorem State.setQueue_acks (s : State) (n : Nat) (q : Queue) : (s.setQueue n q).acks = s.acks := rfl
@[simp] theorem State.setQueue_acked (s : State) (n : Nat) (q : Queue) : (s.setQueue n q).acked = s.acked := rfl
@[simp] theorem State.setQueue_readyEvents (s : State) (n : Nat) (q : Queue) : (s.setQueue n q).readyEvents = s.readyEvents := rfl
@[simp] theorem State.setQueue_powerEvents (s : State) (n : Nat) (q : Queue) : (s.setQueue n q).powerEvents = s.powerEvents := rfl
@[simp] theorem State.setQueue_stashSerial (s : State) (n : Nat) (q : Queue) : (s.setQueue n q).stashSerial = s.stashSerial := rfl
@[simp] theorem State.setQueue_quarantine (s : State) (n : Nat) (q : Queue) : (s.setQueue n q).quarantine = s.quarantine := rfl
@[simp] theorem State.setQueue_freeCtr (s : State) (n : Nat) (q : Queue) : (s.setQueue n q).freeCtr = s.freeCtr := rfl
@[simp] theorem State.setQueue_order (s : State) (n : Nat) (q : Queue) : (s.setQueue n q).order = s.order := rfl
@[simp] theorem State.setQueue_agenda (s : State) (n : Nat) (q : Queue) : (s.setQueue n q).agenda = s.agenda := rfl
@[simp] theorem State.setQueue_pick (s : State) (n : Nat) (q : Queue) : (s.setQueue n q).pick = s.pick := rfl
@[simp] theorem State.setQueue_cur (s : State) (n : Nat) (q : Queue) : (s.setQueue n q).cur = s.cur := rfl

/-! ## `State.setOp` writes `ops` alone. -/

@[simp] theorem State.setOp_gtime (s : State) (n : Nat) (o : MemOp) : (s.setOp n o).gtime = s.gtime := rfl
@[simp] theorem State.setOp_lags (s : State) (n : Nat) (o : MemOp) : (s.setOp n o).lags = s.lags := rfl
@[simp] theorem State.setOp_ready (s : State) (n : Nat) (o : MemOp) : (s.setOp n o).ready = s.ready := rfl
@[simp] theorem State.setOp_failed (s : State) (n : Nat) (o : MemOp) : (s.setOp n o).failed = s.failed := rfl
@[simp] theorem State.setOp_smapsn (s : State) (n : Nat) (o : MemOp) : (s.setOp n o).smapsn = s.smapsn := rfl
@[simp] theorem State.setOp_mem (s : State) (n : Nat) (o : MemOp) : (s.setOp n o).mem = s.mem := rfl
@[simp] theorem State.setOp_tags (s : State) (n : Nat) (o : MemOp) : (s.setOp n o).tags = s.tags := rfl
@[simp] theorem State.setOp_poison (s : State) (n : Nat) (o : MemOp) : (s.setOp n o).poison = s.poison := rfl
@[simp] theorem State.setOp_lines (s : State) (n : Nat) (o : MemOp) : (s.setOp n o).lines = s.lines := rfl
@[simp] theorem State.setOp_buckets (s : State) (n : Nat) (o : MemOp) : (s.setOp n o).buckets = s.buckets := rfl
@[simp] theorem State.setOp_mapChange (s : State) (n : Nat) (o : MemOp) : (s.setOp n o).mapChange = s.mapChange := rfl
@[simp] theorem State.setOp_placement (s : State) (n : Nat) (o : MemOp) : (s.setOp n o).placement = s.placement := rfl
@[simp] theorem State.setOp_moving (s : State) (n : Nat) (o : MemOp) : (s.setOp n o).moving = s.moving := rfl
@[simp] theorem State.setOp_placeHalvings (s : State) (n : Nat) (o : MemOp) : (s.setOp n o).placeHalvings = s.placeHalvings := rfl
@[simp] theorem State.setOp_nextOp (s : State) (n : Nat) (o : MemOp) : (s.setOp n o).nextOp = s.nextOp := rfl
@[simp] theorem State.setOp_posted (s : State) (n : Nat) (o : MemOp) : (s.setOp n o).posted = s.posted := rfl
@[simp] theorem State.setOp_srcWct (s : State) (n : Nat) (o : MemOp) : (s.setOp n o).srcWct = s.srcWct := rfl
@[simp] theorem State.setOp_watches (s : State) (n : Nat) (o : MemOp) : (s.setOp n o).watches = s.watches := rfl
@[simp] theorem State.setOp_teams (s : State) (n : Nat) (o : MemOp) : (s.setOp n o).teams = s.teams := rfl
@[simp] theorem State.setOp_nextUid (s : State) (n : Nat) (o : MemOp) : (s.setOp n o).nextUid = s.nextUid := rfl
@[simp] theorem State.setOp_cores (s : State) (n : Nat) (o : MemOp) : (s.setOp n o).cores = s.cores := rfl
@[simp] theorem State.setOp_hamper (s : State) (n : Nat) (o : MemOp) : (s.setOp n o).hamper = s.hamper := rfl
@[simp] theorem State.setOp_credits (s : State) (n : Nat) (o : MemOp) : (s.setOp n o).credits = s.credits := rfl
@[simp] theorem State.setOp_mcast (s : State) (n : Nat) (o : MemOp) : (s.setOp n o).mcast = s.mcast := rfl
@[simp] theorem State.setOp_l2tlb (s : State) (n : Nat) (o : MemOp) : (s.setOp n o).l2tlb = s.l2tlb := rfl
@[simp] theorem State.setOp_icache (s : State) (n : Nat) (o : MemOp) : (s.setOp n o).icache = s.icache := rfl
@[simp] theorem State.setOp_slots (s : State) (n : Nat) (o : MemOp) : (s.setOp n o).slots = s.slots := rfl
@[simp] theorem State.setOp_shadows (s : State) (n : Nat) (o : MemOp) : (s.setOp n o).shadows = s.shadows := rfl
@[simp] theorem State.setOp_broadcasts (s : State) (n : Nat) (o : MemOp) : (s.setOp n o).broadcasts = s.broadcasts := rfl
@[simp] theorem State.setOp_increqs (s : State) (n : Nat) (o : MemOp) : (s.setOp n o).increqs = s.increqs := rfl
@[simp] theorem State.setOp_heaps (s : State) (n : Nat) (o : MemOp) : (s.setOp n o).heaps = s.heaps := rfl
@[simp] theorem State.setOp_heapTurn (s : State) (n : Nat) (o : MemOp) : (s.setOp n o).heapTurn = s.heapTurn := rfl
@[simp] theorem State.setOp_spilled (s : State) (n : Nat) (o : MemOp) : (s.setOp n o).spilled = s.spilled := rfl
@[simp] theorem State.setOp_grids (s : State) (n : Nat) (o : MemOp) : (s.setOp n o).grids = s.grids := rfl
@[simp] theorem State.setOp_queues (s : State) (n : Nat) (o : MemOp) : (s.setOp n o).queues = s.queues := rfl
@[simp] theorem State.setOp_lastQueue (s : State) (n : Nat) (o : MemOp) : (s.setOp n o).lastQueue = s.lastQueue := rfl
@[simp] theorem State.setOp_launches (s : State) (n : Nat) (o : MemOp) : (s.setOp n o).launches = s.launches := rfl
@[simp] theorem State.setOp_pairLaunches (s : State) (n : Nat) (o : MemOp) : (s.setOp n o).pairLaunches = s.pairLaunches := rfl
@[simp] theorem State.setOp_raced (s : State) (n : Nat) (o : MemOp) : (s.setOp n o).raced = s.raced := rfl
@[simp] theorem State.setOp_stale (s : State) (n : Nat) (o : MemOp) : (s.setOp n o).stale = s.stale := rfl
@[simp] theorem State.setOp_padds (s : State) (n : Nat) (o : MemOp) : (s.setOp n o).padds = s.padds := rfl
@[simp] theorem State.setOp_ctxs (s : State) (n : Nat) (o : MemOp) : (s.setOp n o).ctxs = s.ctxs := rfl
@[simp] theorem State.setOp_counts (s : State) (n : Nat) (o : MemOp) : (s.setOp n o).counts = s.counts := rfl
@[simp] theorem State.setOp_ring (s : State) (n : Nat) (o : MemOp) : (s.setOp n o).ring = s.ring := rfl
@[simp] theorem State.setOp_mgmt (s : State) (n : Nat) (o : MemOp) : (s.setOp n o).mgmt = s.mgmt := rfl
@[simp] theorem State.setOp_msix (s : State) (n : Nat) (o : MemOp) : (s.setOp n o).msix = s.msix := rfl
@[simp] theorem State.setOp_peers (s : State) (n : Nat) (o : MemOp) : (s.setOp n o).peers = s.peers := rfl
@[simp] theorem State.setOp_remap (s : State) (n : Nat) (o : MemOp) : (s.setOp n o).remap = s.remap := rfl
@[simp] theorem State.setOp_mapchg (s : State) (n : Nat) (o : MemOp) : (s.setOp n o).mapchg = s.mapchg := rfl
@[simp] theorem State.setOp_migrate (s : State) (n : Nat) (o : MemOp) : (s.setOp n o).migrate = s.migrate := rfl
@[simp] theorem State.setOp_corrected (s : State) (n : Nat) (o : MemOp) : (s.setOp n o).corrected = s.corrected := rfl
@[simp] theorem State.setOp_cleandrop (s : State) (n : Nat) (o : MemOp) : (s.setOp n o).cleandrop = s.cleandrop := rfl
@[simp] theorem State.setOp_poisoned (s : State) (n : Nat) (o : MemOp) : (s.setOp n o).poisoned = s.poisoned := rfl
@[simp] theorem State.setOp_telemetry (s : State) (n : Nat) (o : MemOp) : (s.setOp n o).telemetry = s.telemetry := rfl
@[simp] theorem State.setOp_powerCap (s : State) (n : Nat) (o : MemOp) : (s.setOp n o).powerCap = s.powerCap := rfl
@[simp] theorem State.setOp_powerLimit (s : State) (n : Nat) (o : MemOp) : (s.setOp n o).powerLimit = s.powerLimit := rfl
@[simp] theorem State.setOp_tempLimit (s : State) (n : Nat) (o : MemOp) : (s.setOp n o).tempLimit = s.tempLimit := rfl
@[simp] theorem State.setOp_capIntervals (s : State) (n : Nat) (o : MemOp) : (s.setOp n o).capIntervals = s.capIntervals := rfl
@[simp] theorem State.setOp_ppm (s : State) (n : Nat) (o : MemOp) : (s.setOp n o).ppm = s.ppm := rfl
@[simp] theorem State.setOp_capLast (s : State) (n : Nat) (o : MemOp) : (s.setOp n o).capLast = s.capLast := rfl
@[simp] theorem State.setOp_crossed (s : State) (n : Nat) (o : MemOp) : (s.setOp n o).crossed = s.crossed := rfl
@[simp] theorem State.setOp_ideKeys (s : State) (n : Nat) (o : MemOp) : (s.setOp n o).ideKeys = s.ideKeys := rfl
@[simp] theorem State.setOp_skews (s : State) (n : Nat) (o : MemOp) : (s.setOp n o).skews = s.skews := rfl
@[simp] theorem State.setOp_timeSource (s : State) (n : Nat) (o : MemOp) : (s.setOp n o).timeSource = s.timeSource := rfl
@[simp] theorem State.setOp_margins (s : State) (n : Nat) (o : MemOp) : (s.setOp n o).margins = s.margins := rfl
@[simp] theorem State.setOp_retrained (s : State) (n : Nat) (o : MemOp) : (s.setOp n o).retrained = s.retrained := rfl
@[simp] theorem State.setOp_firmware (s : State) (n : Nat) (o : MemOp) : (s.setOp n o).firmware = s.firmware := rfl
@[simp] theorem State.setOp_spdm (s : State) (n : Nat) (o : MemOp) : (s.setOp n o).spdm = s.spdm := rfl
@[simp] theorem State.setOp_sessions (s : State) (n : Nat) (o : MemOp) : (s.setOp n o).sessions = s.sessions := rfl
@[simp] theorem State.setOp_sessionOpen (s : State) (n : Nat) (o : MemOp) : (s.setOp n o).sessionOpen = s.sessionOpen := rfl
@[simp] theorem State.setOp_replies (s : State) (n : Nat) (o : MemOp) : (s.setOp n o).replies = s.replies := rfl
@[simp] theorem State.setOp_acks (s : State) (n : Nat) (o : MemOp) : (s.setOp n o).acks = s.acks := rfl
@[simp] theorem State.setOp_acked (s : State) (n : Nat) (o : MemOp) : (s.setOp n o).acked = s.acked := rfl
@[simp] theorem State.setOp_readyEvents (s : State) (n : Nat) (o : MemOp) : (s.setOp n o).readyEvents = s.readyEvents := rfl
@[simp] theorem State.setOp_powerEvents (s : State) (n : Nat) (o : MemOp) : (s.setOp n o).powerEvents = s.powerEvents := rfl
@[simp] theorem State.setOp_stashSerial (s : State) (n : Nat) (o : MemOp) : (s.setOp n o).stashSerial = s.stashSerial := rfl
@[simp] theorem State.setOp_quarantine (s : State) (n : Nat) (o : MemOp) : (s.setOp n o).quarantine = s.quarantine := rfl
@[simp] theorem State.setOp_freeCtr (s : State) (n : Nat) (o : MemOp) : (s.setOp n o).freeCtr = s.freeCtr := rfl
@[simp] theorem State.setOp_order (s : State) (n : Nat) (o : MemOp) : (s.setOp n o).order = s.order := rfl
@[simp] theorem State.setOp_agenda (s : State) (n : Nat) (o : MemOp) : (s.setOp n o).agenda = s.agenda := rfl
@[simp] theorem State.setOp_pick (s : State) (n : Nat) (o : MemOp) : (s.setOp n o).pick = s.pick := rfl
@[simp] theorem State.setOp_cur (s : State) (n : Nat) (o : MemOp) : (s.setOp n o).cur = s.cur := rfl

/-! ## `Grp.setS` writes `s` alone. -/

@[simp] theorem Grp.setS_v (g : Grp) (n : Nat) (v : Word) : (g.setS n v).v = g.v := rfl
@[simp] theorem Grp.setS_p (g : Grp) (n : Nat) (v : Word) : (g.setS n v).p = g.p := rfl
@[simp] theorem Grp.setS_exited (g : Grp) (n : Nat) (v : Word) : (g.setS n v).exited = g.exited := rfl
@[simp] theorem Grp.setS_quads (g : Grp) (n : Nat) (v : Word) : (g.setS n v).quads = g.quads := rfl
@[simp] theorem Grp.setS_nmode (g : Grp) (n : Nat) (v : Word) : (g.setS n v).nmode = g.nmode := rfl
@[simp] theorem Grp.setS_gflags (g : Grp) (n : Nat) (v : Word) : (g.setS n v).gflags = g.gflags := rfl
@[simp] theorem Grp.setS_garm (g : Grp) (n : Nat) (v : Word) : (g.setS n v).garm = g.garm := rfl
@[simp] theorem Grp.setS_members (g : Grp) (n : Nat) (v : Word) : (g.setS n v).members = g.members := rfl
@[simp] theorem Grp.setS_nextop (g : Grp) (n : Nat) (v : Word) : (g.setS n v).nextop = g.nextop := rfl
@[simp] theorem Grp.setS_bopen (g : Grp) (n : Nat) (v : Word) : (g.setS n v).bopen = g.bopen := rfl
@[simp] theorem Grp.setS_bops (g : Grp) (n : Nat) (v : Word) : (g.setS n v).bops = g.bops := rfl
@[simp] theorem Grp.setS_closed (g : Grp) (n : Nat) (v : Word) : (g.setS n v).closed = g.closed := rfl
@[simp] theorem Grp.setS_defer (g : Grp) (n : Nat) (v : Word) : (g.setS n v).defer = g.defer := rfl
@[simp] theorem Grp.setS_mops (g : Grp) (n : Nat) (v : Word) : (g.setS n v).mops = g.mops := rfl
@[simp] theorem Grp.setS_ifc0 (g : Grp) (n : Nat) (v : Word) : (g.setS n v).ifc0 = g.ifc0 := rfl
@[simp] theorem Grp.setS_ifc1 (g : Grp) (n : Nat) (v : Word) : (g.setS n v).ifc1 = g.ifc1 := rfl
@[simp] theorem Grp.setS_ifc2 (g : Grp) (n : Nat) (v : Word) : (g.setS n v).ifc2 = g.ifc2 := rfl
@[simp] theorem Grp.setS_ifc3 (g : Grp) (n : Nat) (v : Word) : (g.setS n v).ifc3 = g.ifc3 := rfl
@[simp] theorem Grp.setS_tbound (g : Grp) (n : Nat) (v : Word) : (g.setS n v).tbound = g.tbound := rfl
@[simp] theorem Grp.setS_tslot (g : Grp) (n : Nat) (v : Word) : (g.setS n v).tslot = g.tslot := rfl
@[simp] theorem Grp.setS_gtcmp (g : Grp) (n : Nat) (v : Word) : (g.setS n v).gtcmp = g.gtcmp := rfl
@[simp] theorem Grp.setS_stage (g : Grp) (n : Nat) (v : Word) : (g.setS n v).stage = g.stage := rfl
@[simp] theorem Grp.setS_latch (g : Grp) (n : Nat) (v : Word) : (g.setS n v).latch = g.latch := rfl
@[simp] theorem Grp.setS_hints (g : Grp) (n : Nat) (v : Word) : (g.setS n v).hints = g.hints := rfl
@[simp] theorem Grp.setS_rep (g : Grp) (n : Nat) (v : Word) : (g.setS n v).rep = g.rep := rfl
@[simp] theorem Grp.setS_hintPc (g : Grp) (n : Nat) (v : Word) : (g.setS n v).hintPc = g.hintPc := rfl
@[simp] theorem Grp.setS_id (g : Grp) (n : Nat) (v : Word) : (g.setS n v).id = g.id := rfl
@[simp] theorem Grp.setS_fcode (g : Grp) (n : Nat) (v : Word) : (g.setS n v).fcode = g.fcode := rfl
@[simp] theorem Grp.setS_fpc (g : Grp) (n : Nat) (v : Word) : (g.setS n v).fpc = g.fpc := rfl
@[simp] theorem Grp.setS_faddr (g : Grp) (n : Nat) (v : Word) : (g.setS n v).faddr = g.faddr := rfl
@[simp] theorem Grp.setS_fhalt (g : Grp) (n : Nat) (v : Word) : (g.setS n v).fhalt = g.fhalt := rfl
@[simp] theorem Grp.setS_skid (g : Grp) (n : Nat) (v : Word) : (g.setS n v).skid = g.skid := rfl
@[simp] theorem Grp.setS_faux (g : Grp) (n : Nat) (v : Word) : (g.setS n v).faux = g.faux := rfl
@[simp] theorem Grp.setS_epoch (g : Grp) (n : Nat) (v : Word) : (g.setS n v).epoch = g.epoch := rfl
@[simp] theorem Grp.setS_hcount (g : Grp) (n : Nat) (v : Word) : (g.setS n v).hcount = g.hcount := rfl
@[simp] theorem Grp.setS_emitted (g : Grp) (n : Nat) (v : Word) : (g.setS n v).emitted = g.emitted := rfl
@[simp] theorem Grp.setS_pairs (g : Grp) (n : Nat) (v : Word) : (g.setS n v).pairs = g.pairs := rfl
@[simp] theorem Grp.setS_frame (g : Grp) (n : Nat) (v : Word) : (g.setS n v).frame = g.frame := rfl
@[simp] theorem Grp.setS_frag (g : Grp) (n : Nat) (v : Word) : (g.setS n v).frag = g.frag := rfl
@[simp] theorem Grp.setS_primary (g : Grp) (n : Nat) (v : Word) : (g.setS n v).primary = g.primary := rfl
@[simp] theorem Grp.setS_pending (g : Grp) (n : Nat) (v : Word) : (g.setS n v).pending = g.pending := rfl
@[simp] theorem Grp.setS_waits (g : Grp) (n : Nat) (v : Word) : (g.setS n v).waits = g.waits := rfl
@[simp] theorem Grp.setS_fences (g : Grp) (n : Nat) (v : Word) : (g.setS n v).fences = g.fences := rfl
@[simp] theorem Grp.setS_muster (g : Grp) (n : Nat) (v : Word) : (g.setS n v).muster = g.muster := rfl
@[simp] theorem Grp.setS_run (g : Grp) (n : Nat) (v : Word) : (g.setS n v).run = g.run := rfl
@[simp] theorem Grp.setS_halting (g : Grp) (n : Nat) (v : Word) : (g.setS n v).halting = g.halting := rfl
@[simp] theorem Grp.setS_frozen (g : Grp) (n : Nat) (v : Word) : (g.setS n v).frozen = g.frozen := rfl
@[simp] theorem Grp.setS_yielded (g : Grp) (n : Nat) (v : Word) : (g.setS n v).yielded = g.yielded := rfl
@[simp] theorem Grp.setS_soft (g : Grp) (n : Nat) (v : Word) : (g.setS n v).soft = g.soft := rfl
@[simp] theorem Grp.setS_softLanes (g : Grp) (n : Nat) (v : Word) : (g.setS n v).softLanes = g.softLanes := rfl
@[simp] theorem Grp.setS_regErrs (g : Grp) (n : Nat) (v : Word) : (g.setS n v).regErrs = g.regErrs := rfl
@[simp] theorem Grp.setS_owed (g : Grp) (n : Nat) (v : Word) : (g.setS n v).owed = g.owed := rfl
@[simp] theorem Grp.setS_score (g : Grp) (n : Nat) (v : Word) : (g.setS n v).score = g.score := rfl
@[simp] theorem Grp.setS_last (g : Grp) (n : Nat) (v : Word) : (g.setS n v).last = g.last := rfl
@[simp] theorem Grp.setS_issues (g : Grp) (n : Nat) (v : Word) : (g.setS n v).issues = g.issues := rfl
@[simp] theorem Grp.setS_gave (g : Grp) (n : Nat) (v : Word) : (g.setS n v).gave = g.gave := rfl
@[simp] theorem Grp.setS_denied (g : Grp) (n : Nat) (v : Word) : (g.setS n v).denied = g.denied := rfl
@[simp] theorem Grp.setS_inSlot (g : Grp) (n : Nat) (v : Word) : (g.setS n v).inSlot = g.inSlot := rfl

/-! ## `Grp.setV` writes `v` alone. -/

@[simp] theorem Grp.setV_p (g : Grp) (r : Nat) (m : LaneMask) (f : Nat → Word) : (g.setV r m f).p = g.p := rfl
@[simp] theorem Grp.setV_s (g : Grp) (r : Nat) (m : LaneMask) (f : Nat → Word) : (g.setV r m f).s = g.s := rfl
@[simp] theorem Grp.setV_exited (g : Grp) (r : Nat) (m : LaneMask) (f : Nat → Word) : (g.setV r m f).exited = g.exited := rfl
@[simp] theorem Grp.setV_quads (g : Grp) (r : Nat) (m : LaneMask) (f : Nat → Word) : (g.setV r m f).quads = g.quads := rfl
@[simp] theorem Grp.setV_nmode (g : Grp) (r : Nat) (m : LaneMask) (f : Nat → Word) : (g.setV r m f).nmode = g.nmode := rfl
@[simp] theorem Grp.setV_gflags (g : Grp) (r : Nat) (m : LaneMask) (f : Nat → Word) : (g.setV r m f).gflags = g.gflags := rfl
@[simp] theorem Grp.setV_garm (g : Grp) (r : Nat) (m : LaneMask) (f : Nat → Word) : (g.setV r m f).garm = g.garm := rfl
@[simp] theorem Grp.setV_members (g : Grp) (r : Nat) (m : LaneMask) (f : Nat → Word) : (g.setV r m f).members = g.members := rfl
@[simp] theorem Grp.setV_nextop (g : Grp) (r : Nat) (m : LaneMask) (f : Nat → Word) : (g.setV r m f).nextop = g.nextop := rfl
@[simp] theorem Grp.setV_bopen (g : Grp) (r : Nat) (m : LaneMask) (f : Nat → Word) : (g.setV r m f).bopen = g.bopen := rfl
@[simp] theorem Grp.setV_bops (g : Grp) (r : Nat) (m : LaneMask) (f : Nat → Word) : (g.setV r m f).bops = g.bops := rfl
@[simp] theorem Grp.setV_closed (g : Grp) (r : Nat) (m : LaneMask) (f : Nat → Word) : (g.setV r m f).closed = g.closed := rfl
@[simp] theorem Grp.setV_defer (g : Grp) (r : Nat) (m : LaneMask) (f : Nat → Word) : (g.setV r m f).defer = g.defer := rfl
@[simp] theorem Grp.setV_mops (g : Grp) (r : Nat) (m : LaneMask) (f : Nat → Word) : (g.setV r m f).mops = g.mops := rfl
@[simp] theorem Grp.setV_ifc0 (g : Grp) (r : Nat) (m : LaneMask) (f : Nat → Word) : (g.setV r m f).ifc0 = g.ifc0 := rfl
@[simp] theorem Grp.setV_ifc1 (g : Grp) (r : Nat) (m : LaneMask) (f : Nat → Word) : (g.setV r m f).ifc1 = g.ifc1 := rfl
@[simp] theorem Grp.setV_ifc2 (g : Grp) (r : Nat) (m : LaneMask) (f : Nat → Word) : (g.setV r m f).ifc2 = g.ifc2 := rfl
@[simp] theorem Grp.setV_ifc3 (g : Grp) (r : Nat) (m : LaneMask) (f : Nat → Word) : (g.setV r m f).ifc3 = g.ifc3 := rfl
@[simp] theorem Grp.setV_tbound (g : Grp) (r : Nat) (m : LaneMask) (f : Nat → Word) : (g.setV r m f).tbound = g.tbound := rfl
@[simp] theorem Grp.setV_tslot (g : Grp) (r : Nat) (m : LaneMask) (f : Nat → Word) : (g.setV r m f).tslot = g.tslot := rfl
@[simp] theorem Grp.setV_gtcmp (g : Grp) (r : Nat) (m : LaneMask) (f : Nat → Word) : (g.setV r m f).gtcmp = g.gtcmp := rfl
@[simp] theorem Grp.setV_stage (g : Grp) (r : Nat) (m : LaneMask) (f : Nat → Word) : (g.setV r m f).stage = g.stage := rfl
@[simp] theorem Grp.setV_latch (g : Grp) (r : Nat) (m : LaneMask) (f : Nat → Word) : (g.setV r m f).latch = g.latch := rfl
@[simp] theorem Grp.setV_hints (g : Grp) (r : Nat) (m : LaneMask) (f : Nat → Word) : (g.setV r m f).hints = g.hints := rfl
@[simp] theorem Grp.setV_rep (g : Grp) (r : Nat) (m : LaneMask) (f : Nat → Word) : (g.setV r m f).rep = g.rep := rfl
@[simp] theorem Grp.setV_hintPc (g : Grp) (r : Nat) (m : LaneMask) (f : Nat → Word) : (g.setV r m f).hintPc = g.hintPc := rfl
@[simp] theorem Grp.setV_id (g : Grp) (r : Nat) (m : LaneMask) (f : Nat → Word) : (g.setV r m f).id = g.id := rfl
@[simp] theorem Grp.setV_fcode (g : Grp) (r : Nat) (m : LaneMask) (f : Nat → Word) : (g.setV r m f).fcode = g.fcode := rfl
@[simp] theorem Grp.setV_fpc (g : Grp) (r : Nat) (m : LaneMask) (f : Nat → Word) : (g.setV r m f).fpc = g.fpc := rfl
@[simp] theorem Grp.setV_faddr (g : Grp) (r : Nat) (m : LaneMask) (f : Nat → Word) : (g.setV r m f).faddr = g.faddr := rfl
@[simp] theorem Grp.setV_fhalt (g : Grp) (r : Nat) (m : LaneMask) (f : Nat → Word) : (g.setV r m f).fhalt = g.fhalt := rfl
@[simp] theorem Grp.setV_skid (g : Grp) (r : Nat) (m : LaneMask) (f : Nat → Word) : (g.setV r m f).skid = g.skid := rfl
@[simp] theorem Grp.setV_faux (g : Grp) (r : Nat) (m : LaneMask) (f : Nat → Word) : (g.setV r m f).faux = g.faux := rfl
@[simp] theorem Grp.setV_epoch (g : Grp) (r : Nat) (m : LaneMask) (f : Nat → Word) : (g.setV r m f).epoch = g.epoch := rfl
@[simp] theorem Grp.setV_hcount (g : Grp) (r : Nat) (m : LaneMask) (f : Nat → Word) : (g.setV r m f).hcount = g.hcount := rfl
@[simp] theorem Grp.setV_emitted (g : Grp) (r : Nat) (m : LaneMask) (f : Nat → Word) : (g.setV r m f).emitted = g.emitted := rfl
@[simp] theorem Grp.setV_pairs (g : Grp) (r : Nat) (m : LaneMask) (f : Nat → Word) : (g.setV r m f).pairs = g.pairs := rfl
@[simp] theorem Grp.setV_frame (g : Grp) (r : Nat) (m : LaneMask) (f : Nat → Word) : (g.setV r m f).frame = g.frame := rfl
@[simp] theorem Grp.setV_frag (g : Grp) (r : Nat) (m : LaneMask) (f : Nat → Word) : (g.setV r m f).frag = g.frag := rfl
@[simp] theorem Grp.setV_primary (g : Grp) (r : Nat) (m : LaneMask) (f : Nat → Word) : (g.setV r m f).primary = g.primary := rfl
@[simp] theorem Grp.setV_pending (g : Grp) (r : Nat) (m : LaneMask) (f : Nat → Word) : (g.setV r m f).pending = g.pending := rfl
@[simp] theorem Grp.setV_waits (g : Grp) (r : Nat) (m : LaneMask) (f : Nat → Word) : (g.setV r m f).waits = g.waits := rfl
@[simp] theorem Grp.setV_fences (g : Grp) (r : Nat) (m : LaneMask) (f : Nat → Word) : (g.setV r m f).fences = g.fences := rfl
@[simp] theorem Grp.setV_muster (g : Grp) (r : Nat) (m : LaneMask) (f : Nat → Word) : (g.setV r m f).muster = g.muster := rfl
@[simp] theorem Grp.setV_run (g : Grp) (r : Nat) (m : LaneMask) (f : Nat → Word) : (g.setV r m f).run = g.run := rfl
@[simp] theorem Grp.setV_halting (g : Grp) (r : Nat) (m : LaneMask) (f : Nat → Word) : (g.setV r m f).halting = g.halting := rfl
@[simp] theorem Grp.setV_frozen (g : Grp) (r : Nat) (m : LaneMask) (f : Nat → Word) : (g.setV r m f).frozen = g.frozen := rfl
@[simp] theorem Grp.setV_yielded (g : Grp) (r : Nat) (m : LaneMask) (f : Nat → Word) : (g.setV r m f).yielded = g.yielded := rfl
@[simp] theorem Grp.setV_soft (g : Grp) (r : Nat) (m : LaneMask) (f : Nat → Word) : (g.setV r m f).soft = g.soft := rfl
@[simp] theorem Grp.setV_softLanes (g : Grp) (r : Nat) (m : LaneMask) (f : Nat → Word) : (g.setV r m f).softLanes = g.softLanes := rfl
@[simp] theorem Grp.setV_regErrs (g : Grp) (r : Nat) (m : LaneMask) (f : Nat → Word) : (g.setV r m f).regErrs = g.regErrs := rfl
@[simp] theorem Grp.setV_owed (g : Grp) (r : Nat) (m : LaneMask) (f : Nat → Word) : (g.setV r m f).owed = g.owed := rfl
@[simp] theorem Grp.setV_score (g : Grp) (r : Nat) (m : LaneMask) (f : Nat → Word) : (g.setV r m f).score = g.score := rfl
@[simp] theorem Grp.setV_last (g : Grp) (r : Nat) (m : LaneMask) (f : Nat → Word) : (g.setV r m f).last = g.last := rfl
@[simp] theorem Grp.setV_issues (g : Grp) (r : Nat) (m : LaneMask) (f : Nat → Word) : (g.setV r m f).issues = g.issues := rfl
@[simp] theorem Grp.setV_gave (g : Grp) (r : Nat) (m : LaneMask) (f : Nat → Word) : (g.setV r m f).gave = g.gave := rfl
@[simp] theorem Grp.setV_denied (g : Grp) (r : Nat) (m : LaneMask) (f : Nat → Word) : (g.setV r m f).denied = g.denied := rfl
@[simp] theorem Grp.setV_inSlot (g : Grp) (r : Nat) (m : LaneMask) (f : Nat → Word) : (g.setV r m f).inSlot = g.inSlot := rfl

/-! ## `Grp.setP` writes `p` alone. -/

@[simp] theorem Grp.setP_v (g : Grp) (n : Nat) (m v : LaneMask) : (g.setP n m v).v = g.v := rfl
@[simp] theorem Grp.setP_s (g : Grp) (n : Nat) (m v : LaneMask) : (g.setP n m v).s = g.s := rfl
@[simp] theorem Grp.setP_exited (g : Grp) (n : Nat) (m v : LaneMask) : (g.setP n m v).exited = g.exited := rfl
@[simp] theorem Grp.setP_quads (g : Grp) (n : Nat) (m v : LaneMask) : (g.setP n m v).quads = g.quads := rfl
@[simp] theorem Grp.setP_nmode (g : Grp) (n : Nat) (m v : LaneMask) : (g.setP n m v).nmode = g.nmode := rfl
@[simp] theorem Grp.setP_gflags (g : Grp) (n : Nat) (m v : LaneMask) : (g.setP n m v).gflags = g.gflags := rfl
@[simp] theorem Grp.setP_garm (g : Grp) (n : Nat) (m v : LaneMask) : (g.setP n m v).garm = g.garm := rfl
@[simp] theorem Grp.setP_members (g : Grp) (n : Nat) (m v : LaneMask) : (g.setP n m v).members = g.members := rfl
@[simp] theorem Grp.setP_nextop (g : Grp) (n : Nat) (m v : LaneMask) : (g.setP n m v).nextop = g.nextop := rfl
@[simp] theorem Grp.setP_bopen (g : Grp) (n : Nat) (m v : LaneMask) : (g.setP n m v).bopen = g.bopen := rfl
@[simp] theorem Grp.setP_bops (g : Grp) (n : Nat) (m v : LaneMask) : (g.setP n m v).bops = g.bops := rfl
@[simp] theorem Grp.setP_closed (g : Grp) (n : Nat) (m v : LaneMask) : (g.setP n m v).closed = g.closed := rfl
@[simp] theorem Grp.setP_defer (g : Grp) (n : Nat) (m v : LaneMask) : (g.setP n m v).defer = g.defer := rfl
@[simp] theorem Grp.setP_mops (g : Grp) (n : Nat) (m v : LaneMask) : (g.setP n m v).mops = g.mops := rfl
@[simp] theorem Grp.setP_ifc0 (g : Grp) (n : Nat) (m v : LaneMask) : (g.setP n m v).ifc0 = g.ifc0 := rfl
@[simp] theorem Grp.setP_ifc1 (g : Grp) (n : Nat) (m v : LaneMask) : (g.setP n m v).ifc1 = g.ifc1 := rfl
@[simp] theorem Grp.setP_ifc2 (g : Grp) (n : Nat) (m v : LaneMask) : (g.setP n m v).ifc2 = g.ifc2 := rfl
@[simp] theorem Grp.setP_ifc3 (g : Grp) (n : Nat) (m v : LaneMask) : (g.setP n m v).ifc3 = g.ifc3 := rfl
@[simp] theorem Grp.setP_tbound (g : Grp) (n : Nat) (m v : LaneMask) : (g.setP n m v).tbound = g.tbound := rfl
@[simp] theorem Grp.setP_tslot (g : Grp) (n : Nat) (m v : LaneMask) : (g.setP n m v).tslot = g.tslot := rfl
@[simp] theorem Grp.setP_gtcmp (g : Grp) (n : Nat) (m v : LaneMask) : (g.setP n m v).gtcmp = g.gtcmp := rfl
@[simp] theorem Grp.setP_stage (g : Grp) (n : Nat) (m v : LaneMask) : (g.setP n m v).stage = g.stage := rfl
@[simp] theorem Grp.setP_latch (g : Grp) (n : Nat) (m v : LaneMask) : (g.setP n m v).latch = g.latch := rfl
@[simp] theorem Grp.setP_hints (g : Grp) (n : Nat) (m v : LaneMask) : (g.setP n m v).hints = g.hints := rfl
@[simp] theorem Grp.setP_rep (g : Grp) (n : Nat) (m v : LaneMask) : (g.setP n m v).rep = g.rep := rfl
@[simp] theorem Grp.setP_hintPc (g : Grp) (n : Nat) (m v : LaneMask) : (g.setP n m v).hintPc = g.hintPc := rfl
@[simp] theorem Grp.setP_id (g : Grp) (n : Nat) (m v : LaneMask) : (g.setP n m v).id = g.id := rfl
@[simp] theorem Grp.setP_fcode (g : Grp) (n : Nat) (m v : LaneMask) : (g.setP n m v).fcode = g.fcode := rfl
@[simp] theorem Grp.setP_fpc (g : Grp) (n : Nat) (m v : LaneMask) : (g.setP n m v).fpc = g.fpc := rfl
@[simp] theorem Grp.setP_faddr (g : Grp) (n : Nat) (m v : LaneMask) : (g.setP n m v).faddr = g.faddr := rfl
@[simp] theorem Grp.setP_fhalt (g : Grp) (n : Nat) (m v : LaneMask) : (g.setP n m v).fhalt = g.fhalt := rfl
@[simp] theorem Grp.setP_skid (g : Grp) (n : Nat) (m v : LaneMask) : (g.setP n m v).skid = g.skid := rfl
@[simp] theorem Grp.setP_faux (g : Grp) (n : Nat) (m v : LaneMask) : (g.setP n m v).faux = g.faux := rfl
@[simp] theorem Grp.setP_epoch (g : Grp) (n : Nat) (m v : LaneMask) : (g.setP n m v).epoch = g.epoch := rfl
@[simp] theorem Grp.setP_hcount (g : Grp) (n : Nat) (m v : LaneMask) : (g.setP n m v).hcount = g.hcount := rfl
@[simp] theorem Grp.setP_emitted (g : Grp) (n : Nat) (m v : LaneMask) : (g.setP n m v).emitted = g.emitted := rfl
@[simp] theorem Grp.setP_pairs (g : Grp) (n : Nat) (m v : LaneMask) : (g.setP n m v).pairs = g.pairs := rfl
@[simp] theorem Grp.setP_frame (g : Grp) (n : Nat) (m v : LaneMask) : (g.setP n m v).frame = g.frame := rfl
@[simp] theorem Grp.setP_frag (g : Grp) (n : Nat) (m v : LaneMask) : (g.setP n m v).frag = g.frag := rfl
@[simp] theorem Grp.setP_primary (g : Grp) (n : Nat) (m v : LaneMask) : (g.setP n m v).primary = g.primary := rfl
@[simp] theorem Grp.setP_pending (g : Grp) (n : Nat) (m v : LaneMask) : (g.setP n m v).pending = g.pending := rfl
@[simp] theorem Grp.setP_waits (g : Grp) (n : Nat) (m v : LaneMask) : (g.setP n m v).waits = g.waits := rfl
@[simp] theorem Grp.setP_fences (g : Grp) (n : Nat) (m v : LaneMask) : (g.setP n m v).fences = g.fences := rfl
@[simp] theorem Grp.setP_muster (g : Grp) (n : Nat) (m v : LaneMask) : (g.setP n m v).muster = g.muster := rfl
@[simp] theorem Grp.setP_run (g : Grp) (n : Nat) (m v : LaneMask) : (g.setP n m v).run = g.run := rfl
@[simp] theorem Grp.setP_halting (g : Grp) (n : Nat) (m v : LaneMask) : (g.setP n m v).halting = g.halting := rfl
@[simp] theorem Grp.setP_frozen (g : Grp) (n : Nat) (m v : LaneMask) : (g.setP n m v).frozen = g.frozen := rfl
@[simp] theorem Grp.setP_yielded (g : Grp) (n : Nat) (m v : LaneMask) : (g.setP n m v).yielded = g.yielded := rfl
@[simp] theorem Grp.setP_soft (g : Grp) (n : Nat) (m v : LaneMask) : (g.setP n m v).soft = g.soft := rfl
@[simp] theorem Grp.setP_softLanes (g : Grp) (n : Nat) (m v : LaneMask) : (g.setP n m v).softLanes = g.softLanes := rfl
@[simp] theorem Grp.setP_regErrs (g : Grp) (n : Nat) (m v : LaneMask) : (g.setP n m v).regErrs = g.regErrs := rfl
@[simp] theorem Grp.setP_owed (g : Grp) (n : Nat) (m v : LaneMask) : (g.setP n m v).owed = g.owed := rfl
@[simp] theorem Grp.setP_score (g : Grp) (n : Nat) (m v : LaneMask) : (g.setP n m v).score = g.score := rfl
@[simp] theorem Grp.setP_last (g : Grp) (n : Nat) (m v : LaneMask) : (g.setP n m v).last = g.last := rfl
@[simp] theorem Grp.setP_issues (g : Grp) (n : Nat) (m v : LaneMask) : (g.setP n m v).issues = g.issues := rfl
@[simp] theorem Grp.setP_gave (g : Grp) (n : Nat) (m v : LaneMask) : (g.setP n m v).gave = g.gave := rfl
@[simp] theorem Grp.setP_denied (g : Grp) (n : Nat) (m v : LaneMask) : (g.setP n m v).denied = g.denied := rfl
@[simp] theorem Grp.setP_inSlot (g : Grp) (n : Nat) (m v : LaneMask) : (g.setP n m v).inSlot = g.inSlot := rfl

/-! ## `Grp.age` writes `quads` alone. -/

@[simp] theorem Grp.age_v (g : Grp) (q : List Nat) : (g.age q).v = g.v := rfl
@[simp] theorem Grp.age_p (g : Grp) (q : List Nat) : (g.age q).p = g.p := rfl
@[simp] theorem Grp.age_s (g : Grp) (q : List Nat) : (g.age q).s = g.s := rfl
@[simp] theorem Grp.age_exited (g : Grp) (q : List Nat) : (g.age q).exited = g.exited := rfl
@[simp] theorem Grp.age_nmode (g : Grp) (q : List Nat) : (g.age q).nmode = g.nmode := rfl
@[simp] theorem Grp.age_gflags (g : Grp) (q : List Nat) : (g.age q).gflags = g.gflags := rfl
@[simp] theorem Grp.age_garm (g : Grp) (q : List Nat) : (g.age q).garm = g.garm := rfl
@[simp] theorem Grp.age_members (g : Grp) (q : List Nat) : (g.age q).members = g.members := rfl
@[simp] theorem Grp.age_nextop (g : Grp) (q : List Nat) : (g.age q).nextop = g.nextop := rfl
@[simp] theorem Grp.age_bopen (g : Grp) (q : List Nat) : (g.age q).bopen = g.bopen := rfl
@[simp] theorem Grp.age_bops (g : Grp) (q : List Nat) : (g.age q).bops = g.bops := rfl
@[simp] theorem Grp.age_closed (g : Grp) (q : List Nat) : (g.age q).closed = g.closed := rfl
@[simp] theorem Grp.age_defer (g : Grp) (q : List Nat) : (g.age q).defer = g.defer := rfl
@[simp] theorem Grp.age_mops (g : Grp) (q : List Nat) : (g.age q).mops = g.mops := rfl
@[simp] theorem Grp.age_ifc0 (g : Grp) (q : List Nat) : (g.age q).ifc0 = g.ifc0 := rfl
@[simp] theorem Grp.age_ifc1 (g : Grp) (q : List Nat) : (g.age q).ifc1 = g.ifc1 := rfl
@[simp] theorem Grp.age_ifc2 (g : Grp) (q : List Nat) : (g.age q).ifc2 = g.ifc2 := rfl
@[simp] theorem Grp.age_ifc3 (g : Grp) (q : List Nat) : (g.age q).ifc3 = g.ifc3 := rfl
@[simp] theorem Grp.age_tbound (g : Grp) (q : List Nat) : (g.age q).tbound = g.tbound := rfl
@[simp] theorem Grp.age_tslot (g : Grp) (q : List Nat) : (g.age q).tslot = g.tslot := rfl
@[simp] theorem Grp.age_gtcmp (g : Grp) (q : List Nat) : (g.age q).gtcmp = g.gtcmp := rfl
@[simp] theorem Grp.age_stage (g : Grp) (q : List Nat) : (g.age q).stage = g.stage := rfl
@[simp] theorem Grp.age_latch (g : Grp) (q : List Nat) : (g.age q).latch = g.latch := rfl
@[simp] theorem Grp.age_hints (g : Grp) (q : List Nat) : (g.age q).hints = g.hints := rfl
@[simp] theorem Grp.age_rep (g : Grp) (q : List Nat) : (g.age q).rep = g.rep := rfl
@[simp] theorem Grp.age_hintPc (g : Grp) (q : List Nat) : (g.age q).hintPc = g.hintPc := rfl
@[simp] theorem Grp.age_id (g : Grp) (q : List Nat) : (g.age q).id = g.id := rfl
@[simp] theorem Grp.age_fcode (g : Grp) (q : List Nat) : (g.age q).fcode = g.fcode := rfl
@[simp] theorem Grp.age_fpc (g : Grp) (q : List Nat) : (g.age q).fpc = g.fpc := rfl
@[simp] theorem Grp.age_faddr (g : Grp) (q : List Nat) : (g.age q).faddr = g.faddr := rfl
@[simp] theorem Grp.age_fhalt (g : Grp) (q : List Nat) : (g.age q).fhalt = g.fhalt := rfl
@[simp] theorem Grp.age_skid (g : Grp) (q : List Nat) : (g.age q).skid = g.skid := rfl
@[simp] theorem Grp.age_faux (g : Grp) (q : List Nat) : (g.age q).faux = g.faux := rfl
@[simp] theorem Grp.age_epoch (g : Grp) (q : List Nat) : (g.age q).epoch = g.epoch := rfl
@[simp] theorem Grp.age_hcount (g : Grp) (q : List Nat) : (g.age q).hcount = g.hcount := rfl
@[simp] theorem Grp.age_emitted (g : Grp) (q : List Nat) : (g.age q).emitted = g.emitted := rfl
@[simp] theorem Grp.age_pairs (g : Grp) (q : List Nat) : (g.age q).pairs = g.pairs := rfl
@[simp] theorem Grp.age_frame (g : Grp) (q : List Nat) : (g.age q).frame = g.frame := rfl
@[simp] theorem Grp.age_frag (g : Grp) (q : List Nat) : (g.age q).frag = g.frag := rfl
@[simp] theorem Grp.age_primary (g : Grp) (q : List Nat) : (g.age q).primary = g.primary := rfl
@[simp] theorem Grp.age_pending (g : Grp) (q : List Nat) : (g.age q).pending = g.pending := rfl
@[simp] theorem Grp.age_waits (g : Grp) (q : List Nat) : (g.age q).waits = g.waits := rfl
@[simp] theorem Grp.age_fences (g : Grp) (q : List Nat) : (g.age q).fences = g.fences := rfl
@[simp] theorem Grp.age_muster (g : Grp) (q : List Nat) : (g.age q).muster = g.muster := rfl
@[simp] theorem Grp.age_run (g : Grp) (q : List Nat) : (g.age q).run = g.run := rfl
@[simp] theorem Grp.age_halting (g : Grp) (q : List Nat) : (g.age q).halting = g.halting := rfl
@[simp] theorem Grp.age_frozen (g : Grp) (q : List Nat) : (g.age q).frozen = g.frozen := rfl
@[simp] theorem Grp.age_yielded (g : Grp) (q : List Nat) : (g.age q).yielded = g.yielded := rfl
@[simp] theorem Grp.age_soft (g : Grp) (q : List Nat) : (g.age q).soft = g.soft := rfl
@[simp] theorem Grp.age_softLanes (g : Grp) (q : List Nat) : (g.age q).softLanes = g.softLanes := rfl
@[simp] theorem Grp.age_regErrs (g : Grp) (q : List Nat) : (g.age q).regErrs = g.regErrs := rfl
@[simp] theorem Grp.age_owed (g : Grp) (q : List Nat) : (g.age q).owed = g.owed := rfl
@[simp] theorem Grp.age_score (g : Grp) (q : List Nat) : (g.age q).score = g.score := rfl
@[simp] theorem Grp.age_last (g : Grp) (q : List Nat) : (g.age q).last = g.last := rfl
@[simp] theorem Grp.age_issues (g : Grp) (q : List Nat) : (g.age q).issues = g.issues := rfl
@[simp] theorem Grp.age_gave (g : Grp) (q : List Nat) : (g.age q).gave = g.gave := rfl
@[simp] theorem Grp.age_denied (g : Grp) (q : List Nat) : (g.age q).denied = g.denied := rfl
@[simp] theorem Grp.age_inSlot (g : Grp) (q : List Nat) : (g.age q).inSlot = g.inSlot := rfl

/-! ## `Grp.advance` writes `quads` alone. -/

@[simp] theorem Grp.advance_v (g : Grp) (q : List Nat) (a b : DWord) : (g.advance q a b).v = g.v := rfl
@[simp] theorem Grp.advance_p (g : Grp) (q : List Nat) (a b : DWord) : (g.advance q a b).p = g.p := rfl
@[simp] theorem Grp.advance_s (g : Grp) (q : List Nat) (a b : DWord) : (g.advance q a b).s = g.s := rfl
@[simp] theorem Grp.advance_exited (g : Grp) (q : List Nat) (a b : DWord) : (g.advance q a b).exited = g.exited := rfl
@[simp] theorem Grp.advance_nmode (g : Grp) (q : List Nat) (a b : DWord) : (g.advance q a b).nmode = g.nmode := rfl
@[simp] theorem Grp.advance_gflags (g : Grp) (q : List Nat) (a b : DWord) : (g.advance q a b).gflags = g.gflags := rfl
@[simp] theorem Grp.advance_garm (g : Grp) (q : List Nat) (a b : DWord) : (g.advance q a b).garm = g.garm := rfl
@[simp] theorem Grp.advance_members (g : Grp) (q : List Nat) (a b : DWord) : (g.advance q a b).members = g.members := rfl
@[simp] theorem Grp.advance_nextop (g : Grp) (q : List Nat) (a b : DWord) : (g.advance q a b).nextop = g.nextop := rfl
@[simp] theorem Grp.advance_bopen (g : Grp) (q : List Nat) (a b : DWord) : (g.advance q a b).bopen = g.bopen := rfl
@[simp] theorem Grp.advance_bops (g : Grp) (q : List Nat) (a b : DWord) : (g.advance q a b).bops = g.bops := rfl
@[simp] theorem Grp.advance_closed (g : Grp) (q : List Nat) (a b : DWord) : (g.advance q a b).closed = g.closed := rfl
@[simp] theorem Grp.advance_defer (g : Grp) (q : List Nat) (a b : DWord) : (g.advance q a b).defer = g.defer := rfl
@[simp] theorem Grp.advance_mops (g : Grp) (q : List Nat) (a b : DWord) : (g.advance q a b).mops = g.mops := rfl
@[simp] theorem Grp.advance_ifc0 (g : Grp) (q : List Nat) (a b : DWord) : (g.advance q a b).ifc0 = g.ifc0 := rfl
@[simp] theorem Grp.advance_ifc1 (g : Grp) (q : List Nat) (a b : DWord) : (g.advance q a b).ifc1 = g.ifc1 := rfl
@[simp] theorem Grp.advance_ifc2 (g : Grp) (q : List Nat) (a b : DWord) : (g.advance q a b).ifc2 = g.ifc2 := rfl
@[simp] theorem Grp.advance_ifc3 (g : Grp) (q : List Nat) (a b : DWord) : (g.advance q a b).ifc3 = g.ifc3 := rfl
@[simp] theorem Grp.advance_tbound (g : Grp) (q : List Nat) (a b : DWord) : (g.advance q a b).tbound = g.tbound := rfl
@[simp] theorem Grp.advance_tslot (g : Grp) (q : List Nat) (a b : DWord) : (g.advance q a b).tslot = g.tslot := rfl
@[simp] theorem Grp.advance_gtcmp (g : Grp) (q : List Nat) (a b : DWord) : (g.advance q a b).gtcmp = g.gtcmp := rfl
@[simp] theorem Grp.advance_stage (g : Grp) (q : List Nat) (a b : DWord) : (g.advance q a b).stage = g.stage := rfl
@[simp] theorem Grp.advance_latch (g : Grp) (q : List Nat) (a b : DWord) : (g.advance q a b).latch = g.latch := rfl
@[simp] theorem Grp.advance_hints (g : Grp) (q : List Nat) (a b : DWord) : (g.advance q a b).hints = g.hints := rfl
@[simp] theorem Grp.advance_rep (g : Grp) (q : List Nat) (a b : DWord) : (g.advance q a b).rep = g.rep := rfl
@[simp] theorem Grp.advance_hintPc (g : Grp) (q : List Nat) (a b : DWord) : (g.advance q a b).hintPc = g.hintPc := rfl
@[simp] theorem Grp.advance_id (g : Grp) (q : List Nat) (a b : DWord) : (g.advance q a b).id = g.id := rfl
@[simp] theorem Grp.advance_fcode (g : Grp) (q : List Nat) (a b : DWord) : (g.advance q a b).fcode = g.fcode := rfl
@[simp] theorem Grp.advance_fpc (g : Grp) (q : List Nat) (a b : DWord) : (g.advance q a b).fpc = g.fpc := rfl
@[simp] theorem Grp.advance_faddr (g : Grp) (q : List Nat) (a b : DWord) : (g.advance q a b).faddr = g.faddr := rfl
@[simp] theorem Grp.advance_fhalt (g : Grp) (q : List Nat) (a b : DWord) : (g.advance q a b).fhalt = g.fhalt := rfl
@[simp] theorem Grp.advance_skid (g : Grp) (q : List Nat) (a b : DWord) : (g.advance q a b).skid = g.skid := rfl
@[simp] theorem Grp.advance_faux (g : Grp) (q : List Nat) (a b : DWord) : (g.advance q a b).faux = g.faux := rfl
@[simp] theorem Grp.advance_epoch (g : Grp) (q : List Nat) (a b : DWord) : (g.advance q a b).epoch = g.epoch := rfl
@[simp] theorem Grp.advance_hcount (g : Grp) (q : List Nat) (a b : DWord) : (g.advance q a b).hcount = g.hcount := rfl
@[simp] theorem Grp.advance_emitted (g : Grp) (q : List Nat) (a b : DWord) : (g.advance q a b).emitted = g.emitted := rfl
@[simp] theorem Grp.advance_pairs (g : Grp) (q : List Nat) (a b : DWord) : (g.advance q a b).pairs = g.pairs := rfl
@[simp] theorem Grp.advance_frame (g : Grp) (q : List Nat) (a b : DWord) : (g.advance q a b).frame = g.frame := rfl
@[simp] theorem Grp.advance_frag (g : Grp) (q : List Nat) (a b : DWord) : (g.advance q a b).frag = g.frag := rfl
@[simp] theorem Grp.advance_primary (g : Grp) (q : List Nat) (a b : DWord) : (g.advance q a b).primary = g.primary := rfl
@[simp] theorem Grp.advance_pending (g : Grp) (q : List Nat) (a b : DWord) : (g.advance q a b).pending = g.pending := rfl
@[simp] theorem Grp.advance_waits (g : Grp) (q : List Nat) (a b : DWord) : (g.advance q a b).waits = g.waits := rfl
@[simp] theorem Grp.advance_fences (g : Grp) (q : List Nat) (a b : DWord) : (g.advance q a b).fences = g.fences := rfl
@[simp] theorem Grp.advance_muster (g : Grp) (q : List Nat) (a b : DWord) : (g.advance q a b).muster = g.muster := rfl
@[simp] theorem Grp.advance_run (g : Grp) (q : List Nat) (a b : DWord) : (g.advance q a b).run = g.run := rfl
@[simp] theorem Grp.advance_halting (g : Grp) (q : List Nat) (a b : DWord) : (g.advance q a b).halting = g.halting := rfl
@[simp] theorem Grp.advance_frozen (g : Grp) (q : List Nat) (a b : DWord) : (g.advance q a b).frozen = g.frozen := rfl
@[simp] theorem Grp.advance_yielded (g : Grp) (q : List Nat) (a b : DWord) : (g.advance q a b).yielded = g.yielded := rfl
@[simp] theorem Grp.advance_soft (g : Grp) (q : List Nat) (a b : DWord) : (g.advance q a b).soft = g.soft := rfl
@[simp] theorem Grp.advance_softLanes (g : Grp) (q : List Nat) (a b : DWord) : (g.advance q a b).softLanes = g.softLanes := rfl
@[simp] theorem Grp.advance_regErrs (g : Grp) (q : List Nat) (a b : DWord) : (g.advance q a b).regErrs = g.regErrs := rfl
@[simp] theorem Grp.advance_owed (g : Grp) (q : List Nat) (a b : DWord) : (g.advance q a b).owed = g.owed := rfl
@[simp] theorem Grp.advance_score (g : Grp) (q : List Nat) (a b : DWord) : (g.advance q a b).score = g.score := rfl
@[simp] theorem Grp.advance_last (g : Grp) (q : List Nat) (a b : DWord) : (g.advance q a b).last = g.last := rfl
@[simp] theorem Grp.advance_issues (g : Grp) (q : List Nat) (a b : DWord) : (g.advance q a b).issues = g.issues := rfl
@[simp] theorem Grp.advance_gave (g : Grp) (q : List Nat) (a b : DWord) : (g.advance q a b).gave = g.gave := rfl
@[simp] theorem Grp.advance_denied (g : Grp) (q : List Nat) (a b : DWord) : (g.advance q a b).denied = g.denied := rfl
@[simp] theorem Grp.advance_inSlot (g : Grp) (q : List Nat) (a b : DWord) : (g.advance q a b).inSlot = g.inSlot := rfl

/-! ## Reads after updates -/

theorem State.team_modTeam (s : State) (t u : Nat) (f : Team → Team) :
    (s.modTeam t f).team u = if u = t then (s.team t).map f else s.team u := Tab.find_modify s.teams t u f

theorem State.team_modGrp (s : State) (t k u : Nat) (f : Grp → Grp) :
    (s.modGrp t k f).team u =
      if u = t then (s.team t).map fun T => { T with groups := Tab.modify T.groups k f } else s.team u :=
  State.team_modTeam s t u _

/-- The group that is updated, as it reads after. -/
theorem State.grp_modGrp_same (s : State) (t k : Nat) (f : Grp → Grp) : (s.modGrp t k f).grp t k = (s.grp t k).map f := by
  simp only [State.grp, State.team_modGrp, if_true]
  cases s.team t <;> simp [Tab.find_modify_same]

theorem State.grp_modGrp_other (s : State) (t k u j : Nat) (f : Grp → Grp) (h : u ≠ t ∨ j ≠ k) :
    (s.modGrp t k f).grp u j = s.grp u j := by
  simp only [State.grp, State.team_modGrp]
  split
  · rename_i e; subst e
    have hj : j ≠ k := h.resolve_left (fun e => e rfl)
    cases s.team u <;> simp [Tab.find_modify_other _ _ _ _ hj]
  · rfl

theorem State.core_modCore (s : State) (c d : Nat) (f : Core → Core) :
    (s.modCore c f).core d = if d = c then f (s.core c) else s.core d := Tab.get_set _ s.cores c d _

theorem State.ctx_modCtx (s : State) (c d : Nat) (f : Ctx → Ctx) :
    (s.modCtx c f).ctx d = if d = c then f (s.ctx c) else s.ctx d := Tab.get_set _ s.ctxs c d _

theorem State.line_modLine (s : State) (n m : Nat) (f : Line → Line) :
    (s.modLine n f).line m = if m = n then f (s.line n) else s.line m := Tab.get_set _ s.lines n m _

theorem State.queue_setQueue (s : State) (n m : Nat) (q : Queue) :
    (s.setQueue n q).queue m = if m = n then q else s.queue m := Tab.get_set _ s.queues n m _

@[simp] theorem State.core_modGrp (s : State) (t k c : Nat) (f : Grp → Grp) : (s.modGrp t k f).core c = s.core c := rfl
@[simp] theorem State.ctx_modGrp (s : State) (t k c : Nat) (f : Grp → Grp) : (s.modGrp t k f).ctx c = s.ctx c := rfl
@[simp] theorem State.line_modGrp (s : State) (t k n : Nat) (f : Grp → Grp) : (s.modGrp t k f).line n = s.line n := rfl
@[simp] theorem State.team_modCore (s : State) (c u : Nat) (f : Core → Core) : (s.modCore c f).team u = s.team u := rfl
@[simp] theorem State.grp_modCore (s : State) (c u k : Nat) (f : Core → Core) : (s.modCore c f).grp u k = s.grp u k := rfl
@[simp] theorem State.ctx_modCore (s : State) (c u : Nat) (f : Core → Core) : (s.modCore c f).ctx u = s.ctx u := rfl

end Sys2Proof.Machine
end

