-- ==== Sys2Proof/Laws/Issue.lean ====
section
/-! SUPPORT. Laws of issuing: what a ready word's step is, whose context it has, and what retirement leaves. -/

namespace Sys2Proof.Machine

theorem Iss.onCourier_grp (x : Iss) (t k : Nat) (h : x.who = .grp t k) : x.onCourier = false := by simp [Iss.onCourier, h]

theorem Iss.onCourier_courier (x : Iss) (c : Nat) (h : x.who = .courier c) : x.onCourier = true := by simp [Iss.onCourier, h]

/-- An agent that stands before a word exists. -/
theorem State.hasAgent_of_stand {s : State} {f : Form} {x : Iss} (h : s.stand f = .ok x) : s.hasAgent = true := by
  unfold State.stand at h
  unfold State.hasAgent
  split at h
  · rename_i c hc
    cases hy : (s.core c).courier <;> simp [hy] at h ⊢
  · rename_i t k hc
    cases hT : s.team t with
    | none => simp [hT] at h
    | some T =>
      cases hg : Tab.find T.groups k with
      | none => simp [hT, hg] at h
      | some g => simp [State.grp, hT, hg]

/-- The context in which a group or a courier stands. -/
theorem State.stand_ok {s : State} {f : Form} {x : Iss} (h : s.stand f = .ok x) :
    (∃ t k T g pc, s.cur = .grp t k ∧ s.team t = some T ∧ Tab.find T.groups k = some g ∧ g.choose = some pc ∧ g.canIssue = true ∧
      (s.core T.core).pre = false ∧ x = grpIss t k T g pc f) ∨
    (∃ c y, s.cur = .courier c ∧ (s.core c).courier = some y ∧ y.stopped = false ∧ (s.core c).pre = false ∧ x = courierIss c y f) := by
  unfold State.stand at h
  split at h
  · rename_i c hc
    refine .inr ?_
    cases hy : (s.core c).courier with
    | none => simp [hy] at h
    | some y =>
      simp only [hy] at h
      split at h
      · cases h
      · rename_i hn
        simp only [Bool.or_eq_true, not_or, Bool.not_eq_true] at hn
        exact ⟨c, y, hc, hy, hn.1, hn.2, by cases h; rfl⟩
  · rename_i t k hc
    refine .inl ?_
    cases hT : s.team t with
    | none => simp [hT] at h
    | some T =>
      cases hg : Tab.find T.groups k with
      | none => simp [hT, hg] at h
      | some g =>
        cases hp : g.choose with
        | none => simp [hT, hg, hp] at h
        | some pc =>
          simp only [hT, hg, hp] at h
          split at h
          · cases h
          · rename_i hci
            split at h
            · cases h
            · split at h
              · cases h
              · rename_i hpre
                simp only [Bool.not_eq_true, Bool.not_eq_false'] at hci hpre
                refine ⟨t, k, T, g, pc, hc, hT, hg, hp, by simpa using hci, hpre, ?_⟩
                cases h; rfl

/-- A word that is ready issues. -/
theorem ready_issue {i : Instr} {s : State} {x : Iss} (h : Ready i s x) : s.issue i = .ok x := by
  have ht : (throttled i && !x.onCourier && !s.admits x.core x.t x.k) = false := by
    have := h.unthrottled
    cases h1 : throttled i <;> cases h2 : x.onCourier <;> simp_all
  have hr : x.regError = none := by simp [Iss.regError, h.intact]
  simp only [State.issue, h.stands, State.permit, h.checked, hr, h.unlocked, h.unfenced, ht, Bool.false_eq_true, if_false]

/-- The step of a ready word is its effect and, where that goes on, its retirement. -/
theorem ready_runWord {i : Instr} {s : State} {x : Iss} (h : Ready i s x) (adv : Bool) (eff : Iss → State → Except State State) :
    runWord i s adv eff = .next (match eff x s with | .error u => u | .ok u => u.retire x adv) := by
  unfold runWord
  rw [State.hasAgent_of_stand h.stands, ready_issue h]
  simp only [Bool.not_true, Bool.false_eq_true, if_false]
  cases eff x s <;> rfl

theorem ready_word {i : Instr} {s : State} {x : Iss} (h : Ready i s x) {eff : Iss → State → Except State State} {u : State}
    (he : eff x s = .ok u) : word i s eff = .next (u.retire x true) := by
  rw [word, ready_runWord h, he]

theorem ready_wordMove {i : Instr} {s : State} {x : Iss} (h : Ready i s x) {eff : Iss → State → Except State State} {u : State}
    (he : eff x s = .ok u) : wordMove i s eff = .next (u.retire x false) := by
  rw [wordMove, ready_runWord h, he]

theorem ready_word_ends {i : Instr} {s : State} {x : Iss} (h : Ready i s x) {eff : Iss → State → Except State State} {u : State}
    (he : eff x s = .error u) : word i s eff = .next u := by
  rw [word, ready_runWord h, he]

theorem ready_wordMove_ends {i : Instr} {s : State} {x : Iss} (h : Ready i s x) {eff : Iss → State → Except State State} {u : State}
    (he : eff x s = .error u) : wordMove i s eff = .next u := by
  rw [wordMove, ready_runWord h, he]

/-- A word outside the courier's subset is ready on no courier: it is a group that stands before it. -/
theorem ready_onGroup {i : Instr} {s : State} {x : Iss} (h : Ready i s x) (hc : (form i).courier = false) :
    ∃ t k T g pc, s.team t = some T ∧ Tab.find T.groups k = some g ∧ x = grpIss t k T g pc (form i) := by
  rcases State.stand_ok h.stands with ⟨t, k, T, g, pc, _, hT, hg, _, _, _, hx⟩ | ⟨c, y, _, _, _, _, hx⟩
  · exact ⟨t, k, T, g, pc, hT, hg, hx⟩
  · have hw := h.checked
    subst hx
    simp [courierIss, wordFault, Iss.onCourier, hc] at hw

/-! ## Updates of one group leave the rest -/

theorem OnlyGroup.refl (t k : Nat) (s : State) : OnlyGroup t k s s := ⟨rfl, fun _ _ => rfl, rfl, fun _ _ => rfl, fun _ => rfl⟩

theorem OnlyGroup.trans {t k : Nat} {s u v : State} (h : OnlyGroup t k s u) (g : OnlyGroup t k u v) : OnlyGroup t k s v :=
  ⟨g.1.trans h.1, fun n hn => (g.2.1 n hn).trans (h.2.1 n hn), g.2.2.1.trans h.2.2.1,
    fun j hj => (g.2.2.2.1 j hj).trans (h.2.2.2.1 j hj), fun pa => (g.2.2.2.2 pa).trans (h.2.2.2.2 pa)⟩

/-- Teams that agree but for their groups hold the same lines and bytes. -/
theorem sameMemory_of_teams {s u : State} (hm : u.mem = s.mem) (hl : u.lines = s.lines)
    (ht : ∀ n, (u.team n).map Team.bare = (s.team n).map Team.bare) : SameMemory s u := by
  have hw : ∀ n ln, ((u.team n).bind fun T => T.holds n ln) = (s.team n).bind fun T => T.holds n ln := by
    intro n ln
    have e : ∀ o : Option Team, (o.bind fun T => T.holds n ln) = (o.map Team.bare).bind fun T => T.holds n ln := by
      intro o; cases o <;> rfl
    rw [e (u.team n), e (s.team n), ht n]
  have hst : ∀ n, (u.team n).map Team.stash = (s.team n).map Team.stash := by
    intro n
    have e : ∀ o : Option Team, o.map Team.stash = (o.map Team.bare).map Team.stash := by
      intro o; cases o <;> rfl
    rw [e (u.team n), e (s.team n), ht n]
  have ho : ∀ ln, u.ownerOf ln = s.ownerOf ln := by
    intro ln
    simp only [State.ownerOf, State.line, hl]
    cases (Tab.get {} s.lines ln).owner with
    | none => rfl
    | some n => exact hw n ln
  intro pa
  simp only [State.cohRead, ho, hm]
  congr 1; funext i
  cases s.ownerOf (lineOf (pa + i)) with
  | none => rfl
  | some o =>
    have h := hst o.team
    simp only
    cases h1 : u.team o.team <;> cases h2 : s.team o.team <;> simp [h1, h2] at h ⊢
    rw [h]

/-- An update of one group leaves everything else. -/
theorem onlyGroup_modGrp (s : State) (t k : Nat) (f : Grp → Grp) : OnlyGroup t k s (s.modGrp t k f) := by
  refine ⟨rfl, fun n hn => by simp [State.team_modGrp, hn], ?_, fun j hj => State.grp_modGrp_other s t k t j f (.inr hj), ?_⟩
  · simp only [State.team_modGrp, if_true]
    cases s.team t <;> rfl
  · refine sameMemory_of_teams rfl rfl fun n => ?_
    simp only [State.team_modGrp]
    split
    · rename_i e; subst e; cases s.team n <;> rfl
    · rfl

/-! ## Retirement -/

/-- Registers without an error stay so. -/
theorem Grp.rewritten_intact (g : Grp) (x : Iss) (h : g.regErrs = []) : g.rewritten x = g := by simp [Grp.rewritten, h]

theorem Grp.retire_held (g : Grp) (x : Iss) (adv : Bool) (now : Nat) (h : g.regErrs = []) : (g.retire x adv now).held = g.held := by
  unfold Grp.retire
  rw [Grp.rewritten_intact g x h]
  by_cases hw : g.waitsAt x.pc <;> cases x.last <;> cases adv <;> simp only [hw] <;> rfl

/-- Where quads stand after a word has completed. -/
theorem Grp.retire_places (g : Grp) (x : Iss) (now : Nat) (hr : g.regErrs = []) (hfq : x.fq = g.quadsAt x.pc) :
    (g.retire x true now).places = if x.last then g.places.map fun e => (e.1, x.moves x.next e.2) else g.places := by
  have hage : (g.age x.fq).places = g.places := by
    simp only [Grp.places, Grp.age, List.map_map]
    apply List.map_congr_left
    intro e _
    simp only [Function.comp]
    split
    · rfl
    · split <;> rfl
  have hw : (if g.waitsAt x.pc then g else g.age x.fq).places = g.places := by split <;> simp only [hage]
  unfold Grp.retire
  rw [Grp.rewritten_intact g x hr]
  by_cases hl : x.last = true
  · simp only [hl, if_true]
    have hmv : ∀ k : Grp, k.quads = (if g.waitsAt x.pc then g else g.age x.fq).quads → (k.advance x.fq x.pc x.next).places =
        g.places.map fun e => (e.1, if x.fq.contains e.1 then e.2.goto x.pc x.next else e.2) := by
      intro k hk
      rw [← hw]
      simp only [Grp.places, Grp.advance, hk, List.map_map]
      apply List.map_congr_left
      intro e _
      simp only [Function.comp, Quad.goto]
      split
      · split
        · split <;> rfl
        · rfl
      · rfl
    refine (hmv _ rfl).trans ?_
    simp only [Grp.places, List.map_map]
    apply List.map_congr_left
    intro e he
    simp only [Function.comp, Quad.goto, Iss.moves]
    have hm : ∀ p, e.2.path = some p → p.pc = x.pc → x.fq.contains e.1 = true := by
      intro p h1 h2
      rw [hfq, List.contains_iff_mem]
      simp only [Grp.quadsAt, List.mem_filterMap]
      exact ⟨e, he, by simp [h1, h2]⟩
    obtain ⟨n, q⟩ := e
    obtain ⟨path, d, pk, rt, a⟩ := q
    simp only [List.contains_iff_mem] at hm ⊢
    cases path with
    | none => by_cases hc : n ∈ x.fq <;> simp [hc]
    | some p =>
      by_cases hpc : p.pc = x.pc
      · have hc := hm p rfl hpc
        simp [hc, hpc]
      · by_cases hc : n ∈ x.fq <;> simp [hc, hpc]
  · simp only [Bool.not_eq_true] at hl
    simp only [hl, Bool.false_eq_true, if_false]
    exact hw

/-- A word that only changes what its group holds, then retires: the rest of the device is as before. -/
theorem ran_modGrp {s : State} {x : Iss} (f : Grp → Grp) (hg : s.grp x.t x.k = some x.g) (hw : x.who = .grp x.t x.k)
    (hfq : x.fq = x.g.quadsAt x.pc) (hq : (f x.g).quads = x.g.quads) (hh : (f x.g).hints = x.g.hints) (hr : (f x.g).regErrs = []) :
    ∃ h, Ran x s ((s.modGrp x.t x.k f).retire x true) h ∧ h.held = (f x.g).held := by
  refine ⟨(f x.g).retire x true (s.core x.core).cyc, ⟨?_, ?_, ?_, ?_⟩, Grp.retire_held _ _ _ _ hr⟩
  · simp only [State.retire, hw, State.grp_modGrp_same, hg, Option.map_some]
    rfl
  · simp only [State.retire, hw]
    exact (onlyGroup_modGrp s x.t x.k f).trans (onlyGroup_modGrp _ _ _ _)
  · have h := Grp.retire_places (f x.g) x (s.core x.core).cyc hr (by rw [hfq]; simp only [Grp.quadsAt, hq])
    rw [h]; simp only [Grp.places, hq]
  · unfold Grp.retire
    rw [Grp.rewritten_intact _ x hr]
    by_cases hl : x.last = true
    · simp only [hl, if_true]; exact ⟨rfl, rfl, rfl⟩
    · simp only [Bool.not_eq_true] at hl
      simp only [hl, Bool.false_eq_true, if_false]
      refine ⟨Eq.trans ?_ hh, trivial, trivial⟩
      cases (f x.g).waitsAt x.pc <;> rfl

/-- The context of a ready group word. -/
theorem ready_ctx {i : Instr} {s : State} {x : Iss} (h : Ready i s x) (hc : (form i).courier = false) :
    s.grp x.t x.k = some x.g ∧ x.who = .grp x.t x.k ∧ x.fq = x.g.quadsAt x.pc ∧ s.team x.t = some x.T := by
  obtain ⟨t, k, T, g, pc, hT, hg, rfl⟩ := ready_onGroup h hc
  exact ⟨by simp [grpIss, State.grp, hT, hg], rfl, rfl, hT⟩

/-! ## Registers -/

/-- Setting one register over a list of lanes. -/
theorem get_setLanes (t : Tab Word) (r : Nat) (ls : List Nat) (f : Nat → Word) (q l : Nat) (hl : l < 96) (hls : ∀ j ∈ ls, j < 96) :
    Tab.get 0 (ls.foldl (fun t l => Tab.set 0 t (96 * r + l) (f l)) t) (96 * q + l) =
      if q = r ∧ l ∈ ls then f l else Tab.get 0 t (96 * q + l) := by
  induction ls generalizing t with
  | nil => simp
  | cons a ls ih =>
    have ha : a < 96 := hls a (List.mem_cons_self ..)
    rw [List.foldl_cons, ih _ fun j hj => hls j (List.mem_cons_of_mem _ hj), Tab.get_set]
    by_cases hq : q = r
    · subst hq
      by_cases hm : l ∈ ls
      · simp [hm]
      · by_cases hla : l = a
        · subst hla; simp
        · simp [hm, hla]
    · have : ¬ (96 * q + l = 96 * r + a) := by omega
      simp [hq, this]

theorem mem_lanesOf (m : LaneMask) (l : Nat) : l ∈ lanesOf m ↔ l < 96 ∧ m.getLsbD l = true := by
  simp [lanesOf]

/-- A vector register after a write in the lanes of a mask. -/
theorem Grp.vreg_setV (g : Grp) (r : Nat) (m : LaneMask) (f : Nat → Word) (q l : Nat) (hl : l < 96) :
    (g.setV r m f).vreg q l = if q = r ∧ m.getLsbD l = true then f l else g.vreg q l := by
  simp only [Grp.vreg, Grp.setV]
  rw [get_setLanes _ _ _ _ _ _ hl fun j hj => ((mem_lanesOf m j).1 hj).1]
  simp [mem_lanesOf, hl]

end Sys2Proof.Machine
end

