-- ==== Sys2Proof/Laws/Sound.lean ====
section
/-! SUPPORT. The operations that write memory and tags keep their canonical form. -/

namespace Sys2Proof.Machine

theorem Tab.rising_filter {α : Type} (p : Nat × α → Bool) (t : Tab α) (b : Nat) (w : Tab.rising b t = true) :
    Tab.rising b (t.filter p) = true := by
  induction t generalizing b with
  | nil => rfl
  | cons e t ih =>
    obtain ⟨j, v⟩ := e
    simp only [Tab.rising, Bool.and_eq_true, decide_eq_true_eq] at w
    simp only [List.filter]
    split
    · simp only [Tab.rising, Bool.and_eq_true, decide_eq_true_eq]; exact ⟨w.1, ih _ w.2⟩
    · exact ih _ (Tab.rising_mono t (by omega) w.2)

/-- Entries left out leave the canonical form. -/
theorem Tab.wf_filter {α : Type} [DecidableEq α] (d : α) (p : Nat × α → Bool) (t : Tab α) (w : Tab.wf d t = true) :
    Tab.wf d (t.filter p) = true := by
  simp only [Tab.wf, Bool.and_eq_true, List.all_eq_true, decide_eq_true_eq] at w ⊢
  exact ⟨Tab.rising_filter p t 0 w.1, fun e he => w.2 e ((List.mem_filter.1 he).1)⟩

/-- A state with the memory and tags of a sound one is sound. -/
theorem State.Sound.of_eq {s u : State} (h : s.Sound) (hm : u.mem = s.mem) (ht : u.tags = s.tags) : u.Sound := by
  unfold State.Sound; rw [hm, ht]; exact h

theorem sound_modTeam {s : State} (t : Nat) (f : Team → Team) (h : s.Sound) : (s.modTeam t f).Sound := h.of_eq rfl rfl
theorem sound_modGrp {s : State} (t k : Nat) (f : Grp → Grp) (h : s.Sound) : (s.modGrp t k f).Sound := h.of_eq rfl rfl
theorem sound_modCore {s : State} (c : Nat) (f : Core → Core) (h : s.Sound) : (s.modCore c f).Sound := h.of_eq rfl rfl
theorem sound_modCtx {s : State} (c : Nat) (f : Ctx → Ctx) (h : s.Sound) : (s.modCtx c f).Sound := h.of_eq rfl rfl
theorem sound_modLine {s : State} (n : Nat) (f : Line → Line) (h : s.Sound) : (s.modLine n f).Sound := h.of_eq rfl rfl
theorem sound_setOp {s : State} (n : Nat) (o : MemOp) (h : s.Sound) : (s.setOp n o).Sound := h.of_eq rfl rfl

theorem sound_race {s : State} (pa n : Nat) (h : s.Sound) : (s.race pa n).Sound := h.of_eq rfl rfl
theorem sound_staleStash {s : State} (t off n : Nat) (h : s.Sound) : (s.staleStash t off n).Sound := h.of_eq rfl rfl
theorem sound_staleHome {s : State} (t pa n : Nat) (h : s.Sound) : (s.staleHome t pa n).Sound := h.of_eq rfl rfl

theorem sound_observe {s : State} (pa n : Nat) (h : s.Sound) : (s.observe pa n).Sound := h.of_eq rfl rfl

/-- Bytes written inside one line keep the canonical form. -/
theorem sound_putLine {s : State} (pa : Nat) (bs : List Byte) (h : s.Sound) : (s.putLine pa bs).Sound := by
  unfold State.putLine
  simp only
  apply sound_observe
  split
  · exact sound_modTeam _ _ (sound_staleStash _ _ _ (sound_race _ _ h))
  · exact ⟨Memory.wf_writeBytes _ _ _ h.1, h.2⟩

theorem sound_wroteLine {s : State} (ln : Nat) (h : s.Sound) : (s.wroteLine ln).Sound := by
  unfold State.wroteLine
  split
  · exact h
  · exact sound_modLine _ _ h

theorem sound_cohWriteLine {s : State} (pa : Nat) (bs : List Byte) (h : s.Sound) : (s.cohWriteLine pa bs).Sound :=
  sound_wroteLine _ (sound_putLine _ _ h)

/-- A tag written keeps the canonical form. -/
theorem sound_putTag {s : State} (pa : Nat) (t : Tag) (h : s.Sound) : (s.putTag pa t).Sound := by
  unfold State.putTag
  split
  · exact h
  · split
    · exact sound_modTeam _ _ h
    · exact ⟨h.1, Tab.wf_set _ _ _ _ h.2⟩

theorem sound_cacheD {s : State} (d : Dirt) (h : s.Sound) : (s.cacheD d).Sound := h.of_eq rfl rfl

/-- A D bit set, with its dirty-log entry on its way, keeps the canonical form. -/
theorem sound_logDirty {s : State} (d : Dirt) (h : s.Sound) : (s.logDirty d).Sound := by
  have w := sound_cacheD d (sound_cohWriteLine d.leaf (leBytes 8 (leNat (s.cohRead d.leaf 8) + 64)) h)
  unfold State.logDirty
  simp only
  split
  · exact h
  · split
    · exact sound_cacheD d h
    · split
      · exact h
      · split
        · exact w
        · exact sound_modCtx _ _ (w.of_eq rfl rfl)

theorem sound_postNow {s : State} (p : Posted) (h : s.Sound) : (s.postNow p).Sound := by
  have w := sound_cohWriteLine p.pa p.bs h
  unfold State.postNow
  simp only
  split
  · exact w
  · exact w.of_eq rfl rfl

theorem sound_waitPost {s : State} (l : List Posted) (p : Posted) (h : s.Sound) : (s.waitPost l p).1.Sound := by
  unfold State.waitPost
  split
  · exact h.of_eq rfl rfl
  · exact h

theorem sound_postAll {s : State} (kept l : List Posted) (h : s.Sound) : (s.postAll kept l).Sound := by
  induction l generalizing s kept with
  | nil => exact h.of_eq rfl rfl
  | cons p t ih =>
    unfold State.postAll
    simp only
    split
    · exact ih _ (sound_waitPost _ _ h)
    · split
      · exact ih _ (sound_postNow p h)
      · split
        · exact ih _ (sound_postNow p (sound_logDirty _ h))
        · exact ih _ (sound_waitPost _ _ (sound_logDirty _ h))

theorem sound_pumpN {s : State} (n : Nat) (h : s.Sound) : (s.pumpN n).Sound := by
  induction n generalizing s with
  | zero => exact h
  | succ n ih =>
    unfold State.pumpN
    split
    · exact h
    · exact ih (sound_postAll _ _ (h.of_eq rfl rfl))

/-- The writes that wait, tried again, keep the canonical form. -/
theorem sound_pump {s : State} (h : s.Sound) : s.pump.Sound := sound_pumpN 3 h

/-- A D bit set, with its entry in the dirty log. -/
theorem sound_markDirty {s : State} (d : Dirt) (h : s.Sound) : (s.markDirty d).Sound := by
  unfold State.markDirty
  split
  · exact sound_pump (sound_logDirty d h)
  · exact h

/-- A write of the device keeps the canonical form. -/
theorem sound_post {s : State} (src : Src) (pa : Nat) (bs : List Byte) (dirt : Option Dirt) (h : s.Sound) : (s.post src pa bs dirt).Sound :=
  sound_pump (h.of_eq rfl rfl)

theorem sound_cohWrite {s : State} (pa : Nat) (bs : List Byte) (h : s.Sound) : (s.cohWrite pa bs).Sound := sound_post _ _ _ _ h

theorem sound_writeVAFuel {s u : State} (src : Src) (core c fuel va : Nat) (bs : List Byte) (h : s.Sound) (hw : s.writeVAFuel src core c fuel va bs = .ok u) : u.Sound := by
  induction fuel generalizing s va bs with
  | zero => simp only [State.writeVAFuel, Except.ok.injEq] at hw; exact hw ▸ h
  | succ n ih =>
    unfold State.writeVAFuel at hw
    split at hw
    · cases hw; exact h
    · split at hw
      · cases hw
      · split at hw
        · cases hw
        · exact ih _ _ (sound_post _ _ _ _ h) hw

/-- A record written through translation keeps the canonical form. -/
theorem sound_writeVA {s u : State} (core c va : Nat) (bs : List Byte) (src : Src) (h : s.Sound) (hw : s.writeVA core c va bs src = .ok u) : u.Sound :=
  sound_writeVAFuel _ _ _ _ _ _ h hw

theorem sound_writeLocal {s u : State} (core c va : Nat) (bs : List Byte) (src : Src) (h : s.Sound) (hw : s.writeLocal core c va bs src = .ok u) : u.Sound := by
  unfold State.writeLocal at hw
  split at hw
  · cases hw
  · exact sound_writeVA _ _ _ _ _ h hw

theorem sound_touched {s : State} (t off n : Nat) (h : s.Sound) : (s.touched t off n).Sound := by
  unfold State.touched
  simp only
  split
  · exact sound_race _ _ (sound_staleHome _ _ _ (sound_staleStash _ _ _ h))
  · exact sound_staleStash _ _ _ h

theorem sound_stashPut {s : State} (t off : Nat) (f : Team → Team) (h : s.Sound) : (s.stashPut t off f).Sound := by
  unfold State.stashPut
  split
  · exact h
  · split
    · exact sound_modTeam _ _ h
    · simp only
      split
      · exact sound_observe _ _ (sound_modTeam _ _ h)
      · exact sound_observe _ _ (sound_modTeam _ _ (sound_markDirty _ h))

/-- A write at a place keeps the canonical form. -/
theorem sound_locPut {s : State} (l : Loc) (bs : List Byte) (h : s.Sound) : (s.locPut l bs).Sound := by
  cases l with
  | pa a => exact sound_putLine _ _ h
  | st t off => exact sound_stashPut _ _ _ (sound_touched _ _ _ h)

theorem sound_locPutTag {s : State} (l : Loc) (g : Tag) (h : s.Sound) : (s.locPutTag l g).Sound := by
  cases l with
  | pa a => exact sound_putTag _ _ h
  | st t off => exact sound_stashPut _ _ _ h

/-- A device reset keeps the canonical form: what is left of memory is a part of it. -/
theorem sound_resetDevice {s : State} (ok : Bool) (h : s.Sound) : (s.resetDevice ok).Sound :=
  ⟨Tab.wf_filter _ _ _ h.1, Tab.wf_filter _ _ _ h.2⟩

end Sys2Proof.Machine
end

