-- ==== Sys2Proof/Tests/Slice0.lean ====
section
/-! SUPPORT. Tests on fixed values: words refused and decoded, single steps, and for every statement a witness that its hypotheses
can be met. -/

set_option maxRecDepth 100000

namespace Sys2Proof.Tests

open Sys2Proof Sys2Proof.Machine Sys2Proof.Claims

/-! ## Well-formedness -/

/-- Each check refuses: a selector, a size, a register number, a type, a number that is not assigned; `mtsr` of a register with a row of
its own; an event. -/
theorem test_ill_formed_refused :
    wellFormed (.frnd 7 0 1 5) = false ∧ wellFormed (.ld 7 0 64 7 0) = false ∧ wellFormed (.icmp 7 1 10 0 1 0) = false ∧
    wellFormed (.gred 7 0 1 11) = false ∧ wellFormed (.gscan 7 0 1 11) = false ∧ wellFormed (.vote 7 0 1 5) = false ∧ wellFormed (.v2p 7 0 7) = false ∧
    wellFormed (.upk 7 0 1 0) = false ∧ wellFormed (.fenceAcq 5) = false ∧ wellFormed (.mfsr 0 0xFFF) = false ∧
    wellFormed (.mtsr 0 1) = false ∧ wellFormed (.loadReply 0) = false := by decide

theorem test_well_formed_accepted :
    wellFormed (.frnd 7 0 1 4) = true ∧ wellFormed (.icmp 7 1 9 0 1 0) = true ∧ wellFormed (.fenceAcq 4) = true ∧
    wellFormed (.mfsr 0 0x200) = true ∧ wellFormed (.mtsrGflags 0) = true := by decide

/-! ## Decoding: the spec's own worked words, and words written out from Tables 03-2 to 03-25 -/

/-- Words that the spec builds in 02 to 05: scalar, integer, floating and lane forms. -/
theorem test_decode_arithmetic :
    decodeTableWord 32 0xF1400010 = some (.smovi 20 16) ∧ decodeTableWord 32 0xFCA29500 = some (.sadd 10 10 21) ∧ decodeTableWord 32 0xFE28C006 = some (.sshl 34 35 0) ∧
    decodeTableWord 32 0x2385098D = some (.bfxN32 7 5 4 99) ∧ decodeTableWord 32 0x2B9021B0 = some (.fadd 7 16 16 108) ∧ decodeTableWord 32 0x2B8A0817 = some (.ffma 7 10 4 5) ∧
    decodeTableWord 32 0x4F941024 = some (.dot4E4m3 7 20 8 9) ∧ decodeTableWord 32 0x47860A18 = some (.cvt 7 6 5 6) ∧ decodeTableWord 32 0x4B8C118D = some (.pk4 7 12 8 99) ∧
    decodeTableWord 32 0x4383059D = some (.hmul2Bf16 7 3 2 103) ∧ decodeTableWord 32 0x37870A01 = some (.frsq 7 7 5) ∧ decodeTableWord 32 0x5BEE1004 = some (.gred 7 110 8 1) ∧
    decodeTableWord 32 0x63990398 = some (.icmp 7 1 9 1 102 0) := by decide

/-- Control flow, hints and dictionary words of the spec's walks. -/
theorem test_decode_control :
    decodeTableWord 32 0x714FFFFD = some (.loop 20 0xFFFFD) ∧ decodeTableWord 32 0x6E900015 = some (.sbra 41 21) ∧ decodeTableWord 32 0xEBFFFFFD = some (.bra 7 0x7FFFFD) ∧
    decodeTableWord 32 0xE8FFFFF7 = some (.bra 1 0x7FFFF7) ∧ decodeTableWord 32 0xEF80001D = some (.call 7 29) ∧ decodeTableWord 32 0x77850D90 = some (.jmpi 7 5 6 100) ∧
    decodeTableWord 32 0xFC000042 = some .regang ∧ decodeTableWord 32 0xFC000046 = some .rfe ∧ decodeTableWord 32 0xFC012345 = some (.trap 0x123) ∧
    decodeTableWord 32 0xF50001D4 = some (.hintRep 7 1 1 0) ∧ decodeTableWord 32 0xF483C000 = some (.hintMod 0x3C000) ∧ decodeTableWord 32 0xF8052048 = some (.dict 5 1 9 0) := by decide

/-- Memory, synchronization and multicast words. -/
theorem test_decode_memory :
    decodeTableWord 32 0xA788D484 = some (.ld 7 8 106 2 4) ∧ decodeTableWord 32 0xABA40501 = some (.st 7 36 2 4 1) ∧ decodeTableWord 32 0xAF81C080 = some (.lds 7 1 96 2 0) ∧
    decodeTableWord 32 0xB3882880 = some (.sts 7 8 20 2 0) ∧ decodeTableWord 32 0xB7A05CC0 = some (.sld 7 32 46 3 0) ∧ decodeTableWord 32 0xC384D405 = some (.ldx 7 4 106 1 1) ∧
    decodeTableWord 32 0xC783D405 = some (.stx 7 3 106 1 1) ∧ decodeTableWord 32 0xCF940400 = some (.cpaIn 7 20 2 0) ∧ decodeTableWord 32 0xD3FF0421 = some (.atomAdd 7 127 2 8 1) ∧
    decodeTableWord 32 0xFC00C061 = some (.fenceRel 3) ∧ decodeTableWord 32 0xFC005667 = some (.wcnt 1 22) ∧ decodeTableWord 32 0xFC00C46E = some (.bwait 3 4) ∧
    decodeTableWord 32 0xFCD28C48 = some (.wvalue 13 10 12) ∧ decodeTableWord 32 0xFD869C6F = some (.stmap 24 26 28) ∧ decodeTableWord 32 0xFDF68082 = some (.mcjoin 31 26) ∧
    decodeTableWord 32 0xFC050083 = some (.mcleave 20) ∧ decodeTableWord 32 0xFC020C84 = some (.mcload 8 12) ∧ decodeTableWord 32 0xFC051385 = some (.mcrel 20 19) := by decide

/-- Engines and system words. -/
theorem test_decode_engines :
    decodeTableWord 32 0x79010602 = some (.mma 32 8 12 0 0 0 1 0) ∧ decodeTableWord 32 0xFDF00080 = some (.mfence 31) ∧ decodeTableWord 32 0xFC07C081 = some (.mwait 31) ∧
    decodeTableWord 32 0x7F801400 = some (.pemitSym 7 10) ∧ decodeTableWord 32 0xFCC20089 = some (.plaunch 12 8) ∧ decodeTableWord 32 0xFE430AA2 = some (.imprv 36 12 10) ∧
    decodeTableWord 32 0xFC000064 = some .wpred ∧ decodeTableWord 32 0xFC000065 = some .succ ∧ decodeTableWord 32 0xFC4204C0 = some (.mfsr 4 0x204) ∧
    decodeTableWord 32 0xFC6061C1 = some (.mtsr 6 0x61) ∧ decodeTableWord 32 0xFDE003C1 = some (.mtsrParty 30) ∧ decodeTableWord 32 0xFC0000C2 = some .kteam := by decide

/-- Families without a worked word, from the formats of 03: op, g, d, a, b and f in their places. -/
theorem test_decode_from_formats :
    decodeTableWord 32 0b100011_111_0000001_0000010_000000101 = some (.xori 7 1 2 5) ∧ decodeTableWord 32 0b011010_001_010_011_100_000000000000_01 = some (.por 1 2 3 4) ∧
    decodeTableWord 32 0b010101_111_0000001_0000010_0000011_01 = some (.shflXor 7 1 2 3) ∧ decodeTableWord 32 0b000010_111_0000010_0000100_0000110_11 = some (.add64 7 2 4 6) ∧
    decodeTableWord 32 0b111000_111_0000010_0000100_0001000_01 = some (.cas 7 2 4 8 1) ∧ decodeTableWord 32 0b111001_111_1111111_0000100_0001000_10 = some (.satom 7 127 4 8 2) ∧
    decodeTableWord 32 0b101111_111_0000000_1100000_010_000001 = some (.pf 7 96 1) ∧ decodeTableWord 32 0b011001_111_001_0110_0000011_0000100_11 = some (.fcmp 7 1 6 3 4 3) ∧
    decodeTableWord 32 0b111101_100_00000000_000000000000101 = some (.hintBar 5) := by decide

/-! ## States and issue contexts -/

/-- The context in which the agent whose turn it is would issue a word of a form. -/
def atForm (f : Form) (s : State) : Iss :=
  match s.stand f with
  | .ok x => x
  | .error _ => { who := .grp 0 0, core := 0, ctx := 0, g := {}, pc := 0, next := 0, form := f }
def at_ (i : Instr) (s : State) : Iss := atForm (form i) s

def stands (f : Form) (s : State) : Bool := match s.stand f with | .ok _ => true | .error _ => false

theorem stand_at {f : Form} {s : State} (h : stands f s = true) : s.stand f = .ok (atForm f s) := by
  unfold stands at h
  unfold atForm
  split at h
  · next x hx => rw [hx]
  · cases h

def readyB (i : Instr) (s : State) : Bool :=
  let x := at_ i s
  stands (form i) s && decide (wordFault x.form x.onCourier (s.ctx x.ctx).priv x.T.kobj.regs x.g.hints x.rep = none) && !x.interlocked s x.form &&
    decide (x.g.regErrs = []) && !((x.behind s).any fun f => f.holds (kls i)) && (!throttled i || x.onCourier || s.admits x.core x.t x.k)

theorem ready_at {i : Instr} {s : State} (h : readyB i s = true) : Ready i s (at_ i s) := by
  unfold readyB at h
  simp only [Bool.and_eq_true, decide_eq_true_eq, Bool.not_eq_true', Bool.or_eq_true] at h
  obtain ⟨⟨⟨⟨⟨e, a⟩, b⟩, r⟩, c⟩, d⟩ := h
  exact ⟨stand_at e, a, b, r, c, fun t k => by simp_all⟩

/-- One group with 4 KiB of stash on core 0, every lane at 4096; and a courier on core 0 instead. -/
def boot : State := State.reset.bootGroup.modTeam 0 fun T => { T with kobj := { T.kobj with stash := 4096 } }
def bootC : State := State.reset.bootCourier

/-- The group, its team or its kernel changed. -/
def bootG (f : Grp → Grp) : State := boot.modGrp 0 0 f
def bootT (f : Team → Team) : State := boot.modTeam 0 f

/-- Registers of lane 0, and scalars. -/
def lane0 (l : List (Nat × Word)) (g : Grp) : Grp := { g with v := l.foldl (fun t e => Tab.set 0 t (96 * e.1) e.2) g.v }
def scal (l : List (Nat × Word)) (g : Grp) : Grp := { g with s := l.foldl (fun t e => Tab.set 0 t e.1 e.2) g.s }

/-- The state after a word, or reset where there is none. -/
def after (i : Instr) (s : State) : State :=
  match exec i s with
  | .next t => t
  | _ => State.reset

/-- Register `r` of lane `l`, a scalar and the PC of quad 0 of the booted group. -/
def vAt (s : State) (r l : Nat) : Option Word := (s.grp 0 0).map fun g => g.vreg r l
def sAt (s : State) (r : Nat) : Option Word := (s.grp 0 0).map fun g => g.sreg r
def pcAt (s : State) (q : Nat) : Option DWord := (s.grp 0 0).bind fun g => (Tab.get {} g.quads q).path.map Path.pc

/-! ## Single steps -/

/-- Table 04-4, rows 1, 2 and 3, with a in `v4`, b in `v5` and d in `v6`. -/
theorem test_bit_fields :
    vAt (after (.bfxI32 7 6 4 5) (bootG (lane0 [(4, 0xF00FF0F0), (5, 0x0000081C), (6, 0x12345678)]))) 6 0 = some 0xFFFFFFFF ∧
    vAt (after (.bfi 7 6 4 5) (bootG (lane0 [(4, 0xF00FF0F0), (5, 0x00000804), (6, 0x12345678)]))) 6 0 = some 0x12345F08 ∧
    vAt (after (.bfxI32 7 6 4 5) (bootG (lane0 [(4, 0xF00FF0F0), (5, 0x00000C04), (6, 0x12345678)]))) 6 0 = some 0xFFFFFF0F := by decide

/-- R82: division by zero, and the one quotient that does not fit. -/
theorem test_division_corners :
    vAt (after (.idivI32 7 6 4 5) (bootG (lane0 [(4, 0x80000000), (5, 0xFFFFFFFF)]))) 6 0 = some 0x80000000 ∧
    vAt (after (.iremI32 7 6 4 5) (bootG (lane0 [(4, 0xFFFFFFF9), (5, 2)]))) 6 0 = some 0xFFFFFFFF ∧
    vAt (after (.iremN32 7 6 4 5) (bootG (lane0 [(4, 7), (5, 0)]))) 6 0 = some 7 := by decide

/-- R41 and R58: a `loop` entered at 0 wraps, and branches three words back. -/
theorem test_loop_wraps :
    sAt (after (.loop 20 0xFFFFD) boot) 20 = some 0xFFFFFFFF ∧ pcAt (after (.loop 20 0xFFFFD) boot) 0 = some 4084 ∧
    pcAt (after (.loop 20 0xFFFFD) (bootG (scal [(20, 1)]))) 0 = some 4100 := by decide

/-- Table 05-7, 500 under the reset modes, and 460 under RUP without saturation by a MOD hint. -/
theorem test_e4m3_overflow :
    vAt (after (.cvt 7 6 5 6) (bootG (lane0 [(5, 0x43FA0000)]))) 6 0 = some 0x7E ∧
    vAt (after (.cvt 7 7 5 6) (bootG fun g => { lane0 [(5, 0x43E60000)] g with hints := { mod := some 0x3C000 }, hintPc := some 4096 })) 7 0 = some 0x7F ∧
    vAt (after (.cvt 7 6 5 6) (bootG (lane0 [(5, 0x43E60000)]))) 6 0 = some 0x7E := by decide

/-- The example 'one rounding, not four' of 05. -/
theorem test_dot_rounds_once :
    vAt (after (.dot4E4m3 7 20 8 9) (bootG (lane0 [(20, 0x4B800000), (8, 0x00003C3C), (9, 0x00003030)]))) 20 0 = some 0x4B800001 := by decide

/-- The example 'rounding after each block' of 07: two elements of a row, with the scale of the second group 2. -/
theorem test_block_sums :
    (({ batch := 0, idx := 0, acc := 0, red := false, z := false, int := false, asrc := false, bsrc := false, abase := 0, apitch := 0, bbase := 0, bpitch := 0,
        members := 0, lanes := BitVec.allOnes 96,
        afmt := 2, bfmt := 2, abytes := [(0x38 : BitVec 4096) ||| (0x30 : BitVec 4096) <<< 2048], bbytes := [(0x38 : BitVec 4096) ||| (0x38 : BitVec 4096) <<< 2048],
        atags := [[0x7F02, 0x7F02, 0x7F02, 0x7F02, 0x8002, 0x7F02, 0x7F02, 0x7F02]], btags := [[0x7F02, 0x7F02, 0x7F02, 0x7F02, 0x7F02, 0x7F02, 0x7F02, 0x7F02]] } : MatOp).tile
      0 0 0x4B800000).1 = 0x4B800000 := by decide +kernel

/-- Table 06-9, time 1: `bini` with quotas 2 and 192. -/
theorem test_barrier_object :
    ((after (.bini 4 5) (bootG (scal [(4, 0x100), (5, 0x00C00002)]))).team 0).map
      (fun T => readBytes T.stash 0x100 16) = some (objBytes 2 0 192 0 3072 0) := by decide

/-- R97: a ballot into three scalars, with `v4` non-zero in lane 0 alone. -/
theorem test_ballot : sAt (after (.vote 7 100 4 4) (bootG (lane0 [(4, 9)]))) 4 = some 1 ∧ sAt (after (.vote 7 100 4 4) (bootG (lane0 [(4, 9)]))) 5 = some 0 := by decide

/-- R374: without a handler a trap kills the team; R108: with one, FAUX tells `brk` from `trap`. -/
theorem test_traps :
    (after .brk boot).team 0 = none ∧
    ((after .brk ((bootT fun T => { T with kobj := { T.kobj with hbind := true } }).modCtx 0 fun c => { c with handler := 64 })).grp 0 0).map (fun g => (g.fcode, g.faux, g.fpc)) =
      some (0x41, 0x80000000, 4096) := by decide

/-- R50: a step fetches the word at the PC and runs it. -/
theorem test_step_runs_a_word :
    (match step (State.reset.withFetchWord 32 0xF1400010) with | .next t => sAt t 20 | _ => none) = some 16 ∧
    (match step (State.reset.withFetchWord 32 0xF1400010) with | .next t => pcAt t 0 | _ => none) = some 4100 := by decide

/-- R245: a tick from reset. -/
theorem test_tick : (match step State.reset with | .next t => t.gtime | _ => 0) = 1 := by decide

/-! ## Witnesses: words of vectors, predicates, lanes and scalars -/

theorem meets {α : Type} {F : Instr → Option α} {s : State} {l : List Instr}
    (h : ∀ i, i ∈ l → (F i).isSome = true ∧ readyB i s = true) (i : Instr) (hi : i ∈ l) : ∃ f, F i = some f ∧ Ready i s (at_ i s) := by
  obtain ⟨a, b⟩ := h i hi
  obtain ⟨f, hf⟩ := Option.isSome_iff_exists.mp a
  exact ⟨f, hf, ready_at b⟩

def twoSourceWords : List Instr :=
  [.iadd 7 2 0 1, .isub 7 2 0 1, .imul 7 2 0 1, .imulhI32 7 2 0 1, .imulhN32 7 2 0 1, .idivI32 7 2 0 1, .idivN32 7 2 0 1, .iremI32 7 2 0 1,
   .iremN32 7 2 0 1, .iminI32 7 2 0 1, .iminN32 7 2 0 1, .imaxI32 7 2 0 1, .imaxN32 7 2 0 1, .and 7 2 0 127, .or 7 95 96 1, .xor 0 2 0 1, .andn 7 2 0 1] ++
  [.shl 7 2 0 1, .shr 7 2 0 1, .sar 7 2 0 1, .rotl 7 2 0 1, .bfxN32 7 2 0 1, .bfxI32 7 2 0 1]

theorem witness_TwoSourceFormsWriteTheirResult : ∀ i, i ∈ twoSourceWords → ∃ f, twoSource i = some f ∧ Ready i boot (at_ i boot) := meets (by decide)

def oneResultWords : List Instr :=
  [.imad 7 2 0 1, .clz 7 2 0, .popc 7 2 0, .brev 7 2 0, .not 7 2 0, .iabs 7 2 0, .ineg 7 2 0, .mov 7 2 0, .lane 7 2, .isel 0 2 0 1, .p2v 7 2 7] ++
  [.iaddi 7 2 0 0, .andi 7 2 0 0, .ori 7 2 0 0, .xori 7 2 0 511, .shli 7 2 0 0, .shri 7 2 0 0, .sari 7 2 0 0, .movi 7 2 0, .imuli 7 2 0 0] ++
  [.fabs 7 2 0, .fneg 7 2 0, .fmin 7 2 0 1, .fmax 7 2 0 1, .fcls 7 2 0, .upk 7 2 0 8]

theorem witness_SingleResultFormsWriteTheirResult : ∀ i, i ∈ oneResultWords → ∃ f, oneResult i = some f ∧ Ready i boot (at_ i boot) := meets (by decide)

theorem witness_BfiInsertsTheField : Ready (.bfi 7 2 0 1) boot (at_ (.bfi 7 2 0 1) boot) := ready_at (by decide)

theorem witness_PairFormsWriteBothRegisters : ∀ i, i ∈ [Instr.madw 7 2 0 1, .add64 7 94 4 98] → ∃ f, pairResult i = some f ∧ Ready i boot (at_ i boot) := meets (by decide)

def flaggedWords : List Instr :=
  [.fadd 7 2 0 1, .fsub 7 2 0 1, .fmul 7 2 0 1, .ffma 7 2 0 1, .fdiv 7 2 0 1, .fsqrt 7 2 0, .fscale 7 2 0 1, .frcp 7 2 0, .frsq 7 2 0, .fex2 7 2 0,
   .flg2 7 2 0, .fsin 7 2 0, .fcos 7 2 0, .frnd 7 2 0 4, .cvt 7 2 0 12, .scl 7 2 0 1] ++
  [.hadd2F16 7 2 0 1, .hmul2F16 7 2 0 1, .hfma2F16 7 2 0 1, .hmax2F16 7 2 0 1, .hadd2Bf16 7 2 0 1, .hmul2Bf16 7 2 0 1, .hfma2Bf16 7 2 0 1, .hmax2Bf16 7 2 0 1] ++
  [.dot4E4m3 7 2 0 1, .dot4E5m2 7 2 0 1, .dot4I8 7 2 0 1, .dot4N8 7 2 0 1, .dot8E2m1 7 2 0 1, .dot8I4 7 2 0 1, .dot2F16 7 2 0 1, .dot2Bf16 7 2 0 1]

theorem witness_FlaggedFormsAreReady : ∀ i, i ∈ flaggedWords → ∃ f, flagged i = some f ∧ Ready i boot (at_ i boot) := meets (by decide)

/-- With no flag armed nothing traps. -/
theorem witness_FlaggedFormsWriteResultAndFlags :
    ∃ s x f, flagged (.fadd 7 2 0 1) = some f ∧ Ready (.fadd 7 2 0 1) s x ∧ Untrapped x s (f x) :=
  ⟨boot, at_ (.fadd 7 2 0 1) boot, _, rfl, ready_at (by decide), by unfold Untrapped; decide⟩

theorem witness_PackFormsNarrowTheirElements : ∀ i, i ∈ [Instr.pk2 7 2 0 99, .pk4 7 2 0 99, .pk8 7 2 0 99] → ∃ n, packs i = some n ∧ Ready i boot (at_ i boot) :=
  meets (by decide)

/-- A packing form with an accepted code (FP16 for `pk2`), and one without. -/
theorem witness_PackFormats :
    pkFmt 2 ((valB (at_ (.pk2 7 2 0 99) (bootG (scal [(3, 7)]))) 0).toNat % 16) ≠ none ∧
    pkFmt 2 ((valB (at_ (.pk2 7 2 0 99) boot) 0).toNat % 16) = none := by decide

/-- A pair descriptor in the booted page: one A record at 5632, one B record at 5664, HALT, DZ and NV lane-precise as FLAGS says. -/
def desc (flags k : Nat) : List Byte :=
  leBytes 8 5632 ++ leBytes 4 1 ++ leBytes 4 12 ++ leBytes 4 0 ++ zeros 4 ++ leBytes 8 5664 ++ leBytes 4 1 ++ leBytes 4 12 ++ leBytes 4 0 ++ zeros 4 ++
  (leBytes 1 0 ++ leBytes 1 flags ++ leBytes 1 k ++ leBytes 1 0 ++ leBytes 4 0x3F800000 ++ zeros 24 ++ zeros 8 ++ leBytes 8 4096 ++ zeros 8 ++ leBytes 1 96 ++ zeros 3) ++
  (zeros 4 ++ leBytes 8 6144 ++ leBytes 8 6400 ++ zeros 16 ++ leBytes 8 6656 ++ leBytes 4 64 ++ zeros 4 ++ leBytes 8 6720 ++ leBytes 4 64 ++ zeros 84)

theorem test_descriptor_accepted : (desc 0x38 1).length = 256 ∧ pairBad (desc 0x38 1) = none := by decide

/-- A pair launch in flight. -/
def pairOf (flags k : Nat) : PairLaunch := { ctx := 0, lid := 1, daddr := 5120, desc := desc flags k }

/-- The booted group as a pair group of it. -/
def bootPair (flags k : Nat) : State := { boot with pairLaunches := [pairOf flags k] }.modTeam 0 fun T => { T with kind := .pair }

/-- A signaling NaN in lane 0 of a pair group whose NV is lane-precise. -/
def armed : State := (bootPair 0x38 1).modGrp 0 0 (lane0 [(0, 0x7F800001)])

theorem witness_LanePreciseFlagsTrap :
    ∃ x f, flagged (.fadd 7 2 0 1) = some f ∧ Ready (.fadd 7 2 0 1) armed x ∧ x.whole armed ∧ x.act.getLsbD 0 = true ∧
      (f x 0).2 &&& x.precise armed ≠ 0 :=
  ⟨at_ (.fadd 7 2 0 1) armed, _, rfl, ready_at (by decide), by unfold Iss.whole; decide, by decide, by decide⟩

def predicateWords : List Instr := [.icmp 7 6 9 0 1 3, .pand 7 0 1 7, .por 7 0 1 7, .pxor 7 0 1 7, .pnot 7 0 7, .v2p 7 0 6]

theorem witness_PredicateFormsWriteActiveLanes : ∀ i, i ∈ predicateWords → ∃ f, predResult i = some f ∧ Ready i boot (at_ i boot) := meets (by decide)

theorem witness_FcmpComparesAndSetsNv :
    ∃ x, Ready (.fcmp 7 6 7 0 1 3) boot x ∧ ∀ l, l < 96 → x.act.getLsbD l = true → fcmpNv 7 (valA x l) (valB x l) = true → x.precise boot &&& 1 = 0 :=
  ⟨at_ (.fcmp 7 6 7 0 1 3) boot, ready_at (by decide), by decide⟩

theorem witness_ShufflesTakeActiveSources :
    ∀ i, i ∈ [Instr.shflIdx 7 2 0 1, .shflXor 7 2 0 1, .shflUp 7 2 0 1, .shflDn 7 2 0 1] → ∃ f, shuffleFrom i = some f ∧ Ready i boot (at_ i boot) := meets (by decide)

theorem witness_BcastVoteCompactWriteTheirResult :
    Ready (.bcast 7 2 0 96) boot (at_ (.bcast 7 2 0 96) boot) ∧ Ready (.vote 7 125 0 4) boot (at_ (.vote 7 125 0 4) boot) ∧
    Ready (.compact 0 2 0) boot (at_ (.compact 0 2 0) boot) := ⟨ready_at (by decide), ready_at (by decide), ready_at (by decide)⟩

/-- The tree and the serial pass, with active lanes and with none. -/
theorem witness_GredCombinesInTheFixedTree :
    Ready (.gred 7 110 8 1) boot (at_ (.gred 7 110 8 1) boot) ∧ Ready (.gred 0 110 8 10) boot (at_ (.gred 0 110 8 10) boot) ∧
    (at_ (.gred 7 110 8 1) boot).act ≠ 0 ∧ (at_ (.gred 0 110 8 10) boot).act = 0 ∧ (at_ (.gred 7 110 8 1) boot).precise boot = 0 :=
  ⟨ready_at (by decide), ready_at (by decide), by decide, by decide, by decide⟩

theorem witness_GscanCombinesSerially :
    Ready (.gscan 7 2 8 17) boot (at_ (.gscan 7 2 8 17) boot) ∧ Ready (.gscan 7 96 8 1) boot (at_ (.gscan 7 96 8 1) boot) ∧
    (at_ (.gscan 7 2 8 17) boot).precise boot = 0 ∧ (at_ (.gscan 7 96 8 1) boot).precise boot = 0 := ⟨ready_at (by decide), ready_at (by decide), by decide, by decide⟩

def scalarWords : List Instr :=
  [.sadd 0 1 2, .ssub 0 1 2, .smul 0 1 2, .sand 0 1 2, .sor 0 1 2, .sxor 0 1 2, .sshl 0 1 2, .sshr 0 1 2, .ssar 0 1 2, .sminI32 0 1 2, .sminN32 0 1 2,
   .smaxI32 0 1 2, .smaxN32 63 1 2, .smov 61 1, .ssel 0 1 2, .smovi 63 8191] ++
  [.scmpEq 0 1 2, .scmpNe 0 1 2, .scmpLt 0 1 2, .scmpLe 0 1 2, .scmpGt 0 1 2, .scmpGe 0 1 2, .scmpLtn 0 1 2, .scmpLen 0 1 2, .scmpGtn 0 1 2, .scmpGen 0 1 2]

/-- On a group and on a courier. -/
theorem witness_ScalarFormsWriteOnce :
    (∀ i, i ∈ scalarWords → ∃ f, scalarResult i = some f ∧ Ready i boot (at_ i boot)) ∧ ∀ i, i ∈ scalarWords → ∃ f, scalarResult i = some f ∧ Ready i bootC (at_ i bootC) :=
  ⟨meets (by decide), meets (by decide)⟩

/-! ## Witnesses: control flow, hints, faults -/

/-- A team with a second group, a handler that its kernel binds, and a group that runs the handler. -/
def bootTwo : State := bootT fun T => { T with groups := Tab.put T.groups 1 (Tab.get {} T.groups 0) }
def handled (s : State) : State := (s.modTeam 0 fun T => { T with kobj := { T.kobj with hbind := true } }).modCtx 0 fun c => { c with handler := 64 }
def inHandler : State := (handled boot).modGrp 0 0 fun g => { g with frame := some 8192 }

/-- What holds of every entry of a table holds of every entry found in it. -/
theorem find_all {α : Type} {P : Nat → α → Prop} {t : Tab α} (h : ∀ e, e ∈ t → P e.1 e.2) {k : Nat} {v : α} (f : Tab.find t k = some v) : P k v := by
  induction t with
  | nil => cases f
  | cons e t ih =>
    obtain ⟨j, w⟩ := e
    unfold Tab.find at f
    split at f
    · next e => cases f; subst e; exact h (k, v) (by simp)
    · exact ih (fun e he => h e (by simp [he])) f

theorem witness_RegangParksAndYieldGivesWay : Ready .regang boot (at_ .regang boot) ∧ Ready .yield boot (at_ .yield boot) := ⟨ready_at (by decide), ready_at (by decide)⟩

/-- In a handler; with lanes 0 to 31 disabled; and with every lane of a group, beside another group and as the last one. -/
theorem witness_ExitRemovesTheEnabledLanes :
    (∃ x, Ready .exit inHandler x ∧ x.g.frame.isSome = true) ∧
    (∃ x, Ready .exit (bootG (scal [(61, 0)])) x ∧ x.g.frame = none ∧ x.g.exited ||| x.en ≠ BitVec.allOnes 96) ∧
    (∃ x, Ready .exit bootTwo x ∧ x.g.frame = none ∧ x.g.exited ||| x.en = BitVec.allOnes 96 ∧ Tab.rising 0 x.T.groups = true ∧ (∀ e, e ∈ x.T.groups → e.2.muster = none) ∧
      (∀ e, e ∈ bootTwo.teams → e.2.ending = none) ∧ ∃ j g, j ≠ x.k ∧ Tab.find x.T.groups j = some g ∧ g.run ≠ .ended) ∧
    ∃ x, Ready .exit boot x ∧ x.g.frame = none ∧ x.g.exited ||| x.en = BitVec.allOnes 96 ∧ Tab.rising 0 x.T.groups = true ∧ (∀ e, e ∈ x.T.groups → e.2.muster = none) ∧
      (∀ e, e ∈ boot.teams → e.2.ending = none) ∧ (∀ j g, j ≠ x.k → Tab.find x.T.groups j = some g → g.run = .ended) ∧ x.T.wins = [] ∧ boot.ops = [] ∧ boot.mcast = [] :=
  ⟨⟨at_ .exit inHandler, ready_at (by decide), by decide⟩, ⟨at_ .exit (bootG (scal [(61, 0)])), ready_at (by decide), by decide, by decide⟩,
   ⟨at_ .exit bootTwo, ready_at (by decide), by decide, by decide, by decide, by decide, by decide, 1, ((bootTwo.grp 0 1).getD {}), by decide, by decide, by decide⟩,
   at_ .exit boot, ready_at (by decide), by decide, by decide, by decide, by decide, by decide,
   fun j g n f => find_all (P := fun j g => j ≠ _ → g.run = .ended) (by decide) f n, by decide, rfl, rfl⟩

theorem witness_HintsBecomePending :
    ∀ i, i ∈ [Instr.hintImm 5, .hintMod 0, .hintRep 1 1 1 1, .hintPref 1, .hintBar 0] → ∃ f, hintOf i = some f ∧ Ready i boot (at_ i boot) := meets (by decide)

/-- A team of two groups whose handler serves it, and a team without one. -/
theorem witness_TrapsRecordTheirCode :
    (∀ i, i ∈ [Instr.brk, .trap 4095] → ∃ v, trapOf i = some v ∧ Ready i (handled bootTwo) (at_ i (handled bootTwo))) ∧
    ∀ i, i ∈ [Instr.brk, .trap 4095] → let x := at_ i (handled bootTwo); x.onCourier = false ∧ x.whole (handled bootTwo) ∧ Handled x (handled bootTwo) :=
  ⟨meets (by decide), by unfold Iss.whole Handled; decide⟩

/-- With a handler, without one, and on a courier; the host has set no ring. -/
theorem witness_FaultsAreRecordedOrReported :
    (∃ x, (handled bootTwo).stand (form .brk) = .ok x ∧ x.whole (handled bootTwo) ∧ Handled x (handled bootTwo)) ∧
    (∃ x, boot.stand (form .brk) = .ok x ∧ x.whole boot ∧ ¬ Handled x boot ∧ x.T.ending = none ∧ Tab.rising 0 x.T.groups = true) ∧
    (∃ x, bootC.stand (form .brk) = .ok x ∧ x.whole bootC ∧ x.who = .courier 0) ∧ ∀ s, s ∈ [boot, bootC] → s.ring.set = false ∧ s.ring.kept = [] :=
  ⟨⟨_, stand_at (by decide), by unfold Iss.whole; decide, by unfold Handled; decide⟩,
   ⟨_, stand_at (by decide), by unfold Iss.whole; decide, by unfold Handled; decide, by decide, by decide⟩,
   ⟨_, stand_at (by decide), by unfold Iss.whole; decide, by decide⟩, by decide⟩

/-- A dictionary whose entry 0 is `iadd v2, v0, v1` and whose entry 1 is a hint, at its place; its D word at slot A and at slot B. -/
def dictPlace : DictPlace := { ctx := 0, addr := 4096, words := [0x07820004, encode (.hintImm 0)] }
def bootDict (pc : DWord) : State :=
  (boot.modCore 0 fun c => { c with dicts := [dictPlace] }).modTeam 0 fun T =>
    { T with kobj := { T.kobj with dict := 4096 }, groups := T.groups.map fun e => (e.1, { e.2 with quads := e.2.quads.map fun q => (q.1, { q.2 with path := some (Machine.Path.mk pc 15) }) }) }

def dict0 : Instr := .dict 0 7 0 0
def dict1 : Instr := .dict 1 0 1 0

/-- The state in which an entry's word runs. -/
def inSlotS (s : State) (f : Bool) : State := s.modGrp 0 0 fun g => { g with inSlot := f }

theorem witness_DictRunsItsEntry :
    (∀ i, i ∈ [dict0, dict1] → ∀ s, s ∈ [bootDict 4096, bootDict 4098] → s.stand (form i) = .ok (at_ i s) ∧ (let x := at_ i s
      x.onCourier = false ∧ x.T.kobj.dict ≠ 0 ∧ x.g.frame = none ∧ x.g.hints.pend = 0 ∧
      (s.core x.core).dicts.find? (fun p => p.ctx = x.ctx && p.addr = x.T.kobj.dict) = some dictPlace)) ∧
    (∀ s, s ∈ [boot, inHandler] → s.stand (form dict0) = .ok (at_ dict0 s) ∧ (let x := at_ dict0 s; x.onCourier = false ∧ x.g.hints.pend = 0 ∧ (x.T.kobj.dict = 0 ∨ x.g.frame.isSome = true))) ∧
    twoSource (mapCodes (offCode 7) (.iadd 7 2 0 1)) = twoSource (.iadd 7 2 0 1) ∧ (let j := mapCodes (offCode 7) (.iadd 7 2 0 1); (twoSource j).isSome = true ∧ Ready j (inSlotS (bootDict 4096) true) (at_ j (inSlotS (bootDict 4096) true))) :=
  ⟨fun i hi s h => ⟨stand_at (by revert s; revert i; decide), by revert s; revert i; decide⟩, fun s h => ⟨stand_at (by revert s; decide), by revert s; decide⟩, rfl, by decide, ready_at (by decide)⟩

theorem witness_DictEntry :
    Tab.find dictPlace.bad 0 = none ∧ decode (dictPlace.words.getD 0 0) = .ok (.iadd 7 2 0 1) ∧ (form (.iadd 7 2 0 1)).fmt ≠ .H ∧ (form (.iadd 7 2 0 1)).fmt ≠ .D ∧
    Tab.find dictPlace.bad 1 = none ∧ decode (dictPlace.words.getD 1 0) = .ok (.hintImm 0) ∧ (form (.hintImm 0)).fmt = .H :=
  ⟨rfl, rfl, by decide, by decide, rfl, rfl, by decide⟩

/-- A branch with every lane active, with none, and on a courier. -/
theorem witness_BraSendsEachLaneItsWay :
    Ready (.bra 7 0x7FFFFD) boot (at_ (.bra 7 0x7FFFFD) boot) ∧ Ready (.bra 0 1) boot (at_ (.bra 0 1) boot) ∧ Ready (.bra 7 1) bootC (at_ (.bra 7 1) bootC) :=
  ⟨ready_at (by decide), ready_at (by decide), ready_at (by decide)⟩

theorem witness_ScalarBranchesMoveTheWholePath :
    Ready (.sbra 63 1) boot (at_ (.sbra 63 1) boot) ∧ Ready (.loop 63 0xFFFFF) boot (at_ (.loop 63 0xFFFFF) boot) ∧
    Ready (.sbra 0 1) bootC (at_ (.sbra 0 1) bootC) ∧ Ready (.loop 0 1) bootC (at_ (.loop 0 1) bootC) :=
  ⟨ready_at (by decide), ready_at (by decide), ready_at (by decide), ready_at (by decide)⟩

/-- Return stacks of 16 and 15 entries, and of one. -/
def stacked (n : Nat) : State := bootG fun g => { g with quads := g.quads.map fun q => (q.1, { q.2 with ret := List.replicate n (Machine.Path.mk 4096 0) }) }
def stackedC (n : Nat) : State := bootC.modCore 0 fun c => { c with courier := c.courier.map fun y => { y with ret := List.replicate n 4096 } }

theorem witness_CallPushesOrRaisesCallDepth :
    (∃ x, Ready (.call 7 1) (stacked 16) x ∧ ∃ m, m ∈ x.fq ∧ 16 ≤ (Tab.get {} x.g.quads m).ret.length) ∧
    (∃ x, Ready (.call 7 1) (stacked 15) x ∧ ∀ m, m ∈ x.fq → (Tab.get {} x.g.quads m).ret.length < 16) ∧
    Ready (.call 7 1) (stackedC 16) (at_ (.call 7 1) (stackedC 16)) ∧ Ready (.call 7 1) (stackedC 15) (at_ (.call 7 1) (stackedC 15)) :=
  ⟨⟨at_ (.call 7 1) (stacked 16), ready_at (by decide), by decide⟩, ⟨at_ (.call 7 1) (stacked 15), ready_at (by decide), by decide⟩, ready_at (by decide), ready_at (by decide)⟩

theorem witness_RetPopsOrRaisesCallDepth :
    (∃ x, Ready .ret boot x ∧ ∃ m, m ∈ x.fq ∧ (Tab.get {} x.g.quads m).ret = []) ∧
    (∃ x, Ready .ret (stacked 1) x ∧ ∀ m, m ∈ x.fq → (Tab.get {} x.g.quads m).ret ≠ []) ∧
    Ready .ret (stackedC 0) (at_ .ret (stackedC 0)) ∧ Ready .ret (stackedC 1) (at_ .ret (stackedC 1)) :=
  ⟨⟨at_ .ret boot, ready_at (by decide), by decide⟩, ⟨at_ .ret (stacked 1), ready_at (by decide), by decide⟩, ready_at (by decide), ready_at (by decide)⟩

/-- An index at n, and one below it over a table that is not aligned. -/
theorem witness_JmpiChecksItsIndicesFirst :
    (∃ x, Ready (.jmpi 7 1 0 100) (bootG (lane0 [(0, 1)])) x ∧ x.whole (bootG (lane0 [(0, 1)])) ∧ x.act.getLsbD 0 = true ∧ 1 ≤ (valA x 0).toNat) ∧
    ∃ x, Ready (.jmpi 7 1 0 100) (bootG (scal [(4, 2)])) x ∧ x.whole (bootG (scal [(4, 2)])) ∧
      (∀ l, l < 96 → x.act.getLsbD l = true → (valA x l).toNat < 1) ∧ (x.g.pair x.b 0).toNat % 4 ≠ 0 :=
  ⟨⟨at_ (.jmpi 7 1 0 100) (bootG (lane0 [(0, 1)])), ready_at (by decide), by unfold Iss.whole; decide, by decide, by decide⟩,
   at_ (.jmpi 7 1 0 100) (bootG (scal [(4, 2)])), ready_at (by decide), by unfold Iss.whole; decide, by decide, by decide⟩

/-- A table in the booted page. -/
theorem witness_JmpiBranchesThroughItsTable :
    ∀ l, l ∈ [({} : Hints), { rep := some 64 }] → ∃ x, let s := bootG fun g => { scal [(4, 5120)] g with hints := l, hintPc := some 4096 }
      Ready (.jmpi 7 127 0 100) s x ∧ (x.g.pair x.b 0).toNat % 4 = 0 ∧ (x.last = true ↔ l.rep = none) ∧
      ∀ l, l < 96 → x.act.getLsbD l = true → (valA x l).toNat < 127 ∧ (x.g.pair x.b 0).toNat + 4 * (valA x l).toNat = 5120 ∧ x.earlierPend s 5120 4 = false ∧ s.vaReady x.core x.ctx .r 5120 4 = true ∧
        (∃ t, s.trans x.core x.ctx .r 5120 = .ok t ∧ t.pa = 5120) ∧ s.l1Hit x.core 5120 = none ∧ s.poisonedAt 5120 = false := by
  intro h hh
  simp only [List.mem_cons, List.not_mem_nil, or_false] at hh
  rcases hh with rfl | rfl <;>
    refine ⟨at_ (.jmpi 7 127 0 100) _, ready_at (by decide), by decide, by decide, fun l hl ha => ⟨?_, ?_, by decide, by decide, ⟨_, rfl, by decide⟩, by decide, by decide⟩⟩ <;> (revert l; decide)

theorem witness_FailedWordChecksRaise :
    ∃ x, boot.stand (form (.iadd 7 100 0 1)) = .ok x ∧
      wordFault x.form x.onCourier (boot.ctx x.ctx).priv x.T.kobj.regs x.g.hints x.rep = some .operand ∧ isWord (.iadd 7 100 0 1) = true ∧ (form (.iadd 7 100 0 1)).fmt ≠ .D :=
  ⟨_, stand_at (by decide), by decide, by decide, by decide⟩

/-- Words that are none, and words whose zero fields are wrong: on a group with a hint that fits and one that does not, and on a courier. -/
theorem witness_UnassignedEncodingRaises :
    (∀ h, h ∈ [({} : Hints), { bar := some 0 }] → ∃ x, let s := bootG fun g => { g with hints := h, hintPc := some 4096 }
      s.stand { fmt := .S } = .ok x ∧ x.onCourier = false ∧ decode 0 = .error .illegal ∧
      decode 0b010111_001_0000010_0000011_0000100_00#32 = .error (.reservedBits (.compact 1 2 3)) ∧ (hintBad x.g.hints (form (.compact 1 2 3)) = false ↔ h.bar = none)) ∧
    ∃ x, bootC.stand { fmt := .S } = .ok x ∧ x.onCourier = true ∧ (form (.compact 1 2 3)).courier = false ∧
      decode 0b111111_000000_000000_000001_01000000#32 = .error (.reservedBits .ret) ∧ (form .ret).courier = true ∧ hintBad x.g.hints (form .ret) = false := by
  refine ⟨fun h hh => ?_, _, stand_at (by decide), by decide, by decide, rfl, by decide, by decide⟩
  simp only [List.mem_cons, List.not_mem_nil, or_false] at hh
  rcases hh with rfl | rfl <;> exact ⟨_, stand_at (by decide), by decide, rfl, rfl, by decide⟩

/-! ## Witnesses: memory -/

def okB {ε α : Type} (e : Except ε α) : Bool := match e with | .ok _ => true | .error _ => false
def valOf {ε α : Type} (d : α) (e : Except ε α) : α := match e with | .ok v => v | .error _ => d
def errB {ε α : Type} [DecidableEq ε] (c : ε) (e : Except ε α) : Bool := match e with | .ok _ => false | .error f => decide (f = c)

theorem ok_of {ε α : Type} {e : Except ε α} (d : α) (h : okB e = true) : e = .ok (valOf d e) := by
  cases e with
  | ok v => rfl
  | error f => cases h

theorem err_of {ε α : Type} [DecidableEq ε] {c : ε} {e : Except ε α} (h : errB c e = true) : e = .error c := by
  cases e with
  | ok v => cases h
  | error f => unfold errB at h; simp only [decide_eq_true_eq] at h; rw [h]

def tr0 : Tr := { pa := 0, leaf := 0, d := true, ipa := 0, lsz := 4096 }

/-- Translations of an access's lanes. -/
def trs (x : Iss) (s : State) (k : Acc) (addr : Nat → Nat) (l : Nat) : Tr := valOf tr0 (s.trans x.core x.ctx k (addr l))

theorem lanesPass_of {x : Iss} {s : State} {al : Nat} {k : Acc} {addr : Nat → Nat}
    (h : ∀ l, l < 96 → x.act.getLsbD l = true → addr l % al = 0 ∧ addr l < 2 ^ 60 ∧ s.tablesReady x.core x.ctx (addr l) = true ∧ okB (s.trans x.core x.ctx k (addr l)) = true) :
    LanesPass x s al k addr (trs x s k addr) :=
  fun l hl ha => ⟨(h l hl ha).1, (h l hl ha).2.1, (h l hl ha).2.2.1, ok_of tr0 (h l hl ha).2.2.2⟩

/-- Addresses in `s4:s5`, in the booted page; stash address 0 in `s6`. -/
def mem0 : State := bootG (scal [(4, 5120)])

def accessWords : List Instr :=
  [.ld 7 8 100 0 0, .ld 7 8 100 2 0, .ld 7 8 100 3 0, .ld 7 8 100 4 63, .ld 7 8 100 5 0, .ldx 7 8 100 0 3, .hgath 7 8 100 0 0, .ldt 7 8 100 0] ++
  [.st 7 8 100 0 0, .st 7 8 100 4 0, .stx 7 8 100 0 0, .stt 7 8 100 0] ++
  [.atomAdd 7 8 100 0 0, .atomAdd 7 127 100 0 2, .atomMin 7 8 100 0 1, .atomMax 7 8 100 0 3, .atomAnd 7 127 100 0, .atomOr 7 8 100 0, .atomXor 7 8 100 0, .atomExch 7 8 100 0,
   .cas 7 8 100 0 0, .cas 7 8 100 4 1]

def passB (i : Instr) (s : State) : Bool :=
  let x := at_ i s
  match accessOf i with
  | none => false
  | some a => !hampered x i && decide (x.g.ifc (a.ifc x) < 1024) &&
      (List.range 96).all fun l => decide (a.addr x l % a.align = 0) && decide (a.addr x l < 2 ^ 60) && (s.tablesReady x.core x.ctx (a.addr x l) && okB (s.trans x.core x.ctx a.acc (a.addr x l)))

theorem pass_of {i : Instr} {s : State} (h : passB i s = true) :
    ∃ a, accessOf i = some a ∧ hampered (at_ i s) i = false ∧ LanesPass (at_ i s) s a.align a.acc (a.addr (at_ i s)) (trs (at_ i s) s a.acc (a.addr (at_ i s))) ∧
      (at_ i s).g.ifc (a.ifc (at_ i s)) < 1024 := by
  unfold passB at h
  split at h
  · cases h
  · next a ha =>
    simp only [Bool.and_eq_true, decide_eq_true_eq, Bool.not_eq_true', List.all_eq_true, List.mem_range] at h
    exact ⟨a, ha, h.1.1, lanesPass_of fun l hl _ => ⟨(h.2 l hl).1.1, (h.2 l hl).1.2, (h.2 l hl).2.1, (h.2 l hl).2.2⟩, h.1.2⟩

theorem witness_AccessesLeaveTheirOperation : ∀ i, i ∈ accessWords → Ready i mem0 (at_ i mem0) ∧
    ∃ a, accessOf i = some a ∧ hampered (at_ i mem0) i = false ∧ LanesPass (at_ i mem0) mem0 a.align a.acc (a.addr (at_ i mem0)) (trs (at_ i mem0) mem0 a.acc (a.addr (at_ i mem0))) ∧
      (at_ i mem0).g.ifc (a.ifc (at_ i mem0)) < 1024 ∧ MissRoom (at_ i mem0) mem0 (lanesOf (at_ i mem0).act).length :=
  fun i h => by
    have k : readyB i mem0 = true ∧ mem0.missesOf (at_ i mem0).core + (lanesOf (at_ i mem0).act).length ≤ 1024 ∧ passB i mem0 = true := by revert i; decide +kernel
    obtain ⟨a, h1, h2, h3, h4⟩ := pass_of k.2.2
    exact ⟨ready_at k.1, a, h1, h2, h3, h4, k.2.1⟩

theorem witness_GatherFits : GatherFits (at_ (.hgath 7 8 100 0 0) mem0) ((at_ (.hgath 7 8 100 0 0) mem0).addrX 0) := by
  have e : ∀ l, l < 96 → (at_ (.hgath 7 8 100 0 0) mem0).addrX 0 l = 5120 := by decide +kernel
  exact ⟨fun l j hl hj _ _ => by rw [e l hl, e j hj], by decide +kernel⟩

/-- A float atomic of a DETERMINISTIC launch, without and with a destination. -/
def detS : State := mem0.modTeam 0 fun T => { T with kobj := { T.kobj with mode := 2 } }

theorem witness_DeterministicFloatsGoToTheHamper :
    (∃ k, atomKind (.atomAdd 7 127 100 0 1) = some k ∧ Ready (.atomAdd 7 127 100 0 1) detS (at_ (.atomAdd 7 127 100 0 1) detS) ∧
      hampered (at_ (.atomAdd 7 127 100 0 1) detS) (.atomAdd 7 127 100 0 1) = true ∧ (at_ (.atomAdd 7 127 100 0 1) detS).d = 127 ∧
      LanesPass (at_ (.atomAdd 7 127 100 0 1) detS) detS (atomSize k) .rw (at_ (.atomAdd 7 127 100 0 1) detS).addrT
        (trs (at_ (.atomAdd 7 127 100 0 1) detS) detS .rw (at_ (.atomAdd 7 127 100 0 1) detS).addrT) ∧ hampersOn detS 0 = 0 ∧ (at_ (.atomAdd 7 127 100 0 1) detS).g.ifc3 < 1024) ∧
    Ready (.atomMax 7 8 100 0 2) detS (at_ (.atomMax 7 8 100 0 2) detS) ∧ hampered (at_ (.atomMax 7 8 100 0 2) detS) (.atomMax 7 8 100 0 2) = true :=
  ⟨⟨.addF32, rfl, ready_at (by decide), by decide, by decide, lanesPass_of (by decide +kernel), by decide, by decide⟩, ready_at (by decide), by decide⟩

def stashWords : List Instr := [.lds 7 8 96 0 0, .lds 7 8 96 4 31, .sts 7 8 96 2 0, .satom 7 8 96 0 0, .satom 7 127 96 0 3]

theorem witness_StashAccessesLeaveTheirOperation : ∀ i, i ∈ stashWords → (∃ f, stashOf i = some f ∧ Ready i boot (at_ i boot)) ∧ MissRoom (at_ i boot) boot 0 ∧
    ∀ kind size wr addr data dst, stashOf i = some (kind, size, wr, addr, data, dst) →
      ∀ l, l < 96 → (at_ i boot).act.getLsbD l = true → addr (at_ i boot) l % size = 0 ∧
        (boot.stashRef (at_ i boot).t (at_ i boot).T (addr (at_ i boot) l) size).isSome = true := by
  intro i h
  refine ⟨meets (by decide) i h, by unfold MissRoom; revert i; decide, ?_⟩
  have k : (match stashOf i with
    | none => true
    | some (_, size, _, addr, _, _) => (List.range 96).all fun l => decide (addr (at_ i boot) l % size = 0) &&
        (boot.stashRef (at_ i boot).t (at_ i boot).T (addr (at_ i boot) l) size).isSome) = true := by revert i; decide +kernel
  intro kind size wr addr data dst e l hl ha
  rw [e] at k
  simp only [List.all_eq_true, List.mem_range, Bool.and_eq_true, decide_eq_true_eq] at k
  exact ⟨(k l hl).1, (k l hl).2⟩

/-- Nothing live lies in the booted team's stash. -/
theorem witness_NoBarrierLives : ∀ U, boot.team 0 = some U → ∀ off n, U.overBar off n = false := by
  intro U h off n
  have e : boot.team 0 = some (Tab.get {} boot.teams 0) := by decide
  rw [e] at h; cases h; rfl

/-- `sld` and `sst` on a group and on a courier, and without an active lane; `pread`. -/
def memC : State := bootC.modCore 0 fun c => { c with courier := c.courier.map fun y => { y with s := Tab.set 0 y.s 4 5120 } }

theorem witness_ScalarAccessesHappenOnce :
    (∀ s, s ∈ [mem0, memC] → ∀ i, i ∈ [Instr.sld 7 8 4 3 0, .sst 7 8 4 3 0] → Ready i s (at_ i s)) ∧
    (∀ s, s ∈ [mem0, memC] → ∀ i, i ∈ [Instr.sld 7 8 4 3 0, .sst 7 8 4 3 0] → let x := at_ i s
      x.act ≠ 0 ∧ x.addrS 0 8 = 5120 ∧ s.tablesReady x.core x.ctx 5120 = true ∧ okB (s.trans x.core x.ctx .r 5120) = true ∧ okB (s.trans x.core x.ctx .w 5120) = true ∧ (x.onCourier = false → x.g.ifc 0 < 1024 ∧ x.g.ifc 3 < 1024) ∧ s.missesOf x.core + 1 ≤ 1024) ∧
    (∃ x, Ready (.sld 0 8 4 3 0) mem0 x ∧ x.act = 0 ∧ x.onCourier = false) ∧
    ∃ x t, Ready (.pread 8 4 6) mem0 x ∧ x.act ≠ 0 ∧ mem0.missesOf x.core + 1 ≤ 1024 ∧ (x.g.sreg x.b).toNat ≤ 7 ∧ (x.g.spair x.a).toNat % 16 = 0 ∧ (x.g.spair x.a).toNat + 16 * (x.g.sreg x.b).toNat = 5120 ∧ mem0.tablesReady x.core x.ctx 5120 = true ∧
      mem0.trans x.core x.ctx .r 5120 = .ok t ∧ isLocal t.pa = true :=
  ⟨fun s hs i hi => ready_at (by revert i; revert s; decide), by decide, ⟨at_ (.sld 0 8 4 3 0) mem0, ready_at (by decide), by decide, by decide⟩,
   at_ (.pread 8 4 6) mem0, _, ready_at (by decide), by decide, by decide, by decide, by decide, by decide, by decide, ok_of tr0 (by decide), by decide⟩

/-- One state for each check: ALIGN, ADDRESS, TRANSLATION, PERMISSION, STAGE2. -/
def badPage (f : TlbEntry → TlbEntry) : State := mem0.modCore 0 fun c => { c with tlb := c.tlb.map f }

theorem witness_MemoryChecksComeInOrder :
    (∀ s, s ∈ [bootG (scal [(4, 5121)]), bootG (scal [(5, 0x10000000)]), bootG (scal [(4, 8192)]), badPage fun e => { e with r := false }, badPage fun e => { e with r2 := false }] →
      Ready (.ld 7 8 100 2 0) s (at_ (.ld 7 8 100 2 0) s) ∧ (at_ (.ld 7 8 100 2 0) s).act.getLsbD 0 = true ∧ (at_ (.ld 7 8 100 2 0) s).whole s) ∧
    (∀ s, s ∈ [bootG (scal [(4, 8192)]), badPage fun e => { e with r := false }] → ∀ l, l < 96 → s.tablesReady 0 0 ((at_ (.ld 7 8 100 2 0) s).addrM 0 4 l) = true) ∧
    (let x := at_ (.ld 7 8 100 2 0) (bootG (scal [(4, 5121)])); x.addrM 0 4 0 % 4 ≠ 0) ∧
    (let x := at_ (.ld 7 8 100 2 0) (bootG (scal [(5, 0x10000000)])); 2 ^ 60 ≤ x.addrM 0 4 0 ∧ ∀ l, l < 96 → x.addrM 0 4 l % 4 = 0) ∧
    (bootG (scal [(4, 8192)])).trans 0 0 .r 8192 = .error .translation ∧ (badPage fun e => { e with r := false }).trans 0 0 .r 5120 = .error .permission ∧
    (badPage fun e => { e with r2 := false }).trans 0 0 .r 5120 = .error .stage2 :=
  ⟨fun s h => ⟨ready_at (by revert s; decide), by revert s; decide, by unfold Iss.whole; revert s; decide⟩, by decide +kernel, by decide, by decide +kernel, err_of (by decide), err_of (by decide), err_of (by decide)⟩

theorem witness_LaneCopiesLeaveTheirOperation :
    ∀ i, i ∈ [Instr.cpaIn 7 96 100 0, .cpaOut 7 96 100 0] → Ready i mem0 (at_ i mem0) ∧ (at_ i mem0).g.ifc 1 < 1024 ∧ MissRoom (at_ i mem0) mem0 (lanesOf (at_ i mem0).act).length ∧
      LanesPass (at_ i mem0) mem0 16 .r ((at_ i mem0).addrM 0 16) (trs (at_ i mem0) mem0 .r ((at_ i mem0).addrM 0 16)) ∧
      LanesPass (at_ i mem0) mem0 16 .w ((at_ i mem0).addrM 0 16) (trs (at_ i mem0) mem0 .w ((at_ i mem0).addrM 0 16)) ∧
      ∀ l, l < 96 → (at_ i mem0).act.getLsbD l = true → ((at_ i mem0).g.code (at_ i mem0).d l).toNat % 16 = 0 ∧
        mem0.stashRef (at_ i mem0).t (at_ i mem0).T ((at_ i mem0).g.code (at_ i mem0).d l).toNat 16 = some (0, 0) :=
  fun i h => ⟨ready_at (by revert i; decide), by revert i; decide, by unfold MissRoom; revert i; decide +kernel, lanesPass_of (by revert i; decide +kernel), lanesPass_of (by revert i; decide +kernel), by revert i; decide +kernel⟩

/-- A prefetch of an unmapped line, of a mapped one by lane 0 alone, under cache policy 3 too, and of one whose home is not ready. -/
def pf1 (p : BitVec 2) : State := mem0.modGrp 0 0 fun g => { scal [(61, 1), (62, 0), (63, 0)] g with hints := { mod := if p = 0 then none else some 0x1800 }, hintPc := some 4096 }

theorem witness_PrefetchFillsTheL1 :
    (∃ x, Ready (.pf 7 96 0) boot x ∧ ∀ l, l < 96 → x.act.getLsbD l = true → boot.tablesReady x.core x.ctx (x.addrM 0 128 l) = true ∧ ∃ f, boot.trans x.core x.ctx .r (x.addrM 0 128 l) = .error f) ∧
    (∀ p, p ∈ [0, 3] → let s := pf1 p; let x := at_ (.pf 7 100 0) s
      Ready (.pf 7 100 0) s x ∧ x.act = (1 : LaneMask) <<< 0 ∧ x.addrM 0 128 0 = 5120 ∧ s.tablesReady x.core x.ctx 5120 = true ∧ s.takes 5120 = true ∧
      ∃ t, s.trans x.core x.ctx .r 5120 = .ok t ∧ t.pa = 5120 ∧ isHost t.pa = false ∧ s.ownerOf (lineOf t.pa) = none ∧ x.g.hints.policy = p ∧ s.setFull (lineOf t.pa) = false) ∧
    let s : State := { pf1 0 with ready := 0 }
    Ready (.pf 7 100 0) s (at_ (.pf 7 100 0) s) ∧ s.takes 5120 = false ∧ s.tablesReady 0 0 5120 = true :=
  ⟨⟨at_ (.pf 7 96 0) boot, ready_at (by decide), fun l hl _ => ⟨by revert l; decide +kernel, .translation, err_of (by revert l; decide +kernel)⟩⟩,
   fun p h => ⟨ready_at (by revert p; decide), by revert p; decide, by revert p; decide, by revert p; decide, by revert p; decide, _, ok_of tr0 (by revert p; decide), by revert p; decide, by revert p; decide,
     by revert p; decide, by revert p; decide, by revert p; decide⟩, ready_at (by decide), by decide, by decide⟩

/-! ## Witnesses: fences, waits, barriers, windows, caches -/

/-- A window of 1 KiB over the booted page, its first line dirty and owned. -/
def winS : State :=
  { bootT fun T => { T with wins := [(0, { base := 4096, off := 0, len := 1, lines := [(0, { pa := 32, dirty := true })] })] } with lines := [(32, { owner := some 0 })] }

theorem witness_FencesStandPending :
    (∀ s, s ∈ [boot, bootC] → ∀ i, i ∈ [Instr.fenceAcq 4, .fenceRel 0, .fenceAr 3, .fenceNs 1] → ∃ k, fenceOf i = some k ∧ Ready i s (at_ i s)) ∧
    ∃ x v, Ready (.fenceRel 4) winS x ∧ x.onCourier = false ∧ x.T.wins ≠ [] ∧ x.allPerformed winS = true ∧ (winS.winsOf x.t).any (winS.winHeld x.t) = false ∧ x.T.spoison = [] ∧ winS.flushWins x.t (winS.winsOf x.t) = .ok v :=
  ⟨fun s h i hi => meets (by revert s; decide) i hi, at_ (.fenceRel 4) winS, _, ready_at (by decide), by decide, by decide, by decide, by decide, by decide, ok_of State.reset (by decide)⟩

/-- Each wait with its condition true. -/
theorem witness_WaitsEnd :
    (∃ c f, waitOf (.wcnt 3 4) (at_ (.wcnt 3 4) boot) boot = some (c, f) ∧ Ready (.wcnt 3 4) boot (at_ (.wcnt 3 4) boot) ∧ MayWait (at_ (.wcnt 3 4) boot) boot ∧ c) ∧
    (∃ c f, waitOf (.sleep 4) (at_ (.sleep 4) boot) boot = some (c, f) ∧ Ready (.sleep 4) boot (at_ (.sleep 4) boot) ∧ MayWait (at_ (.sleep 4) boot) boot ∧ c) ∧
    (∃ c f, waitOf .wpred (at_ .wpred boot) boot = some (c, f) ∧ Ready .wpred boot (at_ .wpred boot) ∧ MayWait (at_ .wpred boot) boot ∧ c) ∧
    ∃ c f, waitOf .drain (at_ .drain boot) boot = some (c, f) ∧ Ready .drain boot (at_ .drain boot) ∧ MayWait (at_ .drain boot) boot ∧ c :=
  ⟨⟨_, _, rfl, ready_at (by decide), by unfold MayWait; decide, by decide⟩, ⟨_, _, rfl, ready_at (by decide), by unfold MayWait; decide, by decide⟩,
   ⟨_, _, rfl, ready_at (by decide), by unfold MayWait; decide, Or.inr fun l h => by
     have e : boot.launch (at_ .wpred boot).T.ctx (at_ .wpred boot).T.lid = none := by decide
     rw [e] at h; cases h⟩,
   _, _, rfl, ready_at (by decide), by unfold MayWait; decide, fun h => absurd h (by decide)⟩

/-- A counter above the bound; a sleep of five ticks; a launch behind another; a record in the hamper. -/
def countS : State := bootG fun g => { g with ifc3 := 1 }
def sleepS : State := bootG (scal [(4, 5)])
def behindS : State := { boot with launches := [{ ctx := 0, lid := 1, kobj := {}, waits := [7] }, { ctx := 0, lid := 2, kobj := {}, order := 7 }] }
def recordS : State := { detS with hamper := [{ ctx := 0, lid := 1, pa := 5120, k := .addF32, value := 0, teamn := 0, gint := 0, lane := 0, prog := 0, epoch := 0, team := 0, loc := .core 0 }] }

theorem witness_WaitsWait :
    (∃ c f, waitOf (.wcnt 3 4) (at_ (.wcnt 3 4) countS) countS = some (c, f) ∧ Ready (.wcnt 3 4) countS (at_ (.wcnt 3 4) countS) ∧ MayWait (at_ (.wcnt 3 4) countS) countS ∧ ¬ c) ∧
    (∃ c f, waitOf (.sleep 4) (at_ (.sleep 4) sleepS) sleepS = some (c, f) ∧ Ready (.sleep 4) sleepS (at_ (.sleep 4) sleepS) ∧ MayWait (at_ (.sleep 4) sleepS) sleepS ∧ ¬ c) ∧
    (∃ c f, waitOf .wpred (at_ .wpred behindS) behindS = some (c, f) ∧ Ready .wpred behindS (at_ .wpred behindS) ∧ MayWait (at_ .wpred behindS) behindS ∧ ¬ c) ∧
    ∃ c f, waitOf .drain (at_ .drain recordS) recordS = some (c, f) ∧ Ready .drain recordS (at_ .drain recordS) ∧ MayWait (at_ .drain recordS) recordS ∧ ¬ c :=
  ⟨⟨_, _, rfl, ready_at (by decide), by unfold MayWait; decide, by decide⟩, ⟨_, _, rfl, ready_at (by decide), by unfold MayWait; decide, by decide⟩,
   ⟨_, _, rfl, ready_at (by decide), by unfold MayWait; decide, fun h => by
     rcases h with h | h
     · exact absurd h (by decide)
     · exact h _ (show behindS.launch _ _ = some { ctx := 0, lid := 1, kobj := {}, waits := [7] } by decide) 7 (by decide) { ctx := 0, lid := 2, kobj := {}, order := 7 } (by decide) rfl⟩,
   _, _, rfl, ready_at (by decide), by unfold MayWait; decide, fun h => h (by decide) ⟨_, List.mem_singleton.mpr rfl, by decide, by decide, by decide⟩⟩

/-- The word at 5120 is 0: `wvalue` for 0, and for 1; the same wait whose word a write has shown at 1; and no active lane. -/
def shownS : State :=
  { bootG fun g => { scal [(4, 5120), (6, 1)] g with waits := [{ pc := 4096, start := 0 }] } with watches := [{ who := .grp 0 0, pc := 4096, pa := 5120, want := 1, seen := true }] }

theorem witness_WvalueWaitsForItsWord :
    (∀ s, s ∈ [mem0, bootG (scal [(4, 5120), (6, 1)]), shownS] → let x := at_ (.wvalue 8 4 6) s
      Ready (.wvalue 8 4 6) s x ∧ MayWait x s ∧ x.act ≠ 0 ∧ (x.g.spair x.a).toNat = 5120 ∧
      s.tablesReady x.core x.ctx 5120 = true ∧
      (∃ t, s.trans x.core x.ctx .r 5120 = .ok t ∧ x.earlierPend s 5120 4 = false ∧ s.takes t.pa = true ∧ s.poisonedAt t.pa = false ∧ leNat (s.cohRead t.pa 4) = 0) ∧
      (s ≠ shownS → x.wait? s = none)) ∧
    (let x := at_ (.wvalue 8 4 6) shownS; (x.wait? shownS).isSome = true ∧ ∃ w, x.watch? shownS = some w ∧ w.pa = 5120 ∧ w.want = x.g.sreg x.b ∧ w.seen = true) ∧
    ∃ x, let s := bootG (scal [(61, 0), (62, 0), (63, 0)]); Ready (.wvalue 8 4 6) s x ∧ MayWait x s ∧ x.act = 0 :=
  ⟨fun s h => ⟨ready_at (by revert s; decide), by unfold MayWait; revert s; decide, by revert s; decide, by revert s; decide,
    by revert s; decide, ⟨_, ok_of tr0 (by revert s; decide), by revert s; decide, by revert s; decide, by revert s; decide, by revert s; decide⟩, by revert s; decide⟩, ⟨by decide, _, rfl, by decide, by decide, by decide⟩,
    at_ (.wvalue 8 4 6) _, ready_at (by decide), by unfold MayWait; decide, by decide⟩

/-- A group alone, which the barrier lets go on, and one of two, which it does not. -/
theorem witness_BarriersOpenForTheLast :
    (∀ i, i ∈ [Instr.tbar, .cbar, .gsync] → ∃ n, barSpan i = some n ∧ Ready i boot (at_ i boot)) ∧
    (∀ n, n ∈ [1, 2] → let x := at_ .tbar boot; Arrives x boot n ∧ (arrivedState x boot n).spanReady x.t x.T n = true) ∧
    (let x := at_ .gsync boot; MayWait x boot ∧ Arrives x boot 3 ∧ x.T.kobj.mode ≠ 2) ∧
    Ready .tbar bootTwo (at_ .tbar bootTwo) ∧ (let x := at_ .tbar bootTwo; MayWait x bootTwo ∧ Arrives x bootTwo 1 ∧ (arrivedState x bootTwo 1).spanReady x.t x.T 1 = false) := by
  refine ⟨meets (by decide), ?_, ⟨by unfold MayWait; decide, Or.inr ⟨by decide, by decide, fun _ h => absurd h (by decide)⟩, by decide⟩, ready_at (by decide),
    by unfold MayWait; decide, Or.inr ⟨by decide, by decide, fun h => absurd h (by decide)⟩, by decide⟩
  intro n h
  simp only [List.mem_cons, List.not_mem_nil, or_false] at h
  rcases h with rfl | rfl
  · exact ⟨Or.inr ⟨by decide, by decide, fun h => absurd h (by decide)⟩, by decide⟩
  · exact ⟨Or.inr ⟨by decide, by decide, fun h => absurd h (by decide)⟩, by decide⟩

/-- A live object of quotas 2 and 0 at offset 0, one arrival in; the stash address in `s6`, the operand in `s7`. -/
def objS (v : Word) : State := bootT fun T =>
  { T with stash := writeBytes [] 0 (objBytes 2 1 0 0 0 0), bars := [(0, 1)], gens := [(0, 1)], groups := T.groups.map fun e => (e.1, scal [(7, v)] e.2) }

/-- Every clause of `bini`: no multiple of 16, past the stash, another name for it, inside a window, destroyed, live, without quota, made. -/
theorem witness_BiniIsReady :
    ∀ s, s ∈ [bootG (scal [(6, 8)]), bootG (scal [(6, 4096)]), bootG (scal [(6, 0x100000)]), winS, objS 0, objS 5, bootG (scal [(7, 0x10000)]), bootG (scal [(7, 0xFFFFFFFF)])] →
      Ready (.bini 6 7) s (at_ (.bini 6 7) s) ∧ (at_ (.bini 6 7) s).act ≠ 0 :=
  fun s h => ⟨ready_at (by revert s; decide), by revert s; decide⟩

/-- Without an active lane: an operand that fails its check, and one that does not. -/
theorem witness_BiniChecksItsOperand :
    ∀ v, v ∈ [0x10000, 0, 5] → let s := bootG (scal [(61, 0), (62, 0), (63, 0), (7, BitVec.ofNat 32 v)])
      Ready (.bini 6 7) s (at_ (.bini 6 7) s) ∧ (at_ (.bini 6 7) s).act = 0 ∧ ((at_ (.bini 6 7) s).g.sreg (at_ (.bini 6 7) s).b).toNat = v :=
  fun v h => ⟨ready_at (by revert v; decide), by revert v; decide, by revert v; decide⟩

theorem witness_BiniMakesOrDestroysAnObject :
    (let s := bootG (scal [(6, 4096)]); s.stashRef 0 (at_ (.bini 6 7) s).T 4096 16 = none) ∧
    (let s := bootG (scal [(6, 0x100000)]); s.stashRef 0 (at_ (.bini 6 7) s).T 0x100000 16 = some (0, 0)) ∧
    ((at_ (.bini 6 7) winS).T.winAt 0).isSome = true ∧ liveAt (objS 5) 0 0 = some 1 ∧
    ((objS 0).barWaiters 0 (fun n => decide (n = 0)) = [] ∧ ∀ e, e ∈ (objS 0).teams → e.2.ending = none) ∧
    (let s := bootG (scal [(7, 0xFFFFFFFF)]); s.stashRef 0 (at_ (.bini 6 7) s).T 0 16 = some (0, 0) ∧ (at_ (.bini 6 7) s).T.winAt 0 = none ∧ liveAt s 0 0 = none ∧ s.stashBefore (at_ (.bini 6 7) s).owner s.nextOp [0] = false) :=
  ⟨by decide, by decide, by decide, by decide, by decide, by decide⟩

/-- `barr` of the last arrival and of one too many, `bexp` to the limit and past it, and an object that is not live. -/
theorem witness_BarrAndBexpCount :
    (∀ s, s ∈ [objS 1, objS 2, objS 0xFFFFFF, objS 0x1000000, boot] → Ready (.barr 6 7) s (at_ (.barr 6 7) s) ∧ Ready (.bexp 6 7) s (at_ (.bexp 6 7) s) ∧ (at_ (.barr 6 7) s).act ≠ 0 ∧ (at_ (.bexp 6 7) s).act ≠ 0 ∧
      s.stashRef (at_ (.barr 6 7) s).t (at_ (.barr 6 7) s).T ((at_ (.barr 6 7) s).g.sreg 6).toNat 16 = some (0, 0) ∧ s.doneBefore (at_ (.barr 6 7) s).owner s.nextOp 1 = true ∧
      s.stashBefore (at_ (.bexp 6 7) s).owner s.nextOp [((at_ (.bexp 6 7) s).g.sreg 6).toNat] = false) ∧
    (∀ v, IsObj (objAt (objS v) 0 0) 2 1 0 0 0 0) ∧ (∀ v, liveAt (objS v) 0 0 ≠ none) ∧ liveAt boot 0 0 = none :=
  ⟨fun s h => ⟨ready_at (by revert s; decide), ready_at (by revert s; decide), by revert s; decide, by revert s; decide, by revert s; decide, by revert s; decide, by revert s; decide⟩,
   fun v => ⟨rfl, by decide, by decide, by decide, by decide, by decide, by decide⟩, fun v => (by intro h; cases h), by decide⟩

/-- The turn differs, it does not, and the object is gone. -/
theorem witness_BwaitWaitsForTheTurn :
    (∀ s, s ∈ [objS 1, objS 0, boot] → let x := at_ (.bwait 6 7) s
      Ready (.bwait 6 7) s x ∧ MayWait x s ∧ x.act ≠ 0 ∧ s.stashRef x.t x.T (x.g.sreg 6).toNat 16 = some (0, 0)) ∧
    liveAt boot 0 0 = none ∧
    (∀ n : Nat, n ∈ [0, 1] → let s := objS (BitVec.ofNat 32 n); BitVec.ofNat 16 (leNat (((objAt s 0 0).drop 6).take 2)) = ((at_ (.bwait 6 7) s).g.sreg 7).extractLsb' 0 16 ↔ n = 0) :=
  ⟨fun s h => ⟨ready_at (by revert s; decide), by unfold MayWait; revert s; decide, by revert s; decide, by revert s; decide⟩, by decide, by decide⟩

/-- `stmap` of one KiB; `stflush` and `stunmap` of a window with a dirty line, and of none. -/
def mapS : State := bootG (scal [(4, 4096), (6, 0x10000)])

theorem witness_WindowsAreMappedAndFlushed :
    (∃ x, Ready (.stmap 8 4 6) mapS x ∧ x.T.windowBad 4096 0 1 = false ∧ mapS.vaTables x.core x.ctx .r 4096 1024 = true ∧ mapS.checkLocal x.core x.ctx .r 4096 1024 = .ok () ∧ Tab.find x.T.wins 0 = none) ∧
    (∀ i, i ∈ [Instr.stflush 6, .stunmap 6] → Ready i boot (at_ i boot) ∧ Tab.find (at_ i boot).T.wins 0 = none) ∧
    ∀ i, i ∈ [Instr.stflush 6, .stunmap 6] → Ready i winS (at_ i winS) ∧ Tab.find (at_ i winS).T.wins 0 ≠ none ∧ (at_ i winS).allPerformed winS = true ∧ winS.winHeld (at_ i winS).t 0 = false ∧ (at_ i winS).T.spoison = [] ∧
      ∃ v, winS.flushWin (at_ i winS).t 0 = .ok v :=
  ⟨⟨at_ (.stmap 8 4 6) mapS, ready_at (by decide), by decide, by decide, ok_of () (by decide), by decide⟩, fun i h => ⟨ready_at (by revert i; decide), by revert i; decide⟩,
   fun i h => ⟨ready_at (by revert i; decide), by revert i; decide, by revert i; decide, by revert i; decide, by revert i; decide, _, ok_of State.reset (by revert i; decide)⟩⟩

/-- Two lines of the booted page for `cflush` and `cinv`; the kinds of `tlbinv`, an unaligned page, and an unprivileged context. -/
def rangeS : State := bootG (scal [(4, 5120), (6, 200)])

theorem witness_CachesAndTlbsDrop :
    (∃ x v, Ready (.cflush 4 6) rangeS x ∧ rangeS.vaReady x.core x.ctx .r 5120 200 = true ∧ rangeS.checkVA x.core x.ctx .r 5120 200 = .ok () ∧ x.allPerformed rangeS = true ∧ rangeS.rangeHeld x.core x.ctx (linesOver 5120 200) = false ∧ rangeS.flushLines x.core x.ctx (linesOver 5120 200) = .ok v) ∧
    (∃ x, Ready (.cinv 4 6) rangeS x ∧ rangeS.vaReady x.core x.ctx .r 5120 200 = true ∧ rangeS.checkVA x.core x.ctx .r 5120 200 = .ok ()) ∧
    ∀ s, s ∈ [rangeS, bootG (scal [(4, 1), (6, 2)]), (bootG (scal [(6, 3)])).modCtx 0 (fun c => { c with priv := false }), bootG (scal [(6, 3)]), boot] → Ready (.tlbinv 4 6) s (at_ (.tlbinv 4 6) s) :=
  ⟨⟨at_ (.cflush 4 6) rangeS, _, ready_at (by decide), by decide, ok_of () (by decide), by decide, by decide, ok_of State.reset (by decide)⟩, ⟨at_ (.cinv 4 6) rangeS, ready_at (by decide), by decide, ok_of () (by decide)⟩,
   fun s h => ready_at (by revert s; decide)⟩

/-! ## Witnesses: engines, launches, special registers -/

/-- The booted page with bytes at an address, also for the devices' own accesses. -/
def withBytes (s : State) (pa : Nat) (b : List Byte) : State :=
  ({ s with mem := writeBytes s.mem pa b } : State).modCore ioCore fun c => { c with tlb := [bootTlb] }

/-- Operands of `mma` in the booted page: every row at 4096. -/
def mmaW : Instr := .mma 0 8 12 0 0 0 0 0
def mmaG : Grp → Grp := scal [(8, 4096), (12, 4096)]
def mmaS : State := bootG mmaG
def rowAt0 (i : Nat) : Nat := rowName false 4096 0 i

theorem row0 (i : Nat) : rowName false 4096 0 i = 4096 := by simp [rowName]

/-- A party of two, alone at the latch and with the other member there. -/
def partyS : State := (bootTwo.modGrp 0 0 fun g => { mmaG g with members := 3 }).modGrp 0 1 fun g => { mmaG g with members := 3 }
def musteredS : State := partyS.modGrp 0 1 fun g => { g with muster := some { pc := 4096, num := 0, op := (at_ mmaW partyS).matOp false 0 8 12 0 0 0 0 0 } }
def latched (s : State) : State :=
  let x := at_ mmaW s
  (x.stall s).modGrp x.t x.k fun g => { g with muster := some { pc := x.pc, num := x.g.nextop, op := x.matOp false 0 8 12 0 0 0 0 0 } }

theorem witness_MmaIssuesItsOperation :
    (∀ s, s ∈ [bootG fun g => { g with bops := 256 }, bootG (scal [(8, 1)]), mmaS, partyS, musteredS] → Ready mmaW s (at_ mmaW s)) ∧
    ¬ MmaAligned (at_ mmaW (bootG (scal [(8, 1)]))) 8 12 ∧ MmaAligned (at_ mmaW mmaS) 8 12 ∧
    (∀ n, RowAt (at_ mmaW mmaS) mmaS false (rowName false ((at_ mmaW mmaS).matOp false 0 8 12 0 0 0 0 0).abase ((at_ mmaW mmaS).matOp false 0 8 12 0 0 0 0 0).apitch n) 4096) ∧
    (let x := at_ mmaW partyS; x.partyBad = false ∧ (partyOf x.g.members).length = 2 ∧ x.g.muster = none ∧ (latched partyS).mustered x.t x.g.nextop (partyOf x.g.members) = none) ∧
    (let x := at_ mmaW musteredS; x.partyBad = false ∧ x.g.muster = none ∧ (∀ e, e ∈ x.T.groups → e.2.run ≠ .ended) ∧
      ∃ l, (latched musteredS).mustered x.t x.g.nextop (partyOf x.g.members) = some l ∧ l.length = 2 ∧ (∀ e, e ∈ l → ∀ f, f ∈ l → e.2.op.differs f.2.op = false) ∧
        ∀ e, e ∈ l → okB ((latched musteredS).matCheck x.t x.T e.2.op) = true) := by
  refine ⟨fun s h => ready_at (by revert s; decide), by unfold MmaAligned; decide, by unfold MmaAligned; decide, fun n => ?_, by decide,
    by decide, by decide, by decide, _, Option.eq_some_of_isSome (by decide), by decide, by decide, by decide +kernel⟩
  have e : ((at_ mmaW mmaS).matOp false 0 8 12 0 0 0 0 0).abase = 4096 := by decide
  have f : ((at_ mmaW mmaS).matOp false 0 8 12 0 0 0 0 0).apitch = 0 := by decide
  rw [e, f, row0]
  exact ⟨by decide, _, ok_of tr0 (by decide), by decide, by decide⟩

/-- A deferred fault, sixteen closed batches, and an open one; a number that was never a batch, one that is too old, a closed one and a drained one. -/
def deferS : State := bootG fun g => { g with defer := some { code := .align, faux := 0, faddr := 0 } }
def closedS (n : Nat) (open_ : BitVec 16) : State := bootG fun g => { g with closed := (List.range n).map fun i => BitVec.ofNat 16 i, bopen := open_ }

theorem witness_BatchesCloseAndDrain :
    (∀ s, s ∈ [deferS, closedS 16 16, closedS 15 15, boot, closedS 0 1, closedS 0 32768, closedS 0 32769, closedS 1 1] →
      Ready (.mfence 63) s (at_ (.mfence 63) s) ∧ Ready (.mwait 4) s (at_ (.mwait 4) s) ∧ MayWait (at_ (.mwait 4) s) s) ∧
    (at_ (.mwait 4) deferS).g.defer ≠ none ∧ (at_ (.mfence 63) (closedS 16 16)).g.closed.length = 16 ∧
    (∀ s b, (s, b) ∈ [(boot, 0), (closedS 0 1, 1), (closedS 0 32768, 32768), (closedS 0 32769, 32769)] → ((at_ (.mwait 4) s).g.bopen - ((at_ (.mwait 4) s).g.sreg 4).extractLsb' 0 16).toNat = b) ∧
    (0 : BitVec 16) ∈ (at_ (.mwait 4) (closedS 1 1)).g.closed ∧ (0 : BitVec 16) ∉ (at_ (.mwait 4) (closedS 0 1)).g.closed :=
  ⟨fun s h => ⟨ready_at (by revert s; decide), ready_at (by revert s; decide), by unfold MayWait; revert s; decide⟩, by decide, by decide, by
    intro s b h
    simp only [List.mem_cons, Prod.mk.injEq, List.not_mem_nil, or_false] at h
    rcases h with ⟨rfl, rfl⟩ | ⟨rfl, rfl⟩ | ⟨rfl, rfl⟩ | ⟨rfl, rfl⟩ <;> decide, by decide, by decide⟩

/-- A record of `n` bytes at an address that a word reads. -/
def readsB (x : Iss) (s : State) (va n : Nat) : Bool := s.vaReady x.core x.ctx .r va n && !x.earlierPend s va n && okB (s.readClean x.core x.ctx va n)

def recordOf (s : State) (va n : Nat) : List Byte := valOf [] (s.readClean 0 0 va n)

theorem reads_of {x : Iss} {s : State} {va n : Nat} (h : readsB x s va n = true) (c : x.core = 0 ∧ x.ctx = 0) : ReadsRecord x s va n (recordOf s va n) := by
  unfold readsB at h
  simp only [Bool.and_eq_true, Bool.not_eq_true'] at h
  obtain ⟨⟨a, b⟩, d⟩ := h
  refine ⟨a, b, ?_⟩
  have e := ok_of [] d
  rw [c.1, c.2] at e ⊢
  exact e

/-- A multicast descriptor: group 0, depth 2, the team's own rank alone, slots of 1 KiB from offset 0, status at 2048, no barrier. -/
def mcDesc : List Byte := leBytes 1 0 ++ leBytes 1 2 ++ leBytes 2 1 ++ leBytes 4 1 ++ leBytes 4 0 ++ leBytes 4 1024 ++ leBytes 4 2048 ++ leBytes 4 0xFFFFFFFF ++ zeros 8
def mcS : State := withBytes (bootG (scal [(4, 5120)])) 5120 mcDesc
def mcEntry (mask : Nat) (deliv : Bool) (m : Tab McMember) : McEntry :=
  { ctx := 0, lid := 1, cluster := 0, g := 0, mask := mask, timer := 1, slot := 1024, deliv := deliv, members := m }
def mcMem : McMember := { team := 0, stashid := 0, ring := 0, depth := 2, stat := 2048, bar := none }

/-- A bad descriptor (zeros); an entry of the team's own, of another shape, delivering already, and open to it; no entry, with a free one and with none. -/
theorem witness_McjoinGivesItsStatus :
    (∀ s, s ∈ [mem0, mcS, { mcS with mcast := [(0, mcEntry 1 false [(0, mcMem)])] }, { mcS with mcast := [(0, mcEntry 3 false [])] }, { mcS with mcast := [(0, mcEntry 1 true [])] },
        { mcS with mcast := [(0, mcEntry 1 false [])] }] → Ready (.mcjoin 8 4) s (at_ (.mcjoin 8 4) s) ∧ (at_ (.mcjoin 8 4) s).act ≠ 0 ∧
        ((at_ (.mcjoin 8 4) s).g.spair 4).toNat = 5120 ∧ ReadsRecord (at_ (.mcjoin 8 4) s) s 5120 32 (recordOf s 5120 32)) ∧
    (at_ (.mcjoin 8 4) mem0).T.mcBad (recordOf mem0 5120 32) = true ∧ (at_ (.mcjoin 8 4) mcS).T.mcBad (recordOf mcS 5120 32) = false ∧
    mcS.mcFind (at_ (.mcjoin 8 4) mcS).T 0 = none ∧ mcS.mcFree 0 = some 0 ∧
    ({ mcS with mcast := (List.range 256).map fun k => (k, { mcEntry 1 false [] with g := 1 }) } : State).mcFree 0 = none ∧
    (∀ e, e ∈ [mcEntry 1 false [(0, mcMem)], mcEntry 3 false [], mcEntry 1 true [], mcEntry 1 false []] →
      ({ mcS with mcast := [(0, e)] } : State).mcFind (at_ (.mcjoin 8 4) mcS).T 0 = some (0, e)) :=
  ⟨fun s h => ⟨ready_at (by revert s; decide), by revert s; decide, by revert s; decide, reads_of (by revert s; decide) (by revert s; decide)⟩, by decide, by decide, by decide, by decide, by decide +kernel, by decide⟩

/-- A member, its sequence open and released, its slot full and empty, and a team that is none. -/
def memberS (e : McEntry) (l : List (Nat × Word)) : State := { bootG (scal l) with mcast := [(0, e)] }
def openE : McEntry := mcEntry 1 false [(0, mcMem)]
def pastE : McEntry := { openE with released := 1 }
def fullS : State := (memberS openE []).modTeam 0 fun T => { T with stash := writeBytes [] 2048 (leBytes 4 1) }

theorem witness_MulticastMembersRequestReleaseAndLeave :
    (∀ i, i ∈ [Instr.mcload 4 8, .mcrel 8 9, .mcleave 8] → Ready i boot (at_ i boot) ∧ boot.mcMember (at_ i boot).t (at_ i boot).T 0 = none) ∧
    (∀ s, s ∈ [memberS openE [(4, 5120), (6, 64)], memberS pastE [(4, 5120), (6, 64)]] → Ready (.mcload 4 8) s (at_ (.mcload 4 8) s) ∧ (at_ (.mcload 4 8) s).act ≠ 0 ∧
      s.vaTables (at_ (.mcload 4 8) s).core 0 .r 5120 64 = true ∧ s.checkLocal (at_ (.mcload 4 8) s).core 0 .r 5120 64 = .ok ()) ∧
    (at_ (.mcload 4 8) (memberS openE [])).g.ifc2 < 1024 ∧ openE.past 0 0 = false ∧ pastE.past 0 0 = true ∧ openE.seqs.length < 32 ∧ ((memberS pastE [(4, 5120), (6, 64)]).readyStash 0 2048 8).isSome = true ∧
    (∀ s, s ∈ [memberS openE [], fullS] → Ready (.mcrel 8 9) s (at_ (.mcrel 8 9) s) ∧ Ready (.mcleave 8) s (at_ (.mcleave 8) s) ∧ (at_ (.mcrel 8 9) s).act ≠ 0 ∧
      s.mcMember (at_ (.mcrel 8 9) s).t (at_ (.mcrel 8 9) s).T 0 = some (0, openE, mcMem) ∧ Tab.find s.mcast 0 = some openE ∧ s.touchStash 0 2048 8 = some s ∧
      (s.markStash 0 2048 8).stashMayDirty 0 2048 8 = true) ∧ mcMem.lastAt = none ∧
    fieldOf (fullS.locRead (.st 0 2048) 8) 0 4 = 1 ∧ fieldOf ((memberS openE []).locRead (.st 0 2048) 8) 0 4 = 0 :=
  ⟨fun i h => ⟨ready_at (by revert i; decide), by revert i; decide⟩, fun s h => ⟨ready_at (by revert s; decide), by revert s; decide, by revert s; decide, ok_of () (by revert s; decide)⟩,
   by decide, by decide, by decide, by decide, by decide,
   fun s h => ⟨ready_at (by revert s; decide), ready_at (by revert s; decide), by revert s; decide, by revert s; decide, by revert s; decide, by revert s; decide, by revert s; decide⟩, rfl, by decide, by decide⟩

/-- `mcload` and `mcrel` of a member without an active lane. -/
theorem witness_MulticastWordsWithoutALane :
    ∀ i, i ∈ [Instr.mcload 4 8, .mcrel 8 9] → let s := memberS openE [(6, 64), (61, 0), (62, 0), (63, 0)]
      Ready i s (at_ i s) ∧ (at_ i s).act = 0 ∧ s.mcMember (at_ i s).t (at_ i s).T 0 = some (0, openE, mcMem) ∧ (at_ i s).g.sreg 6 = 64 ∧ (at_ i s).g.sreg 7 = 0 ∧ (at_ i s).g.sreg 8 = 0 ∧ (at_ i s).g.sreg 9 = 0 :=
  fun i h => ⟨ready_at (by revert i; decide), by revert i; decide, by revert i; decide, by revert i; decide, by revert i; decide, by revert i; decide, by revert i; decide⟩

/-- Copies from a good descriptor (zeros), one with a non-zero field that must be zero, and one not aligned; a ring that fits and one that does not. -/
def courS (l : List (Nat × Word)) : State := bootC.modCore 0 fun c => { c with courier := c.courier.map fun y => { y with s := l.foldl (fun t e => Tab.set 0 t e.1 e.2) y.s } }
def badDescS : State := withBytes (courS [(4, 5120)]) 5164 [1]

theorem witness_CourierCopiesAndRing :
    (∀ s, s ∈ [courS [(4, 5120)], badDescS, courS [(4, 5121)]] → ∀ i, i ∈ [Instr.bcopy 4, .bfill 4] → Ready i s (at_ i s)) ∧
    (∀ s, s ∈ [courS [(4, 5120)], badDescS] → ∀ i, i ∈ [Instr.bcopy 4, .bfill 4] → ReadsRecord (at_ i s) s 5120 64 (recordOf s 5120 64) ∧
      (s = badDescS ∨ fieldOf (recordOf s 5120 64) 44 4 = 0) ∧ fieldOf (recordOf s 5120 64) 60 2 < 16) ∧ fieldOf (recordOf badDescS 5120 64) 44 4 ≠ 0 ∧
    (∀ s, s ∈ [courS [(4, 32), (6, 64)], courS [(4, 32), (6, 1048576)], courS [(4, 32), (6, 32)], courS [(4, 16), (6, 64)]] → Ready (.cring 4 6) s (at_ (.cring 4 6) s)) ∧
    (∀ i, i ∈ [Instr.bcopy 4, .bfill 4, .cring 4 6] → boot.stand (form i) = .ok (at_ i boot) ∧ (at_ i boot).onCourier = false) ∧ RingSize 64 ∧ RingSize 1048576 ∧ ¬ RingSize 32 :=
  ⟨fun s h i hi => ready_at (by revert i; revert s; decide),
   fun s h i hi => ⟨reads_of (by revert i; revert s; decide) (by revert i; revert s; decide), by revert s; decide, by revert s; decide⟩, by decide, fun s h => ready_at (by revert s; decide), fun i h => ⟨stand_at (by revert i; decide), by revert i; decide⟩,
   ⟨0, by decide, by decide⟩, ⟨14, by decide, by decide⟩, by
    rintro ⟨i, _, h⟩
    have : 2 ^ 6 ≤ 2 ^ (6 + i) := Nat.pow_le_pow_right (by decide) (by omega)
    omega⟩

/-- A pair descriptor at 5120 that is good, one that is not (zeros), one not aligned; emission by lanes that have not emitted and by lanes that have, and by none. -/
def pairS : State := withBytes (bootG (scal [(4, 5120)])) 5120 (desc 0x08 1)
def emittedS : State := (bootPair 0x08 1).modGrp 0 0 fun g => { g with emitted := 1 }

theorem witness_PairWordsLaunchEmitAndFinish :
    (∀ s, s ∈ [bootG (scal [(4, 5121)]), mem0, pairS, bootG (scal [(61, 0), (62, 0), (63, 0)])] → ∀ i, i ∈ [Instr.plaunch 8 4, .pfin 4] → Ready i s (at_ i s) ∧
      ((at_ i s).act = 0 ↔ ((at_ i s).g.spair 4).toNat = 0)) ∧
    (∀ s, s ∈ [mem0, pairS] → ∀ i, i ∈ [Instr.plaunch 8 4, .pfin 4] → ReadsRecord (at_ i s) s 5120 256 (recordOf s 5120 256)) ∧ (pairBad (recordOf mem0 5120 256)).isSome = true ∧
    (recordOf pairS 5120 256 = desc 0x08 1 ∧ pairBad (desc 0x08 1) = none ∧ pairS.doneBefore (at_ (.plaunch 8 4) pairS).owner pairS.nextOp 3 = true ∧ pairS.pairLaunches = []) ∧
    (let s := recordRead (at_ (.pfin 4) pairS) pairS 5120 256
     let w := s.outMark 0 0 6400 8
     pairSlots (desc 0x08 1) * pairK (desc 0x08 1) = 2 ∧ s.vaReady 0 0 .r 6144 32 = true ∧ s.vaTables 0 0 .w 6400 8 = true ∧ s.checkLocal 0 0 .r 6144 32 = .ok () ∧ s.checkLocal 0 0 .w 6400 8 = .ok () ∧ w.outReady 0 0 6400 8 = true ∧
      ∃ v, (w.countVA 0 0 .r 6144 32).finAll 0 0 (desc 0x08 1) (List.range 2) = (v, [])) :=
  ⟨fun s h i hi => ⟨ready_at (by revert i; revert s; decide), by revert i; revert s; decide⟩, fun s h i hi => reads_of (by revert i; revert s; decide +kernel) (by revert i; revert s; decide), by decide +kernel,
   ⟨by decide +kernel, by decide +kernel, by decide, by decide⟩,
   by decide +kernel, by decide, by decide, ok_of () (by decide), ok_of () (by decide), by decide +kernel, _, Prod.ext rfl (by decide +kernel)⟩

theorem witness_PairEmission :
    (∀ i, i ∈ [Instr.pemitSym 7 0, .pemitOne 7 0, .pemitTwo 7 0] → ∀ s, s ∈ [bootPair 0x08 1, emittedS] → (∃ e, emitOf i = some e ∧ Ready i s (at_ i s)) ∧ (at_ i s).T.kind = .pair ∧
      (at_ i s).whole s ∧ s.pairLaunch 0 1 = some (pairOf 0x08 1) ∧ (at_ i s).g.hints = {} ∧ (at_ i s).a + 1 < (at_ i s).T.kobj.regs ∧ (at_ i s).g.ifc3 < 1024 ∧ s.racesOf 0 1 = [] ∧
      s.missesOf (at_ i s).core = 0) ∧ pairK (desc 0x08 1) = 1 ∧
    (at_ (.pemitSym 7 0) emittedS).act.getLsbD 0 = true ∧ (at_ (.pemitSym 7 0) emittedS).g.emitted.getLsbD 0 = true ∧ (at_ (.pemitSym 7 0) (bootPair 0x08 1)).g.emitted = 0 ∧
    (at_ (.pemitSym 0 0) (bootPair 0x08 1)).additions (desc 0x08 1) false false (fun _ => false) 0 0 = [] ∧ ((at_ (.pemitSym 7 0) (bootPair 0x08 1)).additions (desc 0x08 1) false false (fun _ => false) 0 0).isEmpty = false :=
  ⟨fun i hi s hs => ⟨meets (l := [Instr.pemitSym 7 0, .pemitOne 7 0, .pemitTwo 7 0]) (by revert s; decide) i hi, by revert i; revert s; decide, by unfold Iss.whole; revert i; revert s; decide,
    by revert s; decide +kernel, by revert i; revert s; decide, by revert i; revert s; decide, by revert i; revert s; decide, by revert s; decide, by revert i; revert s; decide⟩, by decide, by decide, by decide, by decide, by decide +kernel, by decide +kernel⟩

/-- A slot of the context; a task that its shadow beats, one that it does not, and a block of a slot that is not the context's. -/
def slotS (l : List (Nat × Word)) : State := { bootG (scal l) with slots := [(0, { owned := true })] }
def taskS (b : DWord) : State := { bootT fun T => { T with kind := .task, groups := T.groups.map fun e => (e.1, { e.2 with tbound := b }) } with slots := [(0, { owned := true })] }

theorem witness_TasksSpawnAndDie :
    (∀ s, s ∈ [boot, slotS [(10, 5)], slotS [], taskS 5] → Ready (.tspawn 0) s (at_ (.tspawn 0) s)) ∧ ¬ OwnsSlot boot 0 0 ∧ OwnsSlot (slotS []) 0 0 ∧
    worse false 5 0 = true ∧ worse false 0 0 = false ∧ Ready .tchk (taskS 5) (at_ .tchk (taskS 5)) ∧ Ready .tchk (taskS 0) (at_ .tchk (taskS 0)) ∧
    (at_ .tchk (taskS 5)).T.kind = .task ∧ (at_ .tchk (taskS 5)).g.tbound = 5 :=
  ⟨fun s h => ready_at (by revert s; decide), by unfold OwnsSlot; decide, by unfold OwnsSlot; decide, by decide, by decide, ready_at (by decide), ready_at (by decide), by decide, by decide⟩

theorem witness_IncumbentRequestsLeave :
    ∀ s, s ∈ [boot, slotS []] → ∀ i, i ∈ [Instr.imprv 20 4 8, .incrd 20 8] → Ready i s (at_ i s) ∧ s.doneBefore (at_ i s).owner s.nextOp 3 = true :=
  fun s h i hi => ⟨ready_at (by revert i; revert s; decide), by revert i; revert s; decide⟩

/-- `succ` of a team once and again; a launch record (zeros) for queue 0 of another context, of a queue that is off, and of one that is on; a child of a new grid and
of an open one. -/
def queueS (q : Queue) : State := { mem0 with queues := [(0, q)] }
def onQueue : Queue := { ring := 4096, taila := 4864, enable := true }
def kobjBytes : List Byte := leBytes 8 4096 ++ zeros 8 ++ leBytes 1 96 ++ leBytes 1 1 ++ leBytes 1 1 ++ leBytes 1 1 ++ zeros 44
def childS (g : List OpenGrid) : State :=
  ({ withBytes (withBytes mem0 5120 (leBytes 8 5376)) 5376 kobjBytes with grids := [(0, g)] } : State).modCtx 0 fun c => { c with child := 4096, childl := 1024 }
def openGrid : OpenGrid := { ctx := 0, kaddr := 5376, kobj := {}, children := [], first := 0 }

def launchRead (q : Queue) : State := recordRead (at_ (.launch 4) (queueS q)) (queueS q) 5120 64
def childRead (g : List OpenGrid) : State := recordRead (at_ (.claunch 4) (childS g)) (childS g) 5120 64

theorem witness_LaunchWordsEnterTheirRecord :
    (∀ s, s ∈ [boot, bootT fun T => { T with succ := true }] → Ready .succ s (at_ .succ s)) ∧
    (∀ i, i ∈ [Instr.launch 4, .claunch 4] → ∀ s, s ∈ [bootG (scal [(4, 1)]), bootG (scal [(61, 0), (62, 0), (63, 0)])] → Ready i s (at_ i s) ∧ ((at_ i s).act = 0 ↔ ((at_ i s).g.spair 4).toNat = 0)) ∧
    (∀ s, s ∈ [queueS { ctx := 1 }, queueS {}, queueS { onQueue with stopped := true }, queueS { onQueue with ring := 8192 }, queueS { onQueue with taila := 8192 }, queueS onQueue] →
      Ready (.launch 4) s (at_ (.launch 4) s) ∧ (at_ (.launch 4) s).act ≠ 0 ∧ ReadsRecord (at_ (.launch 4) s) s 5120 64 (recordOf s 5120 64) ∧ fieldOf (recordOf s 5120 64) 59 1 = 0 ∧
      s.doneBefore (at_ (.launch 4) s).owner s.nextOp 3 = true) ∧
    (let s := launchRead { onQueue with ring := 8192 }
     s.vaTables 0 0 .w 8192 64 = true ∧ s.vaTables 0 0 .w 4864 8 = true ∧ s.checkVA 0 0 .w 8192 64 = .error (.translation, 8192)) ∧
    (let s := launchRead { onQueue with taila := 8192 }
     s.vaTables 0 0 .w 4096 64 = true ∧ s.vaTables 0 0 .w 8192 8 = true ∧ s.checkVA 0 0 .w 4096 64 = .ok () ∧ s.checkVA 0 0 .w 8192 8 = .error (.translation, 8192)) ∧
    (let s := launchRead onQueue
     s.vaTables 0 0 .w (onQueue.recordAddr 0) 64 = true ∧ s.vaTables 0 0 .w 4864 8 = true ∧ s.checkVA 0 0 .w (onQueue.recordAddr 0) 64 = .ok () ∧ s.checkVA 0 0 .w 4864 8 = .ok () ∧
      ∃ v w, s.writeVA 0 0 (onQueue.recordAddr 0) (zeros 64) (.queue 0) = .ok v ∧ v.writeVA 0 0 4864 (leBytes 8 1) (.queue 0) = .ok w) ∧
    (∀ s, s ∈ [childS [], childS [openGrid]] → Ready (.claunch 4) s (at_ (.claunch 4) s) ∧ (at_ (.claunch 4) s).act ≠ 0 ∧ s.doneBefore (at_ (.claunch 4) s).owner s.nextOp 3 = true ∧
      ReadsRecord (at_ (.claunch 4) s) s 5120 64 (recordOf s 5120 64) ∧ ((s.ctx 0).childTake 64).isSome = true) ∧
    (∀ s, s ∈ [childRead [], childRead [openGrid]] → s.vaReady ioCore 0 .r 5376 64 = true ∧ s.vaTables 0 0 .w ((s.ctx 0).childAddr 0) 64 = true ∧
      okB (s.writeVA 0 0 ((s.ctx 0).childAddr 0) (zeros 64) (.child 0)) = true ∧ okB (s.readKObj 0 5376) = true ∧
      (valOf ({} : KObj) (s.readKObj 0 5376)).cx * (valOf ({} : KObj) (s.readKObj 0 5376)).cy = 1) ∧
    (childS [openGrid]).gridOf 0 0 5376 = some 0 ∧ (childS [openGrid]).gridDue openGrid = false ∧ (childS []).gridOf 0 0 5376 = none :=
  ⟨fun s h => ready_at (by revert s; decide), fun i h s hs => ⟨ready_at (by revert s; revert i; decide), by revert s; revert i; decide⟩,
   fun s h => ⟨ready_at (by revert s; decide), by revert s; decide, reads_of (by revert s; decide) (by revert s; decide), by revert s; decide, by revert s; decide⟩,
   ⟨by decide, by decide, err_of (by decide)⟩, ⟨by decide, by decide, ok_of () (by decide), err_of (by decide)⟩,
   ⟨by decide, by decide, ok_of () (by decide), ok_of () (by decide), _, _, ok_of State.reset (by decide), ok_of State.reset (by decide)⟩,
   fun s h => ⟨ready_at (by revert s; decide), by revert s; decide, by revert s; decide, reads_of (by revert s; decide) (by revert s; decide), by revert s; decide⟩,
   fun s h => (by revert s; decide +kernel), by decide, by decide, by decide⟩

/-- A high number with its latch and without, a wide and a narrow register, on a group and on a courier. -/
theorem witness_MfsrReadsItsRegister :
    (∀ i, i ∈ [Instr.mfsr 4 0x201, .mfsr 4 0x200, .mfsr 4 0x002, .mfsr 63 0x04D] → Ready i boot (at_ i boot)) ∧ Ready (.mfsr 4 0x200) bootC (at_ (.mfsr 4 0x200) bootC) ∧
    srLow 0x201 = some 0x200 ∧ srWide 0x200 = true ∧ srWide 0x002 = false := ⟨fun i h => ready_at (by revert i; decide), ready_at (by decide), by decide, by decide, by decide⟩

theorem witness_MtsrWritesItsRegister :
    (∀ n, n ∈ [0x000, 0x002, 0x061, 0x062, 0x100, 0x210, 0x21F, 0x220, 0x22F] → Ready (.mtsr 4 n) boot (at_ (.mtsr 4 n) boot)) ∧
    Ready (.mtsr 4 0x061) inHandler (at_ (.mtsr 4 0x061) inHandler) ∧ (Ready (.mtsr 4 0x200) bootC (at_ (.mtsr 4 0x200) bootC) ∧ (at_ (.mtsr 4 0x200) bootC).onCourier = true) ∧
    (∀ i, i ∈ [Instr.mtsrGflags 4, .mtsrParty 4, .mtsrGtcmp 4, .mtsrGtcmph 4, .mtsrIncctl 4 7] → Ready i boot (at_ i boot)) ∧
    (let s := bootG fun g => { g with muster := some { pc := 4096, num := 0, op := (at_ mmaW mmaS).matOp false 0 8 12 0 0 0 0 0 } }
     Ready (.mtsrParty 4) s (at_ (.mtsrParty 4) s) ∧ (at_ (.mtsrParty 4) s).g.muster ≠ none) :=
  ⟨fun n h => ready_at (by revert n; decide), ready_at (by decide), ⟨ready_at (by decide), by decide⟩, fun i h => ready_at (by revert i; decide), ready_at (by decide), by decide⟩

/-- A team of a launch, and a context with a counter block. -/
theorem witness_KteamAndSevent :
    (let s : State := { boot with launches := [{ ctx := 0, lid := 1, kobj := {} }] }; Ready .kteam s (at_ .kteam s) ∧ s.ops = [] ∧ (at_ .kteam s).T.wins = [] ∧
      s.mcast = [] ∧ s.barWaiters 0 (fun _ => true) = [] ∧ (∀ e, e ∈ s.teams → e.2.ending = none) ∧ (at_ .kteam s).T.kind = .team ∧ (s.launch 0 1).isSome = true) ∧
    Ready (.sevent 4095) boot (at_ (.sevent 4095) boot) ∧ (let s := boot.modCtx 0 fun c => { c with cntblk := 5120 }; Ready (.sevent 0) s (at_ (.sevent 0) s)) :=
  ⟨⟨ready_at (by decide), rfl, by decide, rfl, by decide, by decide, by decide, by decide⟩, ready_at (by decide), ready_at (by decide)⟩

/-! ## Witnesses: accesses at their homes -/

/-- One lane at 4096, a waiting part of it, one operation of the booted group, and a state whose stacks are ready. -/
def la : LaneAcc := { lane := 0, name := 4096, addr := 4096, data := 5 }
def partW : Part := { place := .home, sector := 64, lanes := [la], sent := boot.home 4096 }
def opW (k : OpK) (p : Part) : MemOp := { who := .grp 0 0, core := 0, ctx := 0, kind := k, size := 4, parts := [p] }
def homeS (o : MemOp) : State := { boot with ready := -1, ops := [(0, o)], nextOp := 1 }

def portB (o : MemOp) (p : Part) : Bool := (p.peer && p.port.isNone) || (!p.peer && o.kind.isWrite && p.host && !p.ported)

theorem at_port (o : MemOp) (p : Part) : AtPort o p ↔ portB o p = true := by
  unfold AtPort portB
  cases o.kind.isWrite <;> cases p.peer <;> cases p.ported <;> cases p.host <;> simp

def atHomeB (k : OpK) : Bool := decide (AtHomeD (homeS (opW k partW)) 0 0 (opW k partW) partW)
where AtHomeD (s : State) (op n : Nat) (o : MemOp) (p : Part) : Bool :=
  decide (s.part? op n = some (o, p)) && decide (p.st = .waiting) && decide (p.place = .home) && decide (o.kind ≠ .padd) && !s.blocked op o p && !portB o p && (!p.peer || !s.lineBefore op p.line false) && !s.firstMap.remapped p &&
    !s.mapHeld (p.sector * 64) && s.stackReady (p.sector * 64) && !s.spansAbsent (stashSpans o p)

theorem at_home {k : OpK} (h : atHomeB k = true) : AtHome (homeS (opW k partW)) 0 0 (opW k partW) partW := by
  unfold atHomeB atHomeB.AtHomeD at h
  simp only [Bool.and_eq_true, Bool.or_eq_true, Bool.not_eq_true', decide_eq_true_eq] at h
  obtain ⟨⟨⟨⟨⟨⟨⟨⟨⟨⟨a, b⟩, c⟩, d⟩, e⟩, f⟩, g⟩, i⟩, j⟩, l⟩, m⟩ := h
  exact ⟨a, b, c, d, e, by rw [at_port, f]; decide, fun w => g.resolve_left (by rw [w]; decide), i, j, l, m⟩

theorem in_sector (k : OpK) : InSector (opW k partW) partW := by
  intro a ha
  rw [List.mem_singleton.mp ha]
  exact ⟨rfl, show 4096 % 64 + 4 ≤ 64 by decide⟩

theorem way_of (o : MemOp) : HasWay (homeS o) partW := Or.inr (Or.inr (by unfold State.l2Fits; rfl))

/-- No mark is due where the booted context keeps none. -/
def unmarkedB (s : State) (o : MemOp) (p : Part) : Bool := match s.lineDirt p.line (some (p.dirt o)) with | some d => !s.tracks d | none => true

theorem clean_mark {s : State} {o : MemOp} {p : Part} (h : unmarkedB s o p = true) : NoDirtyMark s o p := by
  intro d e
  unfold unmarkedB at h
  rw [e] at h
  simpa using h

theorem witness_StorePerformsAtItsHome :
    let o := opW .store partW
    let s := homeS o
    AtHome s 0 0 o partW ∧ o.kind = .store ∧ s.ownerOf partW.line = none ∧ InSector o partW ∧ s.writeHeld o partW = false ∧ s.anyHeld partW.line = false ∧ NoDirtyMark s o partW ∧
      HasWay s partW :=
  ⟨at_home (by decide), rfl, by decide, in_sector _, by decide, by decide, clean_mark (by decide), way_of _⟩

/-- A load that fills the L1 and a tag read. -/
theorem witness_LoadPerformsAtItsHome :
    (∀ k, k ∈ [OpK.load false, .hgath, .pread, .ldt] → AtHome (homeS (opW k partW)) 0 0 (opW k partW) partW ∧ (homeS (opW k partW)).ownerOf partW.line = none ∧
      (homeS (opW k partW)).poisonedAt (partW.sector * 64) = false ∧ (homeS (opW k partW)).twinLine (opW k partW) partW = none ∧ HasWay (homeS (opW k partW)) partW) ∧
    (opW (.load false) partW).fills partW = true ∧ (opW (.load false) partW).rc = 0 ∧ ((homeS (opW (.load false) partW)).line partW.line).rc = 0 :=
  ⟨fun k h => ⟨at_home (by revert k; decide), by revert k; decide, by revert k; decide, by revert k; decide, way_of _⟩, by decide, by decide, by decide⟩

theorem witness_AtomicPerformsAtItsHome :
    let k := AtomK.addI32
    let o := opW (.atomic k) partW
    let s := homeS o
    AtHome s 0 0 o partW ∧ o.kind = .atomic k ∧ o.size = atomSize k ∧ partW.lanes = [la] ∧ s.ownerOf partW.line = none ∧ InSector o partW ∧ s.writeHeld o partW = false ∧
      s.anyHeld partW.line = false ∧ NoDirtyMark s o partW ∧ HasWay s partW :=
  ⟨at_home (by decide), rfl, by decide, rfl, by decide, in_sector _, by decide, by decide, clean_mark (by decide), way_of _⟩

/-- At stash address 0 of the booted team, and of a team that is none. -/
def stashPart (t : Nat) : Part := { place := .stash t, sector := 0, lanes := [{ lane := 0, name := 0, addr := 0, data := 5 }] }

theorem witness_StashAccessPerforms :
    (∀ t, t ∈ [0, 9] → ∀ k, k ∈ [OpK.load true, .store] → let o := opW k (stashPart t); let s := homeS o
      s.part? 0 0 = some (o, stashPart t) ∧ (stashPart t).st = .waiting ∧ (stashPart t).place = .stash t ∧ o.kind ≠ .padd ∧ s.blocked 0 o (stashPart t) = false ∧
        (t = 9 → s.team t = none) ∧ (t = 0 → (s.team t).isSome = true ∧ s.spansAbsent (stashSpans o (stashPart t)) = false ∧
          ((s.team t).any fun T => !T.spoison.contains (stashPart t).sector && (T.winAt 0).isNone) = true)) ∧ InSector (opW .store (stashPart 0)) (stashPart 0) := by
  refine ⟨fun t ht k hk => by revert k; revert t; decide, ?_⟩
  intro a ha
  rw [List.mem_singleton.mp ha]
  exact ⟨rfl, by decide⟩

/-- The window line of 4096 (line 32) held clean or dirty at stash offset 1024 by the booted team. -/
def ownedS (d : Bool) (o : MemOp) : State :=
  ({ homeS o with lines := [(32, { present := true, owner := some 0 })] } : State).modTeam 0 fun T =>
    { T with wins := [(0, { base := 4096, off := 1, len := 1, lines := [(0, { pa := 32, dirty := d })] })] }
/-- The line pinned instead. -/
def pinnedS (o : MemOp) : State := { homeS o with lines := [(32, { present := true, pins := 1 })] }

def atHomeIn (s : State) (o : MemOp) (p : Part) : Prop := atHomeB.AtHomeD s 0 0 o p = true

theorem at_home_in {s : State} {o : MemOp} {p : Part} (h : atHomeB.AtHomeD s 0 0 o p = true) : AtHome s 0 0 o p := by
  unfold atHomeB.AtHomeD at h
  simp only [Bool.and_eq_true, Bool.or_eq_true, Bool.not_eq_true', decide_eq_true_eq] at h
  obtain ⟨⟨⟨⟨⟨⟨⟨⟨⟨⟨a, b⟩, c⟩, d⟩, e⟩, f⟩, g⟩, i⟩, j⟩, l⟩, m⟩ := h
  exact ⟨a, b, c, d, e, by rw [at_port, f]; decide, fun w => g.resolve_left (by rw [w]; decide), i, j, l, m⟩

/-- A part of a peer's line that no port has taken, with the peer bound to port 0 and without; one that waits behind it; and one of host memory. -/
def peerSector : Nat := 2 ^ 51 / 64
def peerPart : Part := { partW with sector := peerSector, lanes := [{ la with addr := 64 * peerSector }] }
def boundS (s : State) : State := { s with peers := [(0, { ports := 1, source := false, identity := 0 })] }
def takenPart : Part := { peerPart with port := some 0, ported := true }
def otherOp (p : Part) : MemOp := { opW .store p with who := .grp 0 1 }
def behindPeerS (p : Part) : State := boundS { homeS (opW .store takenPart) with ops := [(0, opW .store takenPart), (1, otherOp p)], nextOp := 2 }
def hostPart : Part := { partW with sector := 2 ^ 50 / 64, lanes := [{ la with addr := 2 ^ 50 }] }

theorem port_zero : (boundS (homeS (opW .store peerPart))).portOf (peerPart.sector * 64) = some 0 := by
  have e : ((List.range 16).filter fun p => ((boundS (homeS (opW .store peerPart))).peerPorts (peerOf (peerPart.sector * 64))).getLsbD p) = [0] := by decide
  unfold State.portOf
  rw [e]
  show [0][Config.portHash (lineOf (peerPart.sector * 64)) % 1]? = some 0
  rw [Nat.mod_one]
  rfl

/-- At its port; a load of an owned line, a store of one, and a store of a pinned line. -/
theorem witness_RequestIsForwardedOrHeld :
    (let o := opW .store peerPart
     (∀ s, s ∈ [homeS o, boundS (homeS o)] → s.part? 0 0 = some (o, peerPart) ∧ peerPart.st = .waiting ∧ o.kind ≠ .padd ∧ s.blocked 0 o peerPart = false ∧ peerPart.peer = true ∧ peerPart.port = none ∧
       s.lineBefore 0 peerPart.line true = false) ∧ (homeS o).portOf (peerPart.sector * 64) = none ∧ (boundS (homeS o)).portOf (peerPart.sector * 64) = some 0) ∧
    (∀ p, p ∈ [peerPart, takenPart] → (behindPeerS p).part? 1 0 = some (otherOp p, p) ∧ (behindPeerS p).blocked 1 (otherOp p) p = false ∧ (behindPeerS p).lineBefore 1 p.line false = true) ∧
    (let o := opW .store hostPart; (homeS o).part? 0 0 = some (o, hostPart) ∧ hostPart.peer = false ∧ hostPart.host = true ∧ hostPart.ported = false ∧ (homeS o).blocked 0 o hostPart = false) ∧
    (let o := opW .store partW; AtHome (ownedS false o) 0 0 o partW ∧ ((ownedS false o).ownerOf partW.line).isSome = true ∧ (ownedS false o).writeHeld o partW = false ∧
      (ownedS false o).anyHeld partW.line = false) ∧
    (let o := opW (.load false) partW; AtHome (ownedS false o) 0 0 o partW ∧ ((ownedS false o).ownerOf partW.line).isSome = true) ∧
    (let o := opW .store partW; AtHome (pinnedS o) 0 0 o partW ∧ (pinnedS o).ownerOf partW.line = none ∧ o.kind.isWrite = true ∧ (pinnedS o).writeHeld o partW = true) :=
  ⟨⟨by decide, by decide, port_zero⟩, by decide, by decide, ⟨at_home_in (by decide), by decide, by decide, by decide⟩, ⟨at_home_in (by decide), by decide⟩,
   at_home_in (by decide), by decide, by decide, by decide⟩

def heldPart : Part := { partW with st := .held 3 }

theorem witness_HeldWritePerforms :
    let o := opW .store heldPart
    (∀ s, s ∈ [homeS o, ownedS true o] → s.part? 0 0 = some (o, heldPart) ∧ s.writeHeld o heldPart = false ∧ s.heldBefore heldPart.line 3 = false) ∧
    (ownedS true o).ownerOf heldPart.line ≠ none ∧ (homeS o).ownerOf heldPart.line = none ∧ heldPart.place = .home ∧ NoDirtyMark (homeS o) o heldPart ∧ InSector o heldPart :=
  ⟨fun s h => by revert s; decide, by decide, by decide, rfl, clean_mark (by decide), in_sector .store⟩

def fwdPart : Part := { partW with st := .forwarded }

theorem witness_ForwardedAccessPerforms :
    (let o := opW .store fwdPart; (homeS o).part? 0 0 = some (o, fwdPart) ∧ (homeS o).ownerOf fwdPart.line = none) ∧
    ∀ k, k ∈ [OpK.load false, .store] → let o := opW k fwdPart; let s := ownedS true o
      s.part? 0 0 = some (o, fwdPart) ∧ (∃ w, s.ownerOf fwdPart.line = some w ∧ s.missWaits w.team fwdPart.line = false ∧ s.poisonedAt (fwdPart.sector * 64) = false ∧
        s.twinLine o fwdPart = none) ∧ NoDirtyMark s o fwdPart ∧ InSector o fwdPart :=
  ⟨by decide, fun k hk => ⟨by revert k; decide, ⟨{ team := 0, win := 0, idx := 0, off := 1024 }, by revert k; decide⟩, clean_mark (by revert k; decide), in_sector k⟩⟩

theorem witness_RemapRepliesRehash :
    let p : Part := { partW with sent := ((homeS (opW .store partW)).homeDie 4096, 47) }
    let o := opW .store p
    (homeS o).part? 0 0 = some (o, p) ∧ p.st = .waiting ∧ p.place = .home ∧ (homeS o).remapped p = true := by decide

def donePart : Part := { partW with st := .done 0 }
def loadOp : MemOp := { opW (.load true) donePart with dst := .vec 2 1, ifc := some 0, size := 1 }

theorem witness_LoadRepliesWriteTheirRegisters :
    let s := homeS loadOp
    Tab.find s.ops 0 = some loadOp ∧ loadOp.who = .grp 0 0 ∧ (s.grp 0 0).isSome = true ∧ loadOp.kind = .load true ∧ loadOp.dst = .vec 2 1 ∧ loadOp.performed = true ∧ loadOp.replied = false ∧
      ((loadOp.parts.flatMap fun p => p.lanes).map fun a => a.lane).Nodup ∧ ∀ a, a ∈ (loadOp.parts.flatMap fun p => p.lanes) → a.lane < 96 := by decide

theorem witness_WritesComplete :
    let o := { opW .store donePart with ifc := some 3 }
    Tab.find (homeS o).ops 0 = some o ∧ o.who = .grp 0 0 ∧ ((homeS o).grp 0 0).isSome = true ∧ o.kind.isWrite = true ∧ o.kind ≠ .cpaOut ∧ o.complete ((homeS o).dieNow (dieOf o.core)) = true ∧
      o.returns = false ∧ (∀ p, p ∈ o.parts → (p.peer = true → p.acked = true) ∧ (p.host = true → p.landed ((homeS o).dieNow (dieOf o.core)) = true)) ∧
    let o := { opW .store { peerPart with st := .done 0, ported := true } with ifc := some 3 }
    Tab.find (homeS o).ops 0 = some o ∧ o.complete ((homeS o).dieNow (dieOf o.core)) = true ∧ ∃ p, p ∈ o.parts ∧ p.peer = true ∧ p.acked = false := by decide

/-- Copies to the stash and from it. -/
def copyPart : Part := { donePart with lanes := [{ la with aux := packStash 0 64 }] }

theorem witness_CopiesComplete :
    ∀ k, k ∈ [OpK.cpaIn, .cpaOut] → let o := { opW k copyPart with bar := some (0, 0, 1) }
      Tab.find (homeS o).ops 0 = some o ∧ o.who = .grp 0 0 ∧ ((homeS o).grp 0 0).isSome = true ∧ (∀ e, e ∈ (homeS o).ops → ¬ e.1 < 0) ∧ o.performed = true ∧ (homeS o).stashBefore o.who 0 (o.lanesUp.map LaneAcc.sname) = false ∧
        o.complete ((homeS o).dieNow (dieOf o.core)) = true ∧ unpackStash (packStash 0 64) = .st 0 64 ∧ (((homeS o).team 0).any fun T => (T.winAt 64).isNone && (T.winAt 79).isNone) = true := by decide

/-- A credit of a live object, and one of an earlier generation. -/
def creditS (gen : BitVec 16) : State :=
  ({ boot with credits := [{ team := 0, off := 0, gen := gen, bytes := 16 }] } : State).modTeam 0 fun T => { T with bars := [(0, 2)], stash := writeBytes [] 0 (objBytes 2 0 0 0 16 0) }

theorem witness_CreditsRaiseTheirObject :
    liveAt (creditS 1) 0 0 ≠ some 1 ∧ liveAt (creditS 2) 0 0 = some 2 ∧ IsObj (objAt (creditS 2) 0 0) 2 0 0 0 16 0 := by
  refine ⟨by decide, by decide, ?_⟩
  unfold IsObj
  decide

/-- One identity leaf of 1 GiB below both roots of context 0; no cached translation. -/
def tablesS : State :=
  (({ boot with mem := writeBytes (writeBytes (writeBytes [] 32768 (leBytes 8 65537)) 65536 (leBytes 8 69633)) 69632 (leBytes 8 0x1F) } : State).modCore 0 fun c =>
    { c with tlb := [] }).modCtx 0 fun x => { x with s1root := 32769, s2root := 32769 }

def dictT : State := tablesS.modTeam 0 fun T => { T with kobj := { T.kobj with dict := 0x20000 } }

theorem witness_CopiesOfMemoryComeAndGo :
    (let s := ({ boot with gtime := 5 } : State).modCore 0 fun c => { c with l1 := [(32, { expiry := 5 })] }; (Tab.find (s.core 0).l1 32).any (fun l => decide (l.expiry ≤ s.gtime)) = true) ∧
    (boot.line 32).horizon ≤ boot.gtime ∧ tablesS.tablesReady 0 0 4096 = true ∧ (tablesS.walkEntry 0 4096 0).isSome = true ∧
    (dictT.team 0).any (fun T => T.core = 0 && T.kobj.dict ≠ 0) = true ∧ (dictT.core 0).dicts = [] ∧ okB (dictT.trans 0 0 .x (0x20000 + 4 * 1023)) = true ∧ dictT.vaReady 0 0 .x 0x20000 4096 = true ∧
    boot.vaReady 0 0 .x 4096 4 = true ∧
    (((bootG fun g => { g with frozen := true }).grp 0 0).any fun g => g.frozen) = true := by decide +kernel

/-- A window of one KiB over 4096 whose lines are all absent, and accesses of the team's that wait for its first and its last. -/
def windowS (i : Nat) : State :=
  ({ boot with ops := [(0, opW (.load false) { place := .stash 0, sector := 16 + 2 * i, lanes := [{ lane := 0, name := 1024 + 128 * i, addr := 1024 + 128 * i, data := 0 }] })], nextOp := 1 } : State).modTeam 0 fun T =>
    { T with wins := [(0, { base := 4096, off := 1, len := 1 })] }

theorem witness_LinesFillAndScrub :
    (let s := homeS (opW .store partW); (s.line 32).present = false ∧ isPeer (32 * 128) = false ∧ s.takes (32 * 128) = true ∧ partW.line = 32 ∧ s.l2Fits 32 none = true) ∧
    (∀ i, i ∈ [0, 7] → let s := windowS i; okB (s.trans 0 0 .r (4096 + 128 * i)) = true ∧ i < 8 * 1 ∧ s.ownerOf (32 + i) = none ∧ (s.line (32 + i)).horizon ≤ s.gtime ∧
      s.recallHeld (32 + i) = false ∧ s.touchWanted 0 0 i = true ∧ s.tablesReady 0 0 (4096 + 128 * i) = true ∧ s.takes ((32 + i) * 128) = true) ∧
    ¬ okB (boot.trans 0 0 .r 8192) = true ∧ (0 : Nat) * 64 < Config.localBytes ∧ boot.poison = [] := by decide

/-- A change that exchanges the slices of two buckets, held and free. -/
def changeS (o : MemOp) : State := { pinnedS o with smapsn := 1 }

theorem legal_of {s t : State} (h : s.buckets = t.buckets) (die : Nat) (moves : List (Nat × Nat)) : s.mapLegal die moves = t.mapLegal die moves := by
  unfold State.mapLegal State.movesClean State.bucketsWith State.bucket
  rw [h]

def freeS : State := { boot with smapsn := 1 }
def sameMove : List (Nat × Nat) := [(32, 0), (0, 32)]

/-- How many of the first numbers a slice has, where all but the least go by their residue. -/
theorem counts_mod {f : Nat → Nat} {m : Nat} (h : ∀ n, m ≤ n → f n = n % 48) (v : Nat) (hv : v < 48)
    (b : (((List.range m).map f).filter (· = v)).length = (m + 47 - v) / 48) (k : Nat) :
    (((List.range (m + k)).map f).filter (· = v)).length = (m + k + 47 - v) / 48 := by
  induction k with
  | zero => exact b
  | succ k ih =>
    rw [← Nat.add_assoc, List.range_succ, List.map_append, List.filter_append, List.length_append, ih, List.map_singleton, h _ (by omega)]
    by_cases e : (m + k) % 48 = v
    · simp [e]; omega
    · simp [e]; omega

theorem free_legal : freeS.mapLegal (boot.homeDie 4096) sameMove = true := by
  have f : ∀ n, 33 ≤ n → (match sameMove.find? (fun m => m.1 = n) with | some m => m.2 | none => freeS.bucket (boot.homeDie 4096) n) = n % 48 := fun n h => by
    have e : sameMove.find? (fun m => m.1 = n) = none := by simp [sameMove]; omega
    rw [e]
    rfl
  have c : ((List.range 48).map fun v => ((freeS.bucketsWith (boot.homeDie 4096) sameMove).filter (· = v)).length) = (List.range 48).map fun v => (4096 + 47 - v) / 48 :=
    List.map_congr_left fun v hv => counts_mod f v (List.mem_range.mp hv) (by
      have hv := List.mem_range.mp hv
      clear f
      revert v
      decide) 4063
  unfold State.mapLegal
  simp only [c]
  decide +kernel

/-- Page 0, that die 1 reads from the memory of die 0; pages 0 and 2 under way; and a state whose counters are due. -/
def hotS : State := { boot with placement := [(0, { stack := 0, frame := 0, c1 := 8 })] }
def movingS : State := { boot with moving := [(0, 2)] }
def dueS : State := { boot with gtime := 2 ^ 26 }

theorem witness_MapsAndPagesMove :
    (∀ s, s ∈ [freeS, changeS (opW .store partW)] → s.smapsn ≠ 0 ∧ s.mapChange = [] ∧ s.mapLegal (boot.homeDie 4096) sameMove = true) ∧ freeS.mapClear (boot.homeDie 4096) sameMove = true ∧
    (changeS (opW .store partW)).mapClear (boot.homeDie 4096) sameMove = false ∧ (hotS.placed 0).count ((hotS.placed 0).stack / 2) + 8 ≤ (hotS.placed 0).count ((hotS.placed 2).stack / 2) ∧
    (hotS.placed 0).stack / 2 ≠ (hotS.placed 2).stack / 2 ∧ hotS.moving = [] ∧ (0 : Nat) < Config.localPages ∧ 2 < Config.localPages ∧
    (0, 2) ∈ movingS.moving ∧ movingS.poison = [] ∧ movingS.pageHeld 0 = false ∧ movingS.pageHeld 2 = false ∧
    boot.gtime < 2 ^ 26 * (boot.placeHalvings + 1) ∧ 2 ^ 26 * (dueS.placeHalvings + 1) ≤ dueS.gtime :=
  ⟨fun s h => ⟨by revert s; decide, by revert s; decide, (legal_of (by revert s; decide) _ _).trans free_legal⟩, by decide +kernel⟩

/-! ## Witnesses: events between instructions -/

/-- One cached translation of the first GiB. -/
def wideTlb : TlbEntry := { bootTlb with base := 0, size := 2 ^ 30, pa := 0, ipa := 0 }
def wide (s : State) : State := s.modCore 0 fun c => { c with tlb := [wideTlb] }

theorem trans_wide {s : State} {core : Nat} (h : (s.core core).tlb = [wideTlb]) (va : Nat) (hv : va < 2 ^ 30) (k : Acc) (hk : k = .r ∨ k = .w) :
    s.trans core 0 k va = .ok { pa := va, leaf := 0, d := true, ipa := va, lsz := 4096 } := by
  have e : s.tlbHit core 0 va = some wideTlb := by
    unfold State.tlbHit tlbFind
    rw [h]
    have hv' : va < 1073741824 := hv
    simp [wideTlb, bootTlb, hv']
  have b : s.backed va = true := by
    unfold State.backed
    have : va < Config.localBytes := Nat.lt_of_lt_of_le hv (by decide)
    simp [this]
  unfold State.trans
  rw [e]
  rcases hk with rfl | rfl <;> simp [wideTlb, bootTlb, Acc.allows, b, TlbEntry.leafAt, TlbEntry.dAt]

theorem owner_none {s : State} (h : ∀ t T, s.team t = some T → T.wins = []) (ln : Nat) : s.ownerOf ln = none := by
  unfold State.ownerOf
  cases (s.line ln).owner with
  | none => rfl
  | some t =>
    cases e : s.team t with
    | none => simp [e]
    | some T => simp [e, Team.holds, h t T e]

theorem readVA_wide {s : State} {core : Nat} (h : (s.core core).tlb = [wideTlb]) (hw : ∀ t T, s.team t = some T → T.wins = []) (fuel va n : Nat) (ha : va % 4096 = 0)
    (hn : n ≤ 4096 * fuel) (hv : va + n < 2 ^ 30) : s.readVAFuel core 0 .r fuel va n = .ok ((List.range n).map fun i => Tab.get 0 s.mem (va + i)) := by
  induction fuel generalizing va n with
  | zero => obtain rfl : n = 0 := by omega
            rfl
  | succ fuel ih =>
    unfold State.readVAFuel
    by_cases z : n = 0
    · subst z; rfl
    · have ok : vaOk va = true := by unfold vaOk; rw [decide_eq_true_eq]; exact Nat.lt_trans (by omega : va < 2 ^ 30) (by decide)
      rw [if_neg z, ok, trans_wide h va (by omega) .r (.inl rfl), ha]
      simp only [Bool.not_true, Bool.false_eq_true, if_false, Nat.sub_zero]
      by_cases g : n ≤ 4096
      · rw [Nat.min_eq_left g, Nat.sub_self]
        have r : s.readVAFuel core 0 .r fuel (va + n) 0 = .ok [] := by cases fuel <;> rfl
        rw [r]
        simp [State.cohRead, owner_none hw]
      · rw [Nat.min_eq_right (by omega), ih (va + 4096) (n - 4096) (by omega) (by omega) (by omega)]
        simp only [State.cohRead, owner_none hw]
        refine congrArg Except.ok ?_
        conv => rhs; rw [show n = 4096 + (n - 4096) by omega, List.range_add, List.map_append, List.map_map]
        refine (List.append_right_inj _).mpr ?_
        refine List.map_congr_left fun i _ => ?_
        simp [Nat.add_assoc]

theorem map_written (m : Tab Byte) (a : Nat) (b : List Byte) : ((List.range b.length).map fun i => Tab.get 0 (writeBytes m a b) (a + i)) = b := by
  refine List.ext_getElem (by rw [List.length_map, List.length_range]) fun i h _ => ?_
  have l : i < b.length := by rw [List.length_map, List.length_range] at h; exact h
  rw [List.getElem_map, List.getElem_range, get_writeBytes, if_pos (by omega), Nat.add_sub_cancel_left, List.getElem?_eq_getElem l]
  rfl

/-- What the device's own writes leave as it was, with nothing that could hold one. -/
structure Quiet (s u : State) : Prop where
  teams : u.teams = s.teams
  cores : u.cores = s.cores
  ctxs : u.ctxs = s.ctxs
  posted : u.posted = []
  ops : u.ops = []
  hamper : u.hamper = []
  placement : u.placement = []
  pins : ∀ ln, (u.line ln).pins = 0
  change : u.mapChange = []
  up : ∀ k, k < 8 → u.ready.getLsbD (28 + k) = true

theorem Quiet.open_ {s u : State} (q : Quiet s u) (pa : Nat) : u.stackReady pa = true ∧ u.mapHeld pa = false := by
  unfold State.stackReady State.mapHeld State.placed
  rw [q.placement, q.change]
  refine ⟨?_, rfl⟩
  show (!isLocal pa || u.ready.getLsbD (28 + pa / 4096 % 8)) = true
  rw [q.up _ (Nat.mod_lt _ (by decide)), Bool.or_true]

theorem quiet_line {s u : State} (q : Quiet s u) (hw : ∀ t T, s.team t = some T → T.wins = []) (pa : Nat) (b : List Byte) : Quiet s (u.cohWriteLine pa b) := by
  have ow : ∀ (v : State), v.teams = s.teams → v.ownerOf (lineOf pa) = none := fun v e => owner_none (s := v) (by unfold State.team at hw ⊢; rw [e]; exact hw) _
  have e : u.cohWriteLine pa b = (({ u.race pa b.length with mem := writeBytes u.mem pa b } : State).observe pa b.length).modLine (lineOf pa)
      (Line.wrote_ (u.homeNow (lineOf pa))) := by
    unfold State.cohWriteLine State.wroteLine State.putLine
    simp only [ow (u.race pa b.length) q.teams, ow (({ u.race pa b.length with mem := writeBytes (u.race pa b.length).mem pa b } : State).observe pa b.length) q.teams]
    rfl
  rw [e]
  refine ⟨q.teams, q.cores, q.ctxs, q.posted, q.ops, q.hamper, q.placement, fun ln => ?_, q.change, q.up⟩
  unfold State.modLine State.line
  simp only [Tab.get_set]
  split
  · exact q.pins _
  · exact q.pins ln

theorem quiet_postAll {s : State} (hw : ∀ t T, s.team t = some T → T.wins = []) (l : List Posted) (u : State) (q : Quiet s u)
    (hl : ∀ p, p ∈ l → p.src = .loose ∧ ∀ d, p.dirt = some d → s.tracks d = false) : Quiet s (u.postAll [] l) := by
  induction l generalizing u with
  | nil => exact ⟨q.teams, q.cores, q.ctxs, q.posted, q.ops, q.hamper, q.placement, q.pins, q.change, q.up⟩
  | cons p l ih =>
    obtain ⟨e, f⟩ := hl p (by simp)
    have m : u.mayPost [] p = true := by
      unfold State.mayPost State.arrives State.lineHeld State.opsHeld State.drainHeld State.pageLocked
      simp [q.pins, q.ops, q.hamper, q.placement, e, Tab.find, (q.open_ _).1, (q.open_ _).2]
    have n : u.postNow p = u.cohWriteLine p.pa p.bs := by
      unfold State.postNow
      simp [e]
    have o : u.ownerOf (lineOf p.pa) = none := owner_none (s := u) (by unfold State.team at hw ⊢; rw [q.teams]; exact hw) _
    have k : ∀ d, p.dirt = some d → u.tracks d = false := fun d h => by
      have := f d h
      unfold State.tracks State.ctx at this ⊢
      rw [q.ctxs]; exact this
    unfold State.postAll
    simp only [m, Bool.not_true, Bool.false_eq_true, if_false]
    unfold State.lineDirt
    rw [o]
    have done := ih _ (quiet_line q hw p.pa p.bs) fun r h => hl r (by simp [h])
    cases hd : p.dirt with
    | none => simp only [n]; exact done
    | some d =>
      have g : u.logDirty d = u := by unfold State.logDirty; simp [k d hd]
      simp only [g, State.dirtyDone, k d hd, Bool.not_false, Bool.true_or, if_true, n]
      exact done

theorem quiet_post {s u : State} (hw : ∀ t T, s.team t = some T → T.wins = []) (q : Quiet s u) (pa : Nat) (b : List Byte) (dirt : Option Dirt)
    (hd : ∀ d, dirt = some d → s.tracks d = false) : Quiet s (u.post .loose pa b dirt) := by
  have pl : ∀ n pa b p, p ∈ pieces .loose dirt n pa b → p.src = .loose ∧ ∀ d, p.dirt = some d → s.tracks d = false := by
    intro n
    induction n with
    | zero => intro pa b p h; cases h
    | succ n ih =>
      intro pa b p h
      unfold pieces at h
      split at h
      · cases h
      · rcases List.mem_cons.mp h with rfl | h
        · exact ⟨rfl, hd⟩
        · exact ih _ _ _ h
  have idle : ∀ n (v : State), Quiet s v → Quiet s (v.pumpN n) := by
    intro n v h
    cases n with
    | zero => exact h
    | succ n => unfold State.pumpN; rw [h.posted]; exact h
  unfold State.post State.pump
  rw [q.posted, List.nil_append]
  unfold State.pumpN
  split
  · next h => exact ⟨q.teams, q.cores, q.ctxs, by simpa using h, q.ops, q.hamper, q.placement, q.pins, q.change, q.up⟩
  · exact idle _ _ (quiet_postAll hw _ _ ⟨q.teams, q.cores, q.ctxs, rfl, q.ops, q.hamper, q.placement, q.pins, q.change, q.up⟩ (pl _ _ _))

/-- A record written through the wide translation leaves every team as it was. -/
theorem writeVA_wide {s : State} (h : (s.core 0).tlb = [wideTlb]) (hw : ∀ t T, s.team t = some T → T.wins = []) (hd : (s.ctx 0).s2root = 0) (q : Quiet s s) (va : Nat)
    (bs : List Byte) (hv : va + bs.length + 8192 < 2 ^ 30) : ∃ v, s.writeVA 0 0 va bs = .ok v ∧ Quiet s v := by
  have go : ∀ n (u : State) va b, Quiet s u → (b ≠ [] → va + b.length < 2 ^ 30) → ∃ v, u.writeVAFuel .loose 0 0 n va b = .ok v ∧ Quiet s v := by
    intro n
    induction n with
    | zero => exact fun u va b q _ => ⟨u, rfl, q⟩
    | succ n ih =>
      intro u va b q hv
      unfold State.writeVAFuel
      split
      · exact ⟨u, rfl, q⟩
      · next e =>
        have hv := hv (by simpa using e)
        have ok : vaOk va = true := by unfold vaOk; rw [decide_eq_true_eq]; exact Nat.lt_trans (by omega : va < 2 ^ 30) (by decide)
        have hc : (u.core 0).tlb = [wideTlb] := by unfold State.core at h ⊢; rw [q.cores]; exact h
        rw [ok, trans_wide hc va (by omega) .w (.inr rfl)]
        simp only [Bool.not_true, Bool.false_eq_true, if_false]
        refine ih _ _ _ (quiet_post hw q _ _ _ fun d e => ?_) fun e => ?_
        rotate_left
        · have := mt List.drop_eq_nil_of_le e
          rw [List.length_drop]; omega
        cases e
        unfold State.tracks Tr.dirt Ctx.dbit
        rw [hd]
        simp [bitOf]
  exact go _ s va bs q fun _ => by omega

/-- A write that sets no D. -/
def Plain (s : State) (p : Posted) : Prop := ∀ d, p.dirt = some d → s.tracks d = false

/-- What the device's own writes leave as it was, whether they wait or are performed, where none of them sets D. -/
structure Calm (s u : State) : Prop where
  teams : u.teams = s.teams
  cores : u.cores = s.cores
  ctxs : u.ctxs = s.ctxs
  posted : ∀ p, p ∈ u.posted → Plain s p

theorem calm_now {s u : State} (q : Calm s u) (hw : ∀ t T, s.team t = some T → T.wins = []) (p : Posted) : Calm s (u.postNow p) := by
  have ow : ∀ (v : State), v.teams = s.teams → v.ownerOf (lineOf p.pa) = none := fun v e => owner_none (s := v) (by unfold State.team at hw ⊢; rw [e]; exact hw) _
  have e : u.cohWriteLine p.pa p.bs = (({ u.race p.pa p.bs.length with mem := writeBytes u.mem p.pa p.bs } : State).observe p.pa p.bs.length).modLine (lineOf p.pa)
      (Line.wrote_ (u.homeNow (lineOf p.pa))) := by
    unfold State.cohWriteLine State.wroteLine State.putLine
    simp only [ow (u.race p.pa p.bs.length) q.teams, ow (({ u.race p.pa p.bs.length with mem := writeBytes (u.race p.pa p.bs.length).mem p.pa p.bs } : State).observe p.pa p.bs.length) q.teams]
    rfl
  unfold State.postNow
  simp only [e]
  split <;> exact ⟨q.teams, q.cores, q.ctxs, q.posted⟩

theorem calm_postAll {s : State} (hw : ∀ t T, s.team t = some T → T.wins = []) (l kept : List Posted) (u : State) (q : Calm s u) (hl : ∀ p, p ∈ l → Plain s p)
    (hk : ∀ p, p ∈ kept → Plain s p) : Calm s (u.postAll kept l) := by
  induction l generalizing u kept with
  | nil =>
    refine ⟨q.teams, q.cores, q.ctxs, fun p h => ?_⟩
    rcases List.mem_append.mp h with h | h
    · exact hk p (List.mem_reverse.mp h)
    · exact q.posted p h
  | cons p l ih =>
    have hp := hl p (by simp)
    have hl' := fun r h => hl r (List.mem_cons_of_mem p h)
    have wait : Calm s ((u.waitPost kept p).1.postAll ((u.waitPost kept p).2 :: kept) l) := by
      unfold State.waitPost
      split
      · refine ih _ _ ⟨q.teams, q.cores, q.ctxs, q.posted⟩ hl' fun r h => ?_
        rcases List.mem_cons.mp h with rfl | h
        · exact hp
        · exact hk r h
      · refine ih _ _ q hl' fun r h => ?_
        rcases List.mem_cons.mp h with rfl | h
        · exact hp
        · exact hk r h
    have done := ih kept _ (calm_now q hw p) hl' hk
    have o : u.ownerOf (lineOf p.pa) = none := owner_none (s := u) (by unfold State.team at hw ⊢; rw [q.teams]; exact hw) _
    have k : ∀ d, p.dirt = some d → u.tracks d = false := fun d h => by
      have := hp d h
      unfold State.tracks State.ctx at this ⊢
      rw [q.ctxs]; exact this
    unfold State.postAll
    split
    · exact wait
    · unfold State.lineDirt
      rw [o]
      cases hd : p.dirt with
      | none => exact done
      | some d =>
        have g : u.logDirty d = u := by unfold State.logDirty; simp [k d hd]
        simp only [g]
        split
        · exact done
        · exact wait

theorem calm_post {s u : State} (hw : ∀ t T, s.team t = some T → T.wins = []) (q : Calm s u) (src : Src) (pa : Nat) (b : List Byte) (dirt : Option Dirt)
    (hd : ∀ d, dirt = some d → s.tracks d = false) : Calm s (u.post src pa b dirt) := by
  have pl : ∀ n pa b p, p ∈ pieces src dirt n pa b → Plain s p := by
    intro n
    induction n with
    | zero => intro pa b p h; cases h
    | succ n ih =>
      intro pa b p h
      unfold pieces at h
      split at h
      · cases h
      · rcases List.mem_cons.mp h with rfl | h
        · exact hd
        · exact ih _ _ _ h
  have go : ∀ n (v : State), Calm s v → Calm s (v.pumpN n) := by
    intro n
    induction n with
    | zero => exact fun v h => h
    | succ n ih =>
      intro v h
      unfold State.pumpN
      split
      · exact h
      · exact ih _ (calm_postAll hw _ _ _ ⟨h.teams, h.cores, h.ctxs, fun p h => (List.not_mem_nil h).elim⟩ h.posted fun p h => (List.not_mem_nil h).elim)
  refine go 3 _ ⟨q.teams, q.cores, q.ctxs, fun p h => ?_⟩
  rcases List.mem_append.mp h with h | h
  · exact q.posted p h
  · exact pl _ _ _ p h

/-- A record written through the wide translation, whoever writes it and whatever waits. -/
theorem writeVA_calm {s : State} {core : Nat} (h : (s.core core).tlb = [wideTlb]) (hw : ∀ t T, s.team t = some T → T.wins = []) (hd : (s.ctx 0).s2root = 0)
    (hp : s.posted = []) (src : Src) (va : Nat) (bs : List Byte) (hv : va + bs.length + 8192 < 2 ^ 30) : okB (s.writeVA core 0 va bs src) = true := by
  have go : ∀ n (u : State) va b, Calm s u → (b ≠ [] → va + b.length < 2 ^ 30) → okB (u.writeVAFuel src core 0 n va b) = true := by
    intro n
    induction n with
    | zero => exact fun u va b q _ => rfl
    | succ n ih =>
      intro u va b q hv
      unfold State.writeVAFuel
      split
      · rfl
      · next e =>
        have hv := hv (by simpa using e)
        have ok : vaOk va = true := by unfold vaOk; rw [decide_eq_true_eq]; exact Nat.lt_trans (by omega : va < 2 ^ 30) (by decide)
        have hc : (u.core core).tlb = [wideTlb] := by unfold State.core at h ⊢; rw [q.cores]; exact h
        rw [ok, trans_wide hc va (by omega) .w (.inr rfl)]
        simp only [Bool.not_true, Bool.false_eq_true, if_false]
        refine ih _ _ _ (calm_post hw q _ _ _ _ fun d e => ?_) fun e => ?_
        · cases e
          unfold State.tracks Tr.dirt Ctx.dbit
          rw [hd]
          simp [bitOf]
        · have := mt List.drop_eq_nil_of_le e
          rw [List.length_drop]; omega
  exact go _ s va bs ⟨rfl, rfl, rfl, fun p h => by rw [hp] at h; cases h⟩ fun _ => by omega

/-- The booted group stopped as the primary one, and a handler at 5120 with one frame at 32768. -/
def stoppedG : Grp := { Tab.get {} bootTeam.groups 0 with primary := true, run := .faulted }
def oneGroup (g : Grp) (m : Tab Byte) : State :=
  (wide { boot with mem := m, teams := [(0, { kobj := { regs := 96, hbind := true }, lid := 1, groups := [(0, g)] })] }).modCtx 0 fun c => { c with handler := 5120 }
def stoppedS : State := oneGroup stoppedG (writeBytes (writeBytes [] 5140 (leBytes 4 1)) 5160 (leBytes 8 32768))

theorem one_windows (g : Grp) (m : Tab Byte) (t : Nat) (T : Team) (h : (oneGroup g m).team t = some T) : T.wins = [] :=
  find_all (P := fun _ T => T.wins = []) (by intro e he; rw [List.mem_singleton.mp he]) h

theorem one_quiet (g : Grp) (m : Tab Byte) : Quiet (oneGroup g m) (oneGroup g m) := ⟨rfl, rfl, rfl, rfl, rfl, rfl, rfl, fun _ => rfl, rfl, fun k h => (by decide : ∀ k, k < 8 → boot.ready.getLsbD (28 + k) = true) k h⟩

theorem frame_length (g : Grp) (h : g.quadsGood) : g.frameBytes.length = 16384 := by
  rw [frame_split, List.length_append, frameHead_length, Grp.quadBytes]
  have e : ((List.range 24).flatMap fun q => (Tab.get {} g.quads q).bytes) = (List.range 24).flatMap fun q => if q < 24 then (Tab.get {} g.quads q).bytes else zeros 512 :=
    flatMap_range_congr fun i hi => by rw [if_pos hi]
  rw [e, flatMap_length _ 512 fun i => by
    by_cases l : i < 24
    · rw [if_pos l, (h i l).1]
    · rw [if_neg l, zeros_length]]

theorem stopped_good : stoppedG.quadsGood := by unfold Grp.quadsGood; decide +kernel

theorem witness_HandlersAreEntered :
    ∃ v b, (∀ e, e ∈ [(0, stoppedG)] → e.2.run ≠ .running) ∧ ((stoppedS.team 0).any fun T => decide (T.groups = [(0, stoppedG)]) && decide (T.core = 0) && decide (T.ctx = 0)) = true ∧
      [(0, stoppedG)].find? (fun e => e.2.primary && decide (e.2.run = .faulted)) = some (0, stoppedG) ∧
      stoppedS.vaReady 0 0 .r (stoppedS.ctx 0).handler.toNat 64 = true ∧ stoppedS.readVA 0 0 (stoppedS.ctx 0).handler.toNat 64 = .ok b ∧ fieldOf b 20 4 = 1 ∧ fieldOf b 40 8 = 32768 ∧ (stoppedS.ctx 0).frames = [] ∧
      stoppedS.writeVA 0 0 32768 stoppedG.frameBytes = .ok v ∧ v.posted.length ≤ stoppedS.posted.length ∧ v.grp 0 0 = some stoppedG := by
  obtain ⟨v, hv, hq⟩ := writeVA_wide (s := stoppedS) (by decide) (one_windows _ _) (by decide) (one_quiet _ _) 32768 stoppedG.frameBytes (by rw [frame_length _ stopped_good]; decide)
  refine ⟨v, valOf [] (stoppedS.readVA 0 0 (stoppedS.ctx 0).handler.toNat 64), by decide, by decide, by decide, by decide, ok_of [] (by decide), by decide, by decide, by decide, hv, by rw [hq.posted]; exact Nat.zero_le _, ?_⟩
  unfold State.grp State.team
  rw [hq.teams]
  decide

/-- In a handler whose frame at 32768 holds the group as it stands, and in one whose frame is not a frame. -/
def frameG : Grp := { Tab.get {} bootTeam.groups 0 with frame := some 32768, fpc := 4100 }
def frameS : State := oneGroup frameG (writeBytes [] 32768 frameG.frameBytes)
def noFrameS : State := oneGroup frameG []

theorem one_mem (g : Grp) (m : Tab Byte) : (oneGroup g m).mem = m := rfl
theorem one_tlb (g : Grp) (m : Tab Byte) : ((oneGroup g m).core 0).tlb = [wideTlb] := rfl
theorem frame_tlb : (frameS.core 0).tlb = [wideTlb] := one_tlb frameG _
theorem frame_windows : ∀ t T, frameS.team t = some T → T.wins = [] := one_windows frameG _

theorem frame_good : frameG.quadsGood := by unfold Grp.quadsGood; decide +kernel

/-- The state without the frame's bytes issues as the state with them. -/
theorem witness_HandlersReturn :
    (Ready .rfe boot (at_ .rfe boot) ∧ (at_ .rfe boot).g.frame = none) ∧
    (Ready .rfe noFrameS (at_ .rfe noFrameS) ∧ (at_ .rfe noFrameS).g.frame = some 32768 ∧ noFrameS.vaReady 0 0 .r 32768 16384 = true ∧
      ∃ b, noFrameS.readVA 0 0 32768 16384 = .ok b ∧ (at_ .rfe noFrameS).g.fromFrame b = none) ∧
    (Ready .rfe frameS (at_ .rfe frameS) ∧ (at_ .rfe frameS).g.frame = some 32768 ∧ (at_ .rfe frameS).g.pending = false ∧ frameS.vaReady 0 0 .r 32768 16384 = true ∧
      ∃ b g, frameS.readVA 0 0 32768 16384 = .ok b ∧ (at_ .rfe frameS).g.fromFrame b = some g ∧ g.gone = false) := by
  have eg : (at_ .rfe frameS).g = frameG := by decide
  have en : (at_ .rfe noFrameS).g = frameG := by decide
  refine ⟨⟨ready_at (by decide), by decide⟩, ⟨ready_at (by decide), by rw [en]; rfl, by decide, _, readVA_wide (s := noFrameS) (by decide) (one_windows _ _) _ 32768 16384 rfl (by decide) (by decide), ?_⟩,
    ready_at (by decide), by rw [eg]; rfl, by rw [eg]; rfl, by decide, ?_⟩
  · rw [en]
    have z : ((List.range 16384).map fun i => Tab.get 0 noFrameS.mem (32768 + i)) = zeros 16384 := by
      refine List.eq_replicate_iff.mpr ⟨by rw [List.length_map, List.length_range], fun b h => ?_⟩
      obtain ⟨i, _, rfl⟩ := List.mem_map.mp h
      rfl
    have q : readQuad ((((zeros 16384).drop 0x1000).drop (512 * 0)).take 512) (quadBits (~~~frameG.exited) 0) = none := by
      simp only [zeros, List.drop_replicate, List.take_replicate]
      decide +kernel
    have r : ∀ l, readQuads ((zeros 16384).drop 0x1000) (~~~frameG.exited) (0 :: l) = none := fun l => by
      unfold readQuads
      rw [q]
    rw [z]
    unfold Grp.fromFrame
    rw [show List.range 24 = 0 :: List.range' 1 23 from rfl, r]
  · obtain ⟨y, hy, hx, hq⟩ := fromFrame_frameBytes frameG frameG rfl rfl rfl (by decide) frame_good
    refine ⟨frameG.frameBytes, y, ?_, by rw [eg]; exact hy, ?_⟩
    · have r := readVA_wide frame_tlb frame_windows (16384 / 4096 + 2) 32768 16384 rfl (by decide) (by decide)
      have w := map_written [] 32768 frameG.frameBytes
      rw [frame_length _ frame_good] at w
      have m : frameS.mem = writeBytes [] 32768 frameG.frameBytes := one_mem frameG _
      rw [m, w] at r
      exact r
    · unfold Grp.gone
      rw [hx]
      decide

/-- Quad 0 parked at 4096 and 4104, quad 1 at 4104, the others there too. -/
def parkedS : State := bootG fun g => { g with quads := g.quads.map fun e => (e.1, { e.2 with path := none, park := (if e.1 = 0 then [{ pc := 4096, mask := 3 }] else []) ++ [{ pc := 4104, mask := 12 }] }) }

theorem witness_RegangsRelease :
    ((parkedS.grp 0 0).any fun g => decide (g.run = .running) && decide (g.runnable = []) && (g.quads.any fun e => e.2.park.any fun p => decide (p.pc = 4096)) &&
      g.quads.all fun e => e.2.park.all fun p => decide (4096 ≤ p.pc.toNat)) = true := by decide

/-- Halted in the course of a wait, and without one. -/
def haltS (w : List Wait) : State := bootG fun g => { g with halting := some 3, waits := w }

theorem witness_SiblingsHalt :
    (∀ w, w ∈ [[], [{ pc := 4096, start := 0 }]] → (((haltS w).grp 0 0).any fun g => decide (g.run = .running) && decide (g.halting = some 3)) = true) ∧
    (((haltS []).grp 0 0).bind Grp.choose) = some 4096 := by decide

def timeS (now : Nat) (f : Grp → Grp) : State := { handled (bootG f) with gtime := now }

theorem witness_TimersAndWatchdogsFault :
    (let s := timeS 5 fun g => { g with gtcmp := 5 }
     HandlerTakes s ((s.team 0).getD {}) (((s.grp 0 0)).getD {}) ∧ s.defers ((s.team 0).getD {}) = false ∧ s.ctime 0 = 5 ∧
       ((s.grp 0 0).any fun g => decide (g.run = .running) && !g.frozen && decide (g.choose = some 4096) && decide (g.halting = none) && decide (g.soft = none)) = true) ∧
    (timeS 4 fun g => { g with gtcmp := 5 }).ctime 0 < 5 ∧
    (let s := timeS 1025 fun g => { g with waits := [{ pc := 4096, start := 0, timed := true }] }
     HandlerTakes s ((s.team 0).getD {}) (((s.grp 0 0)).getD {}) ∧ (((s.grp 0 0)).getD {}).gtcmp = 0 ∧ (((s.grp 0 0)).getD {}).run = .running ∧ s.defers ((s.team 0).getD {}) = false ∧
       (((s.grp 0 0)).getD {}).waits.find? (fun w => w.timed && decide (1024 * max (s.ctx 0).wdog 1 < s.ctime 0 0 - w.start)) = some { pc := 4096, start := 0, timed := true }) := by
  unfold HandlerTakes
  decide

/-- Sleepers whose ticks have passed, and an acquire fence behind a release fence that a store holds. -/
def dozeW : Wait := { pc := 4096, start := 0, next := 4100, till := some 5 }
def dozeS : State := { bootG (fun g => { g with waits := [dozeW] }) with gtime := 5 }
def dozeC : State := { bootC.modCore 0 fun c => { c with courier := c.courier.map fun y => { y with wait := some dozeW } } with gtime := 5 }
def fenceS : State := (homeS (opW .store partW)).modGrp 0 0 fun g => { g with fences := [{ kind := .rel, scope := 2, bound := 1 }, { kind := .acq, scope := 2, bound := 1 }] }

theorem witness_SleepsAndFencesEnd :
    ((dozeS.grp 0 0).any fun g => decide (g.waits.find? (fun w => w.till.any fun n => decide (n ≤ dozeS.ctime 0)) = some dozeW)) = true ∧
    (((dozeC.core 0).courier).any fun y => decide (y.wait = some dozeW) && !y.stopped && decide (5 ≤ dozeC.ctime y.ctx)) = true ∧
    fenceS.loadsBefore (.grp 0 0) 1 = true ∧ fenceS.fenceDone (.grp 0 0) { kind := .rel, scope := 2, bound := 1 } = false ∧
    ((fenceS.grp 0 0).any fun g => decide (g.fences = [{ kind := .rel, scope := 2, bound := 1 }] ++ ({ kind := .acq, scope := 2, bound := 1 } : Fence) :: [])) = true := by decide

/-- A core whose quantum has passed, its team gone, with an access of its courier in flight and without. -/
def quantumS (ops : Tab MemOp) : State :=
  (({ boot with teams := [], gtime := 9, ops := ops } : State).modCtx 0 fun c => { c with quant := 9, centry := 4096 }).modCore 0 fun c => { c with slots := [], pre := true }

theorem witness_CoresChangeHands :
    (∀ ops, ops ∈ [[], [(0, { opW .store partW with who := .courier 0 })]] → let s := quantumS ops
      (s.core 0).ctx = some 0 ∧ (s.ctx 0).quant ≠ 0 ∧ (s.ctx 0).quant ≤ s.gtime - (s.core 0).since ∧ (s.core 0).pre = true ∧ s.victimsOf 0 [0] = [] ∧ (∀ e, e ∈ s.ctxs → e.2.unload = none) ∧ (s.core 0).slots = [] ∧
        s.settled 0 [] [0] = ops.isEmpty ∧ s.areaTakes 0 = true) ∧ ({ quantumS [] with ready := 0 } : State).areaTakes 0 = true ∧
    (let s := quantumS []; (s.core 0).courier = none ∧ (s.ctx 0).centry ≠ 0 ∧ 0 ∉ (s.ctx 0).courierCores ∧ (s.ctx 0).couriers = 0) := by decide

/-- The booted team, of one register and without a stash, at the expiry of its context's quantum, with a save area of 64 KiB. -/
def saveS : State :=
  ((({ bootT fun T => { T with kobj := { T.kobj with regs := 1, stash := 0 } } with gtime := 9 } : State).modCtx 0 fun c => { c with quant := 9, saveb := 1048576, savel := 65536 }).modCore 0 fun c =>
    { c with pre := true }).modCore ioCore fun c => { c with tlb := [wideTlb] }
def quantT : Team := (saveS.team 0).getD {}
def unloadS : State × Option Team := (saveS.setPre [0] true).unload 0
def savedB : List Byte := imageRecord 2 (((unloadS.2).getD {}).recordBody 0)

/-- A group record of one register a lane and no matrix operation. -/
theorem record_group (g : Grp) (h : g.quadBytes.length = 12288) (m : g.mops = []) : (g.recordBytes 1).length = 13248 := by
  have v : (g.vecBytes 1).length = 384 * 1 := flatMap_length _ 384 (fun _ => flatMap_length _ 4 (fun _ => leBytes_length _ _) 96) 1
  unfold Grp.recordBytes
  simp only [List.length_append, scalarBytes_length, predBytes_length, zeros_length, leBytes_length, hints_bytes_length, h, v, m, List.flatMap_nil, List.length_nil]

theorem record_body (T : Team) (uid : Nat) (b : T.barBytes = []) (d : T.dirtyLines = []) (r : T.kobj.regs = 1) (z : T.kobj.stash = 0) (j : Nat) (g : Grp) (e : T.groups = [(j, g)])
    (q : g.quadBytes.length = 12288) (m : g.mops = []) (o : (ownBytes (T.ownLists uid)).length = 352) (w : ((List.range 16).flatMap fun w => winBytes (Tab.find T.wins w)).length = 256)
    (k : T.kobj.bytes.length = 64) : (T.recordBody uid).length = 15640 := by
  have v := record_group g q m
  unfold Team.recordBody
  simp only [b, d, r, z, e, List.flatMap_nil, List.append_nil, List.flatMap_cons, List.length_append, zeros_length, leBytes_length, w, k, v, o, pad64, readBytes, List.length_nil, List.range_zero, Nat.zero_div]


theorem imageRecord_length {type : Nat} {b : List Byte} {n m : Nat} (h : b.length = n) (e : (8 + n + 63) / 64 * 64 - 8 - n + (8 + n) = m) : (imageRecord type b).length = m := by
  unfold imageRecord
  simp only [List.length_append, leBytes_length, zeros_length, h]
  omega

theorem one_group {T : Team} {f : Grp → Bool} (h : (T.groups.map fun e => f e.2) = [true]) : ∃ j g, T.groups = [(j, g)] ∧ f g = true := by
  cases e : T.groups with
  | nil => rw [e] at h; cases h
  | cons a l =>
    rw [e] at h
    cases l with
    | cons c l => simp at h
    | nil => exact ⟨a.1, a.2, rfl, by simpa using h⟩

theorem saved_length : savedB.length = 15680 := by
  have g : (((unloadS.2).getD {}).groups.map fun e => decide (e.2.quadBytes.length = 12288) && decide (e.2.mops = [])) = [true] := by decide +kernel
  have o : let T := (unloadS.2).getD {}
    T.barBytes = [] ∧ T.dirtyLines = [] ∧ T.kobj.regs = 1 ∧ T.kobj.stash = 0 ∧ (ownBytes (T.ownLists 0)).length = 352 ∧
      ((List.range 16).flatMap fun w => winBytes (Tab.find T.wins w)).length = 256 ∧ T.kobj.bytes.length = 64 := by decide +kernel
  obtain ⟨o1, o2, o3, o4, o5, o6, o7⟩ := o
  obtain ⟨j, y, e, g⟩ := one_group (f := fun g => decide (g.quadBytes.length = 12288) && decide (g.mops = [])) g
  rw [Bool.and_eq_true, decide_eq_true_eq, decide_eq_true_eq] at g
  exact imageRecord_length (record_body _ 0 o1 o2 o3 o4 j y e g.1 g.2 o5 o6 o7) (by decide)

theorem saved_writes : okB (unloadS.1.writeVA ioCore 0 (1048576 + 512) savedB (.save 0)) = true := by
  have h : (unloadS.1.core ioCore).tlb = [wideTlb] ∧ unloadS.1.teams = [] ∧ (unloadS.1.ctx 0).s2root = 0 ∧ unloadS.1.posted = [] := by decide +kernel
  exact writeVA_calm h.1 (fun t T f => by unfold State.team at f; rw [h.2.1] at f; cases f) h.2.2.1 h.2.2.2 _ _ _ (by rw [saved_length]; decide)

theorem witness_TeamsAreSaved :
    (((saveS.core 0).ctx = some 0 ∧ (saveS.ctx 0).quant ≠ 0 ∧ (saveS.ctx 0).quant ≤ saveS.gtime - (saveS.core 0).since ∧ (saveS.core 0).pre = true ∧ ∀ e, e ∈ saveS.ctxs → e.2.unload = none) ∧
    saveS.victimsOf 0 [0] = [0] ∧ saveS.team 0 = some quantT ∧ quantT.core = 0 ∧ quantT.ctx = 0 ∧ saveS.settled 0 [0] [0] = true ∧ saveS.areaTakes 0 = true ∧ (saveS.core 0).slots = [(quantT.slot, 0)] ∧
    (saveS.teams.map Prod.fst).Nodup ∧ (∃ e, e ∈ quantT.groups ∧ e.2.run = .running) ∧ quantT.wins = [] ∧ quantT.bars = [] ∧ quantT.gens = [] ∧ saveS.hamper = [] ∧
    (∀ e, e ∈ quantT.groups → e.2.mops = [] ∧ ∀ q, q < 24 → let y := Tab.get {} e.2.quads q
      (y.path.any fun p => decide (p.mask ≠ 0)) = true ∧ y.defer.length ≤ 4 ∧ y.park.length ≤ 4 ∧ y.ret.length ≤ 16 ∧ y.age < 2 ^ 32) ∧ (saveS.ctx 0).recordPlace 15680 = some 512) ∧
    savedB.length = 15680 ∧ okB (unloadS.1.writeVA ioCore 0 (1048576 + 512) savedB (.save 0)) = true := ⟨by decide +kernel, saved_length, saved_writes⟩

theorem witness_CountersAdd :
    let s := ({ boot with counts := [{ ctx := 0, off := 112, tag := some (1, 2) }] } : State).modCtx 0 fun c => { c with cntblk := 4096 }
    s.counts[0]? = some { ctx := 0, off := 112, tag := some (1, 2) } ∧ (s.ctx 0).cntblk = 4096 ∧ (4096 + 112) % 128 + 16 ≤ 128 ∧ s.takes (4096 + 112) = true ∧ s.ownerOf 32 = none ∧ s.lineHeld 32 = false ∧
      s.anyHeld 32 = false ∧ s.posted = [] := by decide

/-- A throttled core one of whose groups waits for a place since cycle 0: no place there, one taken by the score of the team's other group, and one taken by that group's own wait. -/
def throttledS (l : List (Nat × Nat)) (n : Nat) : State :=
  ((bootTwo.modGrp 0 0 fun g => { g with denied := some 0 }).modGrp 0 1 fun g => { g with score := 1 }).modCore 0 fun c => { c with cyc := 65536, thr := true, threshold := 4, nmem := n, admitted := l }

theorem witness_ThrottlesLetGo :
    (boot.core 0).cyc < 4096 * ((boot.core 0).halvings + 1) ∧
    (∀ l n, (l, n) ∈ [([], 0), ([], 1), ([((0 : Nat), (1 : Nat))], 1)] → let s := throttledS l n
      4096 * ((s.core 0).halvings + 1) ≤ (s.core 0).cyc ∧ (s.core 0).thr = true ∧ 2 * s.scoreSum 0 < (s.core 0).threshold ∧ s.admits 0 0 0 = false ∧
        ((s.grp 0 0).any fun g => decide (g.denied = some 0)) = true ∧ 65536 ≤ (s.core 0).cyc - 0 ∧ (s.admits 0 0 1 = true ↔ n ≠ 0)) := by
  refine ⟨by decide, fun l n h => ?_⟩
  simp only [List.mem_cons, Prod.mk.injEq, List.not_mem_nil, or_false] at h
  rcases h with ⟨rfl, rfl⟩ | ⟨rfl, rfl⟩ | ⟨rfl, rfl⟩ <;> decide

/-- At a tick: no count is late, an acknowledgement is due and another is not; the device is not the time source; numbers at the ends of their ranges. -/
theorem witness_TicksClocksAndTelemetry :
    (let s : State := { boot with acks := [{ wct := 1 }, { wct := 2 }] }; (∀ a, a ∈ s.counts → s.gtime + 1 < a.at_ + 65536) ∧ s.queues = [] ∧ s.posted = [] ∧ (∀ e, e ∈ s.teams → e.2.ending = none) ∧ s.acks.filter (fun a => decide (s.gtime + 1 < a.wct)) ≠ [] ∧
      s.acks.filter (fun a => decide (a.wct ≤ s.gtime + 1)) ≠ []) ∧
    (383 : Nat) < 384 ∧ boot.timeSource = false ∧ (zeros 256).length = 256 ∧ boot.gtime % 2 ^ 20 = 0 ∧ ({ boot with gtime := 1 } : State).gtime % 2 ^ 20 ≠ 0 ∧
    (boot.core 0).mhz ≠ 0 ∧ boot.capLast = none ∧ boot.crossed = false := by decide

/-- A power limit passed by the telemetry page, and a temperature limit passed by a die. -/
theorem witness_LimitsArePassed :
    LimitPassed { boot with powerLimit := 4, telemetry := writeBytes [] 0 (leBytes 4 5) } ∧ LimitPassed { boot with tempLimit := 0xFFFFFFFF } ∧ ¬ LimitPassed boot :=
  ⟨.inl (by decide), .inr ⟨by decide, 0, by decide, by decide⟩, by unfold LimitPassed; decide⟩

/-! ## Witnesses: engines going on -/

/-- A copy of 64 bytes from 4096, or a fill with a pattern there, to 4608; from an address of no page; and finished. -/
def copyOf (fill : Bool) (src flags : Nat) : Copy :=
  { fill := fill, serial := 1, started := true
    desc := leBytes 8 src ++ leBytes 8 4608 ++ leBytes 4 64 ++ leBytes 4 1 ++ leBytes 4 1 ++ zeros 32 ++ leBytes 2 flags ++ zeros 2 }
def copyS (c : Copy) (size : Nat) : State :=
  bootC.modCore 0 fun k => { k with courier := k.courier.map fun y => { y with copies := [c], ring := 5120, size := size } }
def copier (c : Copy) (size : Nat) : Courier := ((copyS c size).core 0).courier.getD { ctx := 0, num := 0 }

theorem witness_CopiesWriteUnits :
    (∀ c, c ∈ [copyOf true 4096 0, copyOf false 4096 0, copyOf false 4096 4] → let s := copyS c 0; let y := copier c 0
      (s.core 0).courier = some y ∧ FirstCopy y 0 c ∧ c.started = true ∧ c.flag 1 = false ∧ (∃ b tag, UnitBytes s 0 y c b tag) ∧ c.dst c.cursor < 2 ^ 60 ∧ s.tablesReady 0 y.ctx (c.dst c.cursor) = true ∧
        (∃ t, s.trans 0 y.ctx .w (c.dst c.cursor) = .ok t ∧ s.takes t.pa = true ∧ t.pa % 64 = c.dst c.cursor % 64 ∧ s.lineHeld (t.pa / 128) = false ∧ s.anyHeld (t.pa / 128) = false ∧
          s.tracks (t.dirt y.ctx 0) = false ∧ s.ownerOf (t.pa / 128) = none)) ∧
    (let c := copyOf false 65536 0; (copyS c 0).vaReady 0 0 .r (c.src c.cursor) c.unit = true ∧ errB (.translation, 65536) ((copyS c 0).readVA 0 0 (c.src c.cursor) c.unit) = true ∧ c.fill = false ∧ c.flag 0 = false) := by
  refine ⟨fun c h => ⟨by revert c; decide, ⟨by revert c; decide, by revert c; decide, fun j d hj => by omega⟩, by revert c; decide, by revert c; decide, ?_, by revert c; decide, by revert c; decide,
    valOf tr0 ((copyS c 0).trans 0 (copier c 0).ctx .w (c.dst c.cursor)), ok_of tr0 (by revert c; decide), by revert c; decide⟩, by decide⟩
  simp only [List.mem_cons, List.not_mem_nil, or_false] at h
  rcases h with rfl | rfl | rfl
  · exact ⟨_, 0, .inl ⟨rfl, rfl, rfl⟩⟩
  · exact ⟨_, _, .inr ⟨rfl, by decide, by decide, ok_of [] (by decide), ⟨_, _, ok_of tr0 (by decide), ok_of tr0 (by decide), by decide, by decide, rfl⟩, by decide⟩⟩
  · exact ⟨_, _, .inr ⟨rfl, by decide, by decide, ok_of [] (by decide), ⟨_, _, ok_of tr0 (by decide), ok_of tr0 (by decide), by decide, by decide, rfl⟩, by decide⟩⟩

def overCopy : Copy := { copyOf false 4096 0 with finished := true, done := 64 }

theorem witness_CopiesAreRecorded :
    (∀ n, n ∈ [0, 64] → let y := copier overCopy n; ((copyS overCopy n).core 0).courier = some y ∧ y.copies = overCopy :: [] ∧ overCopy.finished = true ∧ overCopy.wct ≤ (copyS overCopy n).dieNow (dieOf 0)) ∧ (copier overCopy 0).size = 0 ∧ (copier overCopy 64).size ≠ 0 ∧
    (let y := copier overCopy 64
     let s' := (copyS overCopy 64).modCore 0 fun k => { k with courier := some { y with copies := [] } }
     ∃ v w, s'.writeVA 0 y.ctx 5120 (leBytes 4 (fieldOf overCopy.desc 56 4) ++ leBytes 2 0 ++ zeros 2 ++ leBytes 8 64 ++ leBytes 8 0) (.copy 0) = .ok v ∧
       v.writeVA 0 y.ctx (5120 + 24) (leBytes 8 1) (.copy 0) = .ok w) := by
  refine ⟨fun n h => by revert n; decide, by decide, by decide, _, _, ok_of State.reset (by decide), ok_of State.reset (by decide)⟩

/-- One operation of a group whose rows stand in the booted page, as issued, and as fetched with operands that are good, bad and overwritten. -/
def matO : MatOp :=
  { batch := 0, idx := 0, acc := 0, red := false, z := true, int := false, asrc := false, bsrc := false, abase := 4096, apitch := 0, bbase := 4096, bpitch := 0, members := 1,
    lanes := 0xFFFFFFFF, alocs := [4096], blocs := [4096] }
def matS (l : List MatOp) : State := bootG fun g => { g with mops := l }

/-- The lines of the rows in L2. -/
def rowsS (l : List MatOp) : State := { matS l with lines := (List.range 4).map fun i => (32 + i, { present := true }) }

/-- Untagged rows: without an override their tags fail, with one they do not; in a party, and in none. -/
theorem witness_OperandsAreFetched :
    (∀ o, o ∈ [matO, { matO with ovr := 2 }, { matO with party := some 0 }] → let s := rowsS [o]
      Fetchable s 0 0 0 ((s.team 0).getD {}) ((s.grp 0 0).getD {}) o ∧
        (({ o with atags := s.rowTags o.asrc o.alocs, btags := s.rowTags o.bsrc o.blocs } : MatOp).tagFault = none ↔ o.ovr = 2)) ∧
    matO.party = none := by
  unfold Fetchable
  decide

def readyO : MatOp := { matO with st := .fetched, red := true }

theorem witness_TilesAreWritten :
    (let s := matS [{ matO with st := .complete }, readyO]; ((s.grp 0 0).any fun g => decide (g.mops[1]? = some readyO) && (g.mops.take 1).all fun m => decide (m.st = .complete)) = true ∧
      s.stale.contains (0, 0, readyO.batch, readyO.idx) = false ∧ readyO.red = true) ∧
    ({ matS [readyO] with stale := [(0, 0, 0, 0)] } : State).stale.contains (0, 0, readyO.batch, readyO.idx) = true ∧
    (let o : MatOp := { readyO with int := true, afmt := 4, bfmt := 4 }; o.int = true ∧ o.afmt = 4 ∧ o.bfmt = 4) := by decide

theorem witness_BatchesDrain :
    let s := bootG fun g => { g with closed := [0, 1], mops := [{ matO with st := .complete }, { matO with batch := 1 }] }
    ((s.grp 0 0).any fun g => decide (g.closed = 0 :: [1]) && g.mops.all fun m => decide (m.batch = 0 → m.st = .complete)) = true := by decide

/-- Records of a launch in a core's hamper whose group waits, with a spill log, and at their home with every team past their epoch. -/
def recH (lane : Nat) (l : HLoc) : HRec := { ctx := 0, lid := 1, pa := 4096, k := .addF32, value := 5, teamn := 0, gint := 0, lane := lane, prog := 0, epoch := 0, team := 0, loc := l }
def launch1 : Launch := { ctx := 0, lid := 1, kobj := { regs := 96, mode := 2 }, nextTeam := 1 }
def hamperS (l : HLoc) : State :=
  ({ bootG (fun g => { g with epoch := 1, waits := [{ pc := 4096, start := 0, span := 4 }] }) with hamper := [recH 1 l, recH 0 l], launches := [launch1] } : State).modCtx 0 fun c => { c with hlogl := 64 }

theorem witness_HampersFlush :
    ((hamperS (.core 0)).hamper[0]? = some (recH 1 (.core 0)) ∧ (((hamperS (.core 0)).grp 0 0).any fun g => g.waits.any fun w => decide (w.span = 4)) = true ∧ (hamperS (.core 0)).spillRoom 0 ≠ 0 ∧
      (hamperS (.core 0)).takes 4096 = true ∧ ({ hamperS (.core 0) with ready := 0 } : State).takes 4096 = false) ∧
    (let s := hamperS .home
     let recs := s.hamper.filter fun r => decide (r.ctx = 0 ∧ r.lid = 1 ∧ r.pa / 128 = 32 ∧ r.epoch = 0)
     s.launch 0 1 = some launch1 ∧ recs = [recH 1 .home, recH 0 .home] ∧ (∀ r, r ∈ s.hamper → 0 ≤ r.epoch) ∧ s.allPast launch1 0 = true ∧ s.drainable 32 = true ∧ s.ownerOf 32 = none ∧
       (∀ r, r ∈ recs → r.pa = 4096 ∧ r.loc = .home ∧ s.tracks r.dirt = false) ∧ (4096 : Nat) % 128 + 4 ≤ 128) ∧
    [recH 0 .home, recH 1 .home].Perm [recH 1 .home, recH 0 .home] ∧ [recH 0 .home, recH 1 .home].Pairwise (fun a b => a.before b = true ∧ b.before a = false) := by
  refine ⟨by decide, by decide, List.Perm.swap _ _ _, by decide⟩

/-- Sequence 0 of the team's own entry: asked for by everyone, by nobody and past its timer; and delivering, to the team and to one that is gone. -/
def seq0 (asked : List Nat) : McSeq := { n := 0, addr := 4096, len := 64, pas := [4096], asked := asked, t0 := 0 }
def seqS (q : McSeq) (now : Nat) (m : McMember) : State := { boot with gtime := now, mcast := [(0, { mcEntry 1 false [(0, m)] with seqs := [q] })] }
def outQ : McSeq := { seq0 [0] with delivering := true, due := [0], data := zeros 64, tags := [0] }

theorem witness_SequencesAreReleasedAndDelivered :
    (∀ q, q ∈ [seq0 [0], seq0 []] → ∀ now, now ∈ [0, 1] → let s := seqS q now mcMem
      (∃ e, HeldNext s 0 0 0 e q ∧ e.members = [(0, mcMem)] ∧ e.timer = 1 ∧ s.ctime e.ctx = now) ∧ ∀ a, a ∈ q.pas → s.poisonedAt a = false) ∧ mcMem.susp = false ∧
    (∀ m, m ∈ [mcMem, { mcMem with stashid := 7 }] → ∃ e, Tab.find (seqS outQ 0 m).mcast (256 * 0 + 0) = some e ∧ e.seq 0 = some outQ ∧ Tab.find e.members 0 = some m ∧ outQ.delivering = true ∧
      0 ∈ outQ.due ∧ m.susp = false ∧ 0 < m.depth + m.nrel) ∧
    (((seqS outQ 0 mcMem).team 0).any fun T => decide (T.stashid = mcMem.stashid) && T.wins.isEmpty && T.bars.isEmpty) = true ∧ outQ.data.length = 64 * outQ.tags.length ∧
    mcMem.ring + outQ.data.length ≤ mcMem.stat :=
  ⟨fun q hq now hn => ⟨⟨{ mcEntry 1 false [(0, mcMem)] with seqs := [q] }, by unfold HeldNext; revert now; revert q; decide, rfl, rfl, by revert now; revert q; decide⟩, by revert now; revert q; decide⟩,
   rfl, fun m hm => ⟨{ mcEntry 1 false [(0, m)] with seqs := [outQ] }, by revert m; decide⟩, by decide, by decide, by decide⟩

/-! ## Witnesses: pair launches, the search units, launches -/

/-- A pair launch in flight with its unit of pod 0 unbinned and binned, the record of set B in range and out of it. -/
def pairU (x : Nat) : State := withBytes (bootPair 0x08 1) 5664 (leBytes 4 x)
def binnedU (x : Nat) (f : Share → Share) (g : PairLaunch → PairLaunch) : State :=
  { pairU x with
    pairLaunches := [g { pairOf 0x08 1 with shares := [f { pod := 0, binned := true, lo := [0, 0, 0], hi := [2 ^ 150, 0, 0], edge := 2 ^ 150, cellsOn := [1, 1, 1], cells := [(0, [0])] }] }] }
def theLaunch (s : State) : PairLaunch := (s.pairLaunch 0 1).getD (pairOf 0 0)
def theShare (s : State) : Share := ((theLaunch s).share 0).getD { pod := 0 }

/-- Every home of such a state takes requests, and no line of it is held. -/
theorem takes_all {s : State} (hp : s.placement = []) (hm : s.mapChange = []) (hr : ∀ k, k < 8 → s.ready.getLsbD (28 + k) = true) (pa : Nat) : s.stackReady pa = true ∧ s.takes pa = true := by
  have a : s.stackReady pa = true := by
    unfold State.stackReady State.placed
    rw [hp]
    show (!isLocal pa || s.ready.getLsbD (28 + pa / 4096 % 8)) = true
    rw [hr _ (Nat.mod_lt _ (by decide)), Bool.or_true]
  refine ⟨a, ?_⟩
  unfold State.takes State.mapHeld
  rw [a, hm]
  rfl

theorem held_none {s : State} (hp : s.placement = []) (hm : s.mapChange = []) (hr : ∀ k, k < 8 → s.ready.getLsbD (28 + k) = true) (hl : s.lines = []) (hh : s.hamper = []) (ho : s.ops = [])
    (hq : s.posted = []) (ln : Nat) : s.lineHeld ln = false ∧ s.anyHeld ln = false := by
  unfold State.lineHeld State.drainHeld State.pageLocked State.anyHeld State.opsHeld State.postsHeld State.line
  rw [(takes_all hp hm hr (ln * 128)).1, hp, hl, hh, ho, hq]
  exact ⟨rfl, rfl⟩

/-- What holds of every entry of a table and of its default holds of what is got from it. -/
theorem get_all {α : Type} {P : α → Prop} {d : α} (hd : P d) : ∀ {t : Tab α}, (∀ e, e ∈ t → P e.2) → ∀ k, P (Tab.get d t k) := by
  intro t
  induction t with
  | nil => exact fun _ _ => hd
  | cons e t ih =>
    intro h k
    obtain ⟨j, v⟩ := e
    unfold Tab.get
    split
    · exact h (j, v) (by simp)
    · exact ih (fun y hy => h y (by simp [hy])) k

theorem witness_UnitsBin :
    let s := pairU 0
    Unhindered s ∧ s.pairLaunch 0 1 = some (pairOf 0x08 1) ∧ (pairOf 0x08 1).mode ≠ 2 ∧ podAllowed (fieldOf (pairOf 0x08 1).desc 108 4) 0 = true ∧ (pairOf 0x08 1).share 0 = none ∧
      ∀ j, j < fieldOf (pairOf 0x08 1).desc 32 4 → okB (s.position (pairOf 0x08 1) true j) = true :=
  ⟨⟨fun _ => (takes_all rfl rfl (by decide +kernel) _).2, held_none rfl rfl (by decide +kernel) rfl rfl rfl rfl, get_all (P := fun (x : Ctx) => x.dbit = false) rfl (by decide +kernel), rfl⟩, by decide +kernel⟩

theorem witness_UnitsTestCandidates :
    (∀ s, s ∈ [binnedU 0 id id, binnedU 0 id (fun p => { p with nextA := 1 }), binnedU 0 (fun h => { h with cur := some 0 }) id, binnedU 0x40000000 (fun h => { h with cur := some 0 }) id] →
      UnitOf s 0 0 1 (theLaunch s) (theShare s) ∧ (theLaunch s).mode ≠ 2 ∧ (theShare s).flush = false ∧ (theShare s).binned = true ∧ s.racesOf 0 1 = [] ∧ s.unitReady (theLaunch s) (s.unitReads (theLaunch s) (theShare s)) = true ∧ fieldOf (theLaunch s).desc 80 8 = 0) ∧
    (let s := binnedU 0 id id; (theShare s).cur = none ∧ (theLaunch s).nextA < fieldOf (theLaunch s).desc 8 4 ∧ ((valOf [] (s.position (theLaunch s) false 0)).all finite) = true ∧
      okB (s.position (theLaunch s) false 0) = true) ∧
    (let s := binnedU 0 id (fun p => { p with nextA := 1 }); (theShare s).cur = none ∧ fieldOf (theLaunch s).desc 8 4 ≤ (theLaunch s).nextA) ∧
    ∀ x, x ∈ [0, 0x40000000] → let s := binnedU x (fun h => { h with cur := some 0 }) id
      let a := valOf [] (s.position (theLaunch s) false 0)
      let b := valOf [] (s.position (theLaunch s) true 0)
      okB (s.position (theLaunch s) false 0) = true ∧ okB (s.position (theLaunch s) true 0) = true ∧ (theShare s).cur = some 0 ∧ (s.candidates (theLaunch s) (theShare s) 0 a)[(theShare s).index]? = some 0 ∧
        ((theLaunch s).inRange (((theLaunch s).geometry a b).getD 3 0) = true ↔ x = 0) := by
  unfold UnitOf
  decide +kernel

/-- A basket of one pair at 0, looked at in time and too early; flushed, with room on core 0. -/
def basketS (now : Nat) (flush : Bool) : State :=
  { bootPair 0x08 1 with
    ready := -1, gtime := now
    pairLaunches := [{ pairOf 0x08 1 with shares := [{ pod := 0, flush := flush, basket := [{ i := 0, j := 0, dx := 0, dy := 0, dz := 0, r2 := 0, cls := 0 }] }] }] }

theorem witness_BasketsBecomeGroups :
    (∀ now, now ∈ [142, 143] → ∀ b, b ∈ [false, true] → let s := basketS now b
      s.pairLaunch 0 1 = some (theLaunch s) ∧ (theLaunch s).share 0 = some (theShare s) ∧ (theShare s).basket ≠ [] ∧ (256 * 10 ≤ (s.gtime - (theShare s).basketAt) * 18 ↔ now = 143)) ∧
    (let s := basketS 0 true; (theShare s).flush = true ∧ (theShare s).basket.length ≤ 96 ∧ s.fits 0 0 (theLaunch s).kobj 1 = true ∧ (theLaunch s).ctx = 0 ∧ (theLaunch s).lid = 1) := by decide +kernel

def addS : State := { bootPair 0x08 1 with padds := [{ ctx := 0, lid := 1, va := 4096, chan := 0, q := some (-5), i := 0, j := 0, cls := 0, core := 0, pc := 4096, mop := 0, part := 0 }], ops := [(0, opW .padd partW)] }

theorem witness_AdditionsArePerformed :
    ∃ t, (addS.padds[0]?).any (fun a => decide (a.q = some (-5)) && decide (a.core = 0) && decide (a.ctx = 0) && decide (a.va = 4096) && decide (a.mop = 0) && decide (a.part = 0) && decide (a.dirt = none)) = true ∧
      addS.racesOf 0 1 = [] ∧ addS.vaTables 0 0 .rw 4096 16 = true ∧ addS.takes t.pa = true ∧ addS.checkLocal 0 0 .rw 4096 16 = .ok () ∧ addS.trans 0 0 .rw 4096 = .ok t ∧ addS.lineHeld (t.pa / 128) = false ∧ addS.anyHeld (t.pa / 128) = false ∧
      addS.tracks (t.dirt 0 0) = false ∧ addS.ownerOf (t.pa / 128) = none ∧ addS.poisonedAt t.pa = false ∧ t.pa % 16 = 0 ∧ ((BitVec.ofNat 96 (leNat (addS.cohRead t.pa 16))).toInt + -5).natAbs < 2 ^ 95 ∧
      Tab.find addS.ops 0 = some (opW .padd partW) ∧ (opW .padd partW).parts[0]? = some partW :=
  ⟨valOf tr0 (addS.trans 0 0 .rw 4096), by decide, by decide, by decide, by decide, ok_of () (by decide), ok_of tr0 (by decide), by decide⟩

/-- A pair launch that is over. -/
def overU : State := { withBytes (bootPair 0x08 1) 5120 [] with pairLaunches := [{ pairOf 0x08 1 with nextA := 1 }] }

/-- The launch marked as at its last step. -/
def overU' : State := { overU with pairLaunches := overU.pairLaunches.map fun q => if q.ctx = 0 ∧ q.lid = 1 then { q with final := true } else q }

/-- A line of its fault ring complete, and one not complete yet. -/
theorem witness_PairLaunchesComplete :
    (let p := theLaunch overU
     overU.pairLaunch 0 1 = some p ∧ p.ctx = 0 ∧ p.lid = 1 ∧ p.matched = true ∧ p.live = 0 ∧ p.final = false ∧ overU.padds = [] ∧ p.wct ≤ overU.gtime ∧ overU.counts = [] ∧
       bitOf (fieldOf p.desc 49 1) 2 = false ∧ overU.racesOf 0 1 = [] ∧ p.shared = [] ∧ overU.endReady p = true ∧ overU.srcIdle (.pairs 0 1) = true ∧ ({ overU with srcWct := [(.pairs 0 1, 5)] } : State).srcIdle (.pairs 0 1) = false ∧
       okB (overU'.writeLocal ioCore 0 (fieldOf p.desc 144 8 + 64 * (0 % (fieldOf p.desc 152 4 / 64))) (p.record 0)) = true ∧ (p.record 0).length = 64) := by decide +kernel

/-- Requests at the unit for a slot of MIN sense whose incumbent is 5: a read, a better candidate and a worse one; a broadcast. -/
def incS (read : Bool) (k : Nat) : State :=
  { boot with slots := [(0, { key := 5, payload := 5, owned := true })], increqs := [{ who := .grp 0 0, slot := 0, read := read, sd := 20, key := BitVec.ofNat 64 k }], broadcasts := [(23, [(7, ({} : Shadow), 0)])] }

theorem witness_IncumbentsAreDecided :
    (∀ b, b ∈ [true, false] → ∀ k : Nat, k ∈ [4, 6] → let r : IncReq := { who := .grp 0 0, slot := 0, read := b, sd := 20, key := BitVec.ofNat 64 k }
      (incS b k).increqs[0]? = some r ∧ (incS b k).increqs.take 0 = [] ∧ (Tab.get {} (incS b k).slots r.slot).sense = false ∧ (r.key.toNat < (Tab.get {} (incS b k).slots r.slot).key.toNat ↔ k = 4)) ∧
    Tab.get [] (incS true 4).broadcasts 23 = [] ++ (7, ({} : Shadow), 0) :: [] := by decide

/-- A task at the head of pod 0's heap, worse than the shadow and not; records of it spilled. -/
def task0 (b : Nat) : Task := { ctx := 0, lid := 1, payload := [1], bound := BitVec.ofNat 64 b, entry := 4096, slot := 0, kobj := { regs := 96 }, id := {}, order := 0 }
def heapS (b : Nat) : State :=
  { boot with ready := -1, heaps := [(0, [task0 b])], shadows := [(0, { key := 5, owned := true })], spilled := [(0, [task0 b])] }

theorem offered_one {s : State} {pod : Nat} {k : Task} (h : Tab.get [] s.heaps pod = [k]) (hk : k.slot = (Tab.get 7 s.heapTurn pod + 1 + 0) % 8) : Offered s pod k := by
  unfold Offered
  simp only [h, List.mem_singleton]
  exact ⟨trivial, ⟨0, by decide, hk, fun j hj => absurd hj (Nat.not_lt_zero j)⟩, fun q hq _ hne => absurd hq hne⟩

theorem witness_TasksAreDispatchedAndSwept :
    (∀ b : Nat, b ∈ [4, 6] → Offered (heapS b) 0 (task0 b) ∧ (worse (Tab.get {} (heapS b).shadows 0).sense (task0 b).bound (Tab.get {} (heapS b).shadows 0).key = true ↔ b = 6)) ∧
    (Tab.get {} (heapS 4).shadows 0).owned = true ∧ (Tab.get {} (heapS 4).shadows 0).owner.toNat = 0 ∧ (heapS 4).fits 0 0 { (task0 4).kobj with stash := 0 } 1 = true ∧
    (Tab.get [] (heapS 4).heaps 0).length < 3072 := by
  refine ⟨fun b hb => ⟨offered_one rfl (by revert b; decide +kernel), by revert b; decide +kernel⟩, by decide +kernel, by decide +kernel, by decide +kernel, by decide +kernel⟩

/-- An open grid at its time and a tick before, with a second child of this tick. -/
def gridG : OpenGrid := { openGrid with children := [{ pos := 0, team := 0, tick := 0 }, { pos := 64, team := 0, tick := 4096 }] }
def gridS (now : Nat) : State :=
  ({ withBytes boot 5120 [] with gtime := now, grids := [(0, [gridG])] } : State).modCtx 0 fun c => { c with child := 4096, childl := 2048 }

theorem witness_GridsAreFlushed :
    (∀ now, now ∈ [4095, 4096] → ((Tab.get [] (gridS now).grids 0)[0]?).any (fun g => (decide (g.first + 4096 ≤ (gridS now).gtime) : Bool) = decide (now = 4096)) = true) ∧
    (∀ now, now ∈ [4095, 4096] → (Tab.get [] (gridS now).grids 0)[0]? = some gridG ∧ gridG.children.length < 96 ∧ ∀ c, c ∈ gridG.children → (gridS now).teamLives c.team = true) ∧
    (gridG.children.filter fun c => decide (c.tick ≠ (gridS 4096).gtime)) = [{ pos := 0, team := 0, tick := 0 }] ∧ (gridG.children.filter fun c => decide (c.tick = (gridS 4096).gtime)) ≠ [] ∧
    (gridS 4096).vaTables ioCore 0 .w (((gridS 4096).ctx 0).childAddr 0) 768 = true ∧ (((gridS 4096).ctx 0).childTake 768).any (fun e => e.1 = 0) = true ∧
    okB ((gridS 4096).writeVA ioCore 0 (((gridS 4096).ctx 0).childAddr 0) (leBytes 8 (((gridS 4096).ctx 0).childAddr 0) ++ zeros (768 - 8)) (.child 0)) = true := by decide +kernel

/-- A queue whose tail in memory is n, with its first record of a kernel object that is none, of a good one with LID 0, and of a good one with LID 1. -/
def serveS (n lid kaddr : Nat) : State :=
  { withBytes (withBytes (withBytes mem0 4864 (leBytes 8 n)) 5376 kobjBytes) 4096 (leBytes 8 kaddr ++ zeros 8 ++ leBytes 4 1 ++ leBytes 4 1 ++ leBytes 4 1 ++ leBytes 4 lid ++ zeros 32) with queues := [(0, { onQueue with tail := if n = 1 then 1 else 0 })] }

/-- The last of them with its record in a poisoned sector. -/
def poisonedQ : State := { serveS 1 1 5376 with poison := [64] }

theorem witness_QueuesAreServed :
    (∀ n, n ∈ [0, 1, 2] → let s := serveS n 1 5376
      (Tab.get {} s.queues 0).enable = true ∧ (Tab.get {} s.queues 0).stopped = false ∧ s.queueIdle 0 = true ∧ s.vaReady ioCore 0 .r 4864 8 = true ∧ okB (s.readVA ioCore 0 4864 8) = true ∧
        ((Tab.get {} s.queues 0).tail ≤ leNat (valOf [] (s.readVA ioCore 0 4864 8)) ∧ leNat (valOf [] (s.readVA ioCore 0 4864 8)) - 0 ≤ 2 ^ 0 ↔ n ≠ 2)) ∧
    (∀ e, e ∈ [(0, 5376), (1, 5376), (1, 5120)] → let s := serveS 1 e.1 e.2
      s.takeFrom = some 0 ∧ s.takeReady (Tab.get {} s.queues 0) = true ∧ okB (s.readClean ioCore 0 4096 64) = true ∧ fieldOf (valOf [] (s.readClean ioCore 0 4096 64)) 28 4 = e.1 ∧
        fieldOf (valOf [] (s.readClean ioCore 0 4096 64)) 0 8 = e.2 ∧ (okB (s.readKObj 0 e.2) = true ↔ e.2 = 5376) ∧
        ∀ o, s.readKObj 0 e.2 = .ok o → (refusal s 0 o (valOf [] (s.readClean ioCore 0 4096 64)) = 0 ↔ e.1 = 1)) ∧
    poisonedQ.takeFrom = some 0 ∧ poisonedQ.takeReady (Tab.get {} poisonedQ.queues 0) = true ∧ errB (.uncorrectable, 4096) (poisonedQ.readClean ioCore 0 4096 64) = true ∧
    ∃ u, exec (.queueTake 0) (serveS 1 1 5376) = .next u ∧ u ≠ serveS 1 1 5376 := by
  refine ⟨by decide +kernel, fun e h => ?_, by decide +kernel, by decide +kernel, by decide +kernel, ?_⟩
  · refine ⟨by revert e; decide +kernel, by revert e; decide +kernel, by revert e; decide +kernel, by revert e; decide +kernel, by revert e; decide +kernel, by revert e; decide +kernel, fun o ho => ?_⟩
    rw [ok_of ({} : KObj) (e := (serveS 1 e.1 e.2).readKObj 0 e.2) (by rw [ho]; rfl)] at ho
    injection ho with ho
    subst ho
    revert e
    decide +kernel
  · have d : (match exec (.queueTake 0) (serveS 1 1 5376) with | .next u => decide ((Tab.get {} u.queues 0).head = 1) | _ => false) = true := by decide +kernel
    split at d
    · next u e =>
      refine ⟨u, e, fun h => ?_⟩
      rw [h] at d
      revert d
      decide +kernel
    · cases d

/-- A launch with a cluster of two by one to dispatch, its predecessor gone. -/
def dispatchS : State := { boot with ready := -1, launches := [{ ctx := 0, lid := 2, kobj := { regs := 8, cx := 2 }, gx := 4, waits := [9] }] }

/-- The same beside one of a higher PRIO that finds room. -/
def behindPrio : State := { dispatchS with launches := dispatchS.launches ++ [{ ctx := 0, lid := 3, kobj := { regs := 8, prio := 1 } }] }

theorem witness_TeamsAreDispatched :
    ∀ s, s ∈ [dispatchS, behindPrio] → ∃ l, s.launch 0 2 = some l ∧ (s.offered l = true ↔ s = dispatchS) ∧ l.ctx = 0 ∧ l.lid = 2 ∧ l.nextTeam < l.total ∧ (∀ m, m ∈ s.launches → m.order ≠ 9) ∧
      rectangle l.kobj.cx l.kobj.cy [0, 1] = true ∧ (∀ c, c ∈ [0, 1] → podAllowed l.pods (c / 16) = true) ∧ l.goneTeams = [] ∧ l.blocks = [] ∧
      (∀ r, r < l.kobj.cx * l.kobj.cy → s.fits ([0, 1].getD r 0) 0 l.kobj l.kobj.teamg = true) ∧ l.table = 0 := by
  intro s h
  simp only [List.mem_cons, List.not_mem_nil, or_false] at h
  have d : behindPrio ≠ dispatchS := fun e => absurd (congrArg (fun s => s.launches.length) e) (by decide)
  rcases h with rfl | rfl
  · exact ⟨_, rfl, ⟨fun _ => rfl, fun _ => by decide +kernel⟩, rfl, rfl, by decide, by decide, by decide, by decide, rfl, rfl, by decide, rfl⟩
  · exact ⟨_, rfl, ⟨fun h => absurd h (by decide +kernel), fun h => absurd h d⟩, rfl, rfl, by decide, by decide, by decide, by decide, rfl, rfl, by decide, rfl⟩

/-- Launches that are over: without a record, with one at 4096, and a deterministic one. -/
def doneL (done : DWord) (mode : Nat) : Launch := { ctx := 0, lid := 1, kobj := { mode := mode }, nextTeam := 1, ended := 1, done := done }
def doneS (l : Launch) : State := { withBytes boot 5120 [] with launches := [l] }

theorem witness_LaunchesComplete :
    (let l := { doneL 0 0 with ended := 0 }; (doneS l).launch 0 1 = some l ∧ l.ended < l.total) ∧
    (∀ l, l ∈ [doneL 0 0, doneL 4096 0, doneL 0 2] → (doneS l).launch 0 1 = some l ∧ l.ctx = 0 ∧ l.lid = 1 ∧ l.total ≤ l.ended ∧ l.tasks = 0 ∧ l.wct ≤ (doneS l).gtime ∧ l.hwct ≤ (doneS l).gtime ∧ (doneS l).counts = [] ∧
      (doneS l).hamper = [] ∧ l.table = 0) ∧
    (doneS (doneL 4096 0)).vaTables ioCore 0 .w 4096 16 = true ∧
    okB (({ doneS (doneL 4096 0) with launches := [] } : State).writeVA ioCore 0 4096 (leBytes 4 1 ++ leBytes 1 0 ++ zeros 3 ++ leBytes 4 0 ++ leBytes 4 1) (.done 0)) = true := by decide +kernel

/-! A saved team: its record's fixed part, and the rest of it zeros. -/

def headBytes : List Byte := leBytes 2 0 ++ zeros 2 ++ leBytes 4 18048 ++ leBytes 4 1 ++ zeros 24 ++ ({ regs := 8 } : KObj).bytes ++ zeros 12 ++ leBytes 4 1 ++ zeros 12
def record : List Byte := headBytes ++ zeros 17920
def savedT : Saved := { uid := 7, team := { lid := 1, kobj := { regs := 8 }, groups := [(0, {})] }, pos := 0, len := 18048 }
def saved0 (m : Tab Byte) : State :=
  (({ boot with mem := m, teams := [], ready := -1 } : State).modCore ioCore fun c => { c with tlb := [wideTlb] }).modCtx 0 fun c => { c with saveb := 65536, saved := [savedT] }
def savedS : State := saved0 (writeBytes [] 65536 record)

theorem head_length : headBytes.length = 128 := by decide

theorem record_length : record.length = 18048 := by rw [record, List.length_append, head_length, zeros_length]

theorem saved_mem (m : Tab Byte) : (saved0 m).mem = m := rfl
theorem saved_tlb (m : Tab Byte) : ((saved0 m).core ioCore).tlb = [wideTlb] := rfl
theorem saved_teams (m : Tab Byte) : ∀ t T, (saved0 m).team t = some T → T.wins = [] := fun t T h => by cases h

theorem saved_read : savedS.readVA ioCore 0 65536 18048 = .ok record := by
  have r := readVA_wide (s := savedS) (core := ioCore) (saved_tlb _) (saved_teams _) (18048 / 4096 + 2) 65536 18048 rfl (by decide) (by decide)
  have w := map_written [] 65536 record
  rw [record_length] at w
  have m : savedS.mem = writeBytes [] 65536 record := saved_mem _
  rw [m, w] at r
  exact r

theorem group_of_zeros (g : Grp) (b : List Byte) (qs : Tab Quad) (q : savedQuads (b.drop 512) (List.range 24) = some qs) (f : ∀ off n, field b off n = 0) :
    ∃ y, g.fromRecord b 8 [] = some y ∧ y.mops = [] := by
  have c : groupClean b 8 = true := by simp [groupClean, f]
  unfold Grp.fromRecord
  simp only [q, f, c, if_true]
  exact ⟨_, rfl, rfl⟩

/-- The group of the record is one whose lanes have all exited. -/
theorem saved_group (g : Grp) : ∃ y, g.fromRecord (zeros 15936) 8 [] = some y ∧ y.mops = [] := by
  have q : ∀ l, savedQuads ((zeros 15936).drop 512) l = some (l.map fun i => (i, (savedQuad (zeros 512)).getD {})) ∨ ∃ i, i ∈ l ∧ 24 ≤ i := by
    intro l
    induction l with
    | nil => exact .inl rfl
    | cons i l ih =>
      by_cases h : 24 ≤ i
      · exact .inr ⟨i, by simp, h⟩
      · rcases ih with ih | ⟨j, hj, hh⟩
        · have e : (((zeros 15936).drop 512).drop (512 * i)).take 512 = zeros 512 := by
            simp only [zeros, List.drop_replicate, List.take_replicate]
            congr 1
            omega
          have s : savedQuad (zeros 512) = some ((savedQuad (zeros 512)).getD {}) := by
            obtain ⟨v, h⟩ := Option.isSome_iff_exists.mp (by decide +kernel : (savedQuad (zeros 512)).isSome = true)
            rw [h]; rfl
          refine .inl ?_
          unfold savedQuads
          rw [e, ih, s]
          rfl
        · exact .inr ⟨j, by simp [hj], hh⟩
  have q := (q (List.range 24)).resolve_right fun ⟨i, h, g⟩ => by have := List.mem_range.mp h; omega
  exact group_of_zeros g _ _ q (field_zeros 15936)

theorem fits_mem (s : State) (m : Tab Byte) (c x : Nat) (k : KObj) (n : Nat) : ({ s with mem := m } : State).fits c x k n = s.fits c x k n := rfl

theorem saved_fits (m : Tab Byte) : (saved0 m).fits 0 0 savedT.team.kobj savedT.team.groups.length = true := by
  have h : (saved0 []).fits 0 0 savedT.team.kobj savedT.team.groups.length = true := by decide +kernel
  exact (fits_mem (saved0 []) m _ _ _ _).trans h

theorem record_field (off n : Nat) (h : off + n ≤ 128) : field record off n = field headBytes off n := by
  rw [record, field_left _ _ _ _ (by rw [head_length]; exact h)]

theorem record_rest (off n : Nat) (h : 128 ≤ off) : field record off n = 0 := by
  rw [record, field_right _ _ _ _ (by rw [head_length]; exact h), field_zeros]

theorem record_drop (n : Nat) (h : 128 ≤ n) : record.drop n = zeros (17920 - (n - 128)) := by
  rw [record, List.drop_append, List.drop_eq_nil_of_le (as := headBytes) (by rw [head_length]; exact h), head_length, List.nil_append, zeros, List.drop_replicate]
  rfl

/-- One group follows the fixed part, then 64 bytes that begin with a count of no lists. -/
theorem record_own : readOwn record (groupsEnd record 8 2048 1) = some ([], 18000) := by
  have e : groupsEnd record 8 2048 1 = 17984 := by
    unfold groupsEnd groupsEnd groupRecordSize
    rw [record_drop 2048 (by decide), field_zeros]
  unfold readOwn
  rw [e, record_rest 17984 16 (by decide), record_length]
  rfl

theorem record_head : ∃ h, readTeamHead record = some h ∧ h.dirty = [] ∧ h.at_ = 2048 ∧ h.ngroup = 1 ∧ h.kobj.regs = 8 ∧ h.kobj.stash = 0 ∧ h.own = [] := by
  have k : (record.drop 36).take 64 = (headBytes.drop 36).take 64 := by
    rw [record, List.drop_append_of_le_length (by rw [head_length]; decide), List.take_append_of_le_length (by rw [List.length_drop, head_length]; decide)]
  have w : ∀ i, field record (128 + 16 * i + 12) 1 = 0 := fun i => record_rest _ _ (by omega)
  have w1 : ∀ i, field record (128 + 16 * i + 13) 1 = 0 := fun i => record_rest _ _ (by omega)
  have w2 : ∀ i, field record (128 + 16 * i + 14) 2 = 0 := fun i => record_rest _ _ (by omega)
  have kk : parseKObj ((headBytes.drop 36).take 64) = some { regs := 8 } := by decide
  have f : field record 4 4 = 18048 ∧ field record 8 4 = 1 ∧ field record 12 4 = 0 ∧ field record 16 4 = 0 ∧ field record 20 4 = 0 ∧ field record 24 4 = 0 ∧ field record 28 4 = 0 ∧ field record 32 4 = 0 ∧
      field record 100 4 = 0 ∧ field record 104 8 = 0 ∧ field record 112 4 = 1 ∧ field record 116 4 = 0 ∧ field record 120 4 = 0 ∧ field record 124 4 = 0 := by
    simp only [record_field 4 4 (by decide), record_field 8 4 (by decide), record_field 12 4 (by decide), record_field 16 4 (by decide), record_field 20 4 (by decide), record_field 24 4 (by decide),
      record_field 28 4 (by decide), record_field 32 4 (by decide), record_field 100 4 (by decide), record_field 104 8 (by decide), record_field 112 4 (by decide), record_field 116 4 (by decide),
      record_field 120 4 (by decide), record_field 124 4 (by decide)]
    decide
  obtain ⟨f0, f1, f2, f3, f4, f5, f6, f7, f8, f9, f10, f11, f12, f13⟩ := f
  have kd : kindOf 0 = some .team := rfl
  unfold readTeamHead
  simp only [k, kk, kd, w, w1, w2, f0, f1, f2, f3, f4, f5, f6, f7, f8, f9, f10, f11, f12, f13, if_true, Nat.mul_zero, Nat.add_zero, Nat.zero_add, Nat.reduceDiv, Nat.reduceMul, Nat.reduceMod, record_own]
  exact ⟨_, rfl, rfl, rfl, rfl, rfl, rfl, rfl⟩

theorem team_of (T : Team) (b z : List Byte) (h : TeamHead) (y : Grp) (hh : readTeamHead b = some h) (ha : h.at_ = 2048) (hg : h.ngroup = 1) (hr : h.kobj.regs = 8) (ho : h.own = [])
    (hd : b.drop 2048 = z) (hz : field z 12808 4 = 0) (hk : z.take 15936 = zeros 15936) (hy : ((Tab.find T.groups 0).getD {}).fromRecord (zeros 15936) 8 [] = some y) (hm : y.mops = []) :
    ∃ U, T.fromRecord b = some U ∧ ∀ j g, (j, g) ∈ U.groups → g.mops = [] := by
  have r : readGroups b h.kobj.regs (fun j => (Tab.find T.groups j).getD {}) h.own h.at_ (List.range h.ngroup) = some ([(0, y)], 17984) := by
    rw [ha, hg, hr, ho, show List.range 1 = [0] from rfl]
    unfold readGroups groupRecordSize
    simp only [hd, hz, hk, hy, readGroups, Nat.mul_zero, Nat.add_zero, Nat.reduceMul, Nat.reduceAdd, List.drop_nil, List.take_nil]
  unfold Team.fromRecord
  simp only [hh, r]
  refine ⟨_, rfl, fun j g hj => ?_⟩
  simp only [List.map_cons, List.map_nil, List.mem_singleton, Prod.mk.injEq] at hj
  rw [hj.2]
  split
  · exact hm
  · exact hm

theorem saved_team : ∃ T, savedT.team.fromRecord record = some T ∧ ∀ j g, (j, g) ∈ T.groups → g.mops = [] := by
  obtain ⟨h, hh, _, ha, hg, hr, _, ho⟩ := record_head
  obtain ⟨y, hy, hm⟩ := saved_group ((Tab.find savedT.team.groups 0).getD {})
  exact team_of savedT.team record _ h y hh ha hg hr ho (record_drop 2048 (by decide)) (field_zeros _ _ _) (by simp only [zeros, List.take_replicate]; rfl) hy hm

/-- A write within one page of the wide translation is made. -/
theorem write_page {s : State} {core : Nat} (h : (s.core core).tlb = [wideTlb]) (va : Nat) (hv : va < 2 ^ 30) (src : Src) (b : List Byte) (hb : b.length ≤ 4096 - va % 4096) :
    ∃ v, s.writeVA core 0 va b src = .ok v := by
  have ok : vaOk va = true := by unfold vaOk; rw [decide_eq_true_eq]; exact Nat.lt_trans hv (by decide)
  unfold State.writeVA State.writeVAFuel
  split
  · exact ⟨s, rfl⟩
  · rw [ok, trans_wide h va hv .w (.inr rfl)]
    simp only [Bool.not_true, Bool.false_eq_true, if_false, List.drop_eq_nil_of_le hb]
    generalize b.length / 4096 + 1 = n
    cases n <;> exact ⟨_, rfl⟩

theorem saved_rest (m : Tab Byte) : let s := saved0 m
    s.savedList[0]? = some (0, savedT) ∧ (s.ctx 0).saved = [savedT] ∧ savedT.team.rank = 0 ∧ savedT.team.kobj.cx = 1 ∧ savedT.team.kobj.cy = 1 ∧ s.launch 0 savedT.team.lid = none ∧ s.mcast = [] ∧
      (s.ctx 0).saveb.toNat + savedT.pos = 65536 ∧ podAllowed (s.podsOf savedT.team) (0 / 16) = true := ⟨rfl, rfl, rfl, rfl, rfl, rfl, rfl, rfl, rfl⟩

/-- A record without dirty lines is ready where every stack is. -/
theorem ready_of {s : State} {c core : Nat} {v : Saved} {b : List Byte} {T : Team} {h : TeamHead} (a : s.allTake = true)
    (r : s.readVA ioCore c ((s.ctx c).saveb.toNat + v.pos) v.len = .ok b) (t : v.team.fromRecord b = some T) (hh : readTeamHead b = some h) (d : h.dirty = []) : s.recordReady c core v = true := by
  unfold State.recordReady
  simp only [a, r, t, hh, d, Bool.true_or, Bool.true_and, List.all_nil]

theorem saved_place (m : Tab Byte) : ((saved0 m).ctx 0).saveb.toNat + savedT.pos = 65536 := rfl
theorem saved_all (m : Tab Byte) : (saved0 m).allTake = true := by
  have a : (saved0 m).mapChange = [] := rfl
  have b : (saved0 m).ready = BitVec.allOnes 64 := rfl
  unfold State.allTake
  rw [a, b]
  decide

theorem saved_ready : savedS.recordReady 0 0 savedT = true := by
  obtain ⟨h, hh, hd, _⟩ := record_head
  obtain ⟨T, hT, _⟩ := saved_team
  exact ready_of (saved_all _) ((congrArg (fun n => savedS.readVA ioCore 0 n 18048) (saved_place _)).trans saved_read) hT hh hd

theorem saved_write (m : Tab Byte) : ∃ v, ((saved0 m).modCtx 0 fun x => { x with saved := x.saved.erase savedT }).writeVA ioCore 0 65536 [0, 0] (.save 0) = .ok v :=
  write_page (s := (saved0 m).modCtx 0 fun x => { x with saved := x.saved.erase savedT }) (saved_tlb m) 65536 (by decide) _ _ (by decide)

theorem witness_SavedTeamsComeBack :
    ∃ T h, (savedS.savedList[0]? = some (0, savedT) ∧ (savedS.ctx 0).saved = [savedT] ∧ savedT.team.rank = 0 ∧ savedT.team.kobj.cx = 1 ∧ savedT.team.kobj.cy = 1 ∧
        savedS.launch 0 savedT.team.lid = none ∧ savedS.mcast = [] ∧ (savedS.ctx 0).saveb.toNat + savedT.pos = 65536 ∧ podAllowed (savedS.podsOf savedT.team) (0 / 16) = true) ∧
      savedS.recordReady 0 0 savedT = true ∧
      savedS.fits 0 0 savedT.team.kobj savedT.team.groups.length = true ∧ savedS.readVA ioCore 0 65536 18048 = .ok record ∧ savedT.team.fromRecord record = some T ∧
      readTeamHead record = some h ∧ h.dirty = [] ∧ (∀ j g, (j, g) ∈ T.groups → g.mops = []) ∧ (savedS.ctx 0).unload = none ∧
      ∃ v, (savedS.modCtx 0 fun x => { x with saved := x.saved.erase savedT }).writeVA ioCore 0 65536 [0, 0] (.save 0) = .ok v := by
  obtain ⟨T, hT, hm⟩ := saved_team
  obtain ⟨h, hh, hd, _⟩ := record_head
  exact ⟨T, h, saved_rest _, saved_ready, saved_fits _, saved_read, hT, hh, hd, hm, rfl, saved_write _⟩

/-! ## Witnesses: the host, the peers, management, bring-up -/

def onS : State := { boot with ready := -1 }
def peerS (ports : BitVec 16) : State := { onS with peers := [(31, { ports := ports, source := false, identity := 0 })] }

/-- A queue whose TAIL the translation of its context sends to a line of the host. -/
def tailS : State :=
  { (onS.modCore ioCore fun c => { c with tlb := [{ wideTlb with pa := 4 * 2 ^ 48 }] }) with queues := [(5, { taila := 4096 })] }

theorem witness_HostReachesMemory :
    (∀ s : State, s ∈ [onS, { onS with poison := [1] }] → s.takesRange 0 256 = true ∧ s.takesRange (Config.localBytes - 4) 4 = true ∧ (s.poisonIn 0 256 = [] ↔ s.poison = []) ∧ s.ring.set = false ∧
      s.ring.kept.length + (s.poisonIn 0 256).length ≤ 64 ∧ s.takesRange (3 / 2 * 64) (((3 + 2 - 1) / 2 - 3 / 2 + 1) * 64) = true ∧
      (s.poisonIn (3 / 2 * 64) (((3 + 2 - 1) / 2 - 3 / 2 + 1) * 64) = [] ↔ s.poison = []) ∧ s.takesRange (11999999998 / 2 * 64) 64 = true) ∧
    Config.localBytes - 4 + 4 ≤ Config.localBytes ∧ OpenLine onS 124 4 ∧ 11999999998 + 2 ≤ 12000000000 ∧ OpenLine onS (64 * 1) 64 ∧
    isHost (4 * 2 ^ 48) = true ∧ (4 * 2 ^ 48) % 128 + 128 ≤ 128 ∧ onS.mapHeld (4 * 2 ^ 48) = false ∧
    Tab.find tailS.queues 5 = some { taila := 4096 } ∧ tailS.tailIn { taila := 4096 } ((4 * 2 ^ 48 + 4096) / 128) = true ∧ tailS.mapHeld (4 * 2 ^ 48 + 4096) = false := by
  unfold OpenLine
  decide

def ackPart (k : OpK) : MemOp :=
  opW k { place := .home, sector := (8 * 2 ^ 48 + 31 * 2 ^ 46) / 64, lanes := [{ lane := 0, name := 4096, addr := 8 * 2 ^ 48 + 31 * 2 ^ 46 }], st := .done 0 }

/-- A line under a page move, and one that a window owns, take loads of a peer too. -/
theorem witness_PeersReachMemory :
    (peerS 1).peerPorts 31 ≠ 0 ∧ (peerS 0).peerPorts 31 = 0 ∧ OpenLine (peerS 1) 124 4 ∧ (124 % 64 + 4 ≤ 64) ∧ OpenLine (peerS 1) 56 8 ∧ (56 % 64 + 8 ≤ 64) ∧ OpenLine (peerS 1) 64 1 ∧
    (let s : State := peerS 1
     let t : State := { s with poison := [1] }
     OpenRead s 120 8 ∧ s.poisonIn 120 8 = [] ∧ OpenRead t 120 8 ∧ t.poisonIn 120 8 = [1] ∧ s.ownerOf (120 / 128) = none) ∧
    ((homeS (ackPart .store)).part? 0 0).any (fun e => e.2.peer && e.2.st.isDone && e.1.kind.isWrite) = true := by
  unfold OpenLine OpenRead
  decide

/-- A load of a peer's byte on its way over a port. -/
def linkPart (port : Nat) : Part :=
  { place := .home, sector := (8 * 2 ^ 48 + 31 * 2 ^ 46) / 64, lanes := [{ lane := 0, name := 4096, addr := 8 * 2 ^ 48 + 31 * 2 ^ 46 }], port := some port }
def peerLoad (port : Nat) : MemOp := { opW (.load false) (linkPart port) with dst := .vec 2 1 }

theorem no_couriers {t : Tab Core} (h : ∀ x, x ∈ t → x.2.courier = none) (c : Nat) : (Tab.get ({} : Core) t c).courier = none := by
  induction t with
  | nil => rfl
  | cons x t ih =>
    obtain ⟨j, v⟩ := x
    unfold Tab.get
    split
    · exact h (j, v) (by simp)
    · exact ih fun y hy => h y (by simp [hy])

/-- A skew beyond the bound at a port that is up, whose peer has another port too, and at one that is down; a port that goes down with a load on another
port in flight, and with one on it. -/
theorem witness_LinksComeAndGo :
    onS.firmware.recovery = false ∧ ({ onS with firmware := { recovery := true } } : State).firmware.recovery = true ∧ onS.ready.getLsbD (40 + 15) = true ∧ boot.ready.getLsbD (40 + 15) = false ∧
    (let s : State := peerS 0x8001; s.portsWith 15 = [0, 15]) ∧
    (∀ c, (onS.core c).courier = none) ∧
    ∀ port, port ∈ [0, 15] → let s : State := { peerS 1 with ops := [(0, peerLoad port)] }
     s.ready.getLsbD (40 + 0) = true ∧ (linkPart port).peer = true ∧ (linkPart port).port.isSome = true ∧ ((linkPart port).onPort 0 (peerLoad port) = true ↔ port = 0) ∧ (peerLoad port).parts = [linkPart port] ∧
     (∃ a, (linkPart port).lanes = [a]) ∧ (peerLoad port).who = .grp 0 0 ∧ (s.grp 0 0).isSome = true ∧ (peerLoad port).kind = .load false ∧ (peerLoad port).dst ≠ .none := by
  refine ⟨rfl, rfl, by decide, by decide, by decide, fun c => no_couriers (t := onS.cores) (by decide) c, fun port h => ?_⟩
  simp only [List.mem_cons, List.not_mem_nil, or_false] at h
  rcases h with rfl | rfl <;> exact ⟨by decide, by decide, rfl, by decide, rfl, ⟨_, rfl⟩, rfl, by decide, rfl, by decide⟩

/-- A waiting command: its function and its arguments by offset. -/
def mg (s : State) (func : Nat) (l : List (Nat × List Byte)) : State :=
  let args : Tab Byte := l.foldl (fun t e => writeBytes t e.1 e.2) []
  { s with mgmt := { door := 1, func := BitVec.ofNat 32 func, args := args, cmds := [{ door := 1, func := BitVec.ofNat 32 func, args := args }] } }

theorem waits_of {s : State} {f : Nat} (h : s.commanded f = true) : Waits s f := by
  unfold State.commanded at h
  cases c : s.mgmt.cmds with
  | nil => rw [c] at h; simp at h
  | cons k rest =>
    rw [c] at h
    simp only [Bool.and_eq_true, Bool.not_eq_true', decide_eq_true_eq] at h
    exact ⟨h.1, k, rest, c, h.2⟩

theorem not_waits {s : State} {f : Nat} (h : s.mgmt.cmds = []) : ¬ Waits s f := fun ⟨_, k, rest, e, _⟩ => by rw [h] at e; cases e

theorem args_only {s : State} {l : List (Nat × Nat)} (h : (s.mgmt.now.args.all fun e => e.2 = 0 || l.any fun f => decide (f.1 ≤ e.1) && decide (e.1 < f.1 + f.2)) = true) : ArgsOnly s l := by
  intro o b m
  have := List.all_eq_true.mp h (o, b) m
  simp only [Bool.or_eq_true, decide_eq_true_eq, List.any_eq_true, Bool.and_eq_true] at this
  rcases this with e | ⟨⟨a, n⟩, hm, h1, h2⟩
  · exact .inl e
  · exact .inr ⟨a, n, hm, h1, h2⟩

theorem not_only {s : State} {l : List (Nat × Nat)} (h : (s.mgmt.now.args.any fun e => e.2 ≠ 0 && l.all fun f => !(decide (f.1 ≤ e.1) && decide (e.1 < f.1 + f.2))) = true) : ¬ ArgsOnly s l := by
  intro g
  obtain ⟨⟨o, b⟩, hm, hb⟩ := List.any_eq_true.mp h
  simp only [Bool.and_eq_true, decide_eq_true_eq, List.all_eq_true, Bool.not_eq_true', Bool.and_eq_false_iff, decide_eq_false_iff_not] at hb
  rcases g o b hm with e | ⟨a, n, hl, h1, h2⟩
  · exact hb.1 e
  · rcases hb.2 (a, n) hl with e | e
    · exact e h1
    · exact e h2

/-- A byte that no row lists, at 0x200. -/
theorem witness_CommandsAreCheckedFirst :
    (∀ e, e ∈ commandTable → ¬ Waits boot e.2.1 ∧ Waits (mg boot e.2.1 [(0x200, [1])]) e.2.1 ∧ ¬ ArgsOnly (mg boot e.2.1 [(0x200, [1])]) e.2.2) ∧
    (∀ f, f ∈ [0, 0x13] → Waits (mg boot f []) f ∧ (f = 0 ∨ 0x12 < f)) :=
  ⟨fun e h => ⟨not_waits rfl, waits_of (by revert e; decide), not_only (by revert e; decide)⟩, fun f h => ⟨waits_of (by revert f; decide), by revert f; decide⟩⟩

/-! A context to be set up: its areas in the first GiB, which both stages map. -/

/-- Tables of one leaf of 1 GiB for each stage, the leaves pinned. -/
def tables : Tab Byte :=
  [(32768, leBytes 8 65537), (65536, leBytes 8 69633), (69632, leBytes 8 0x5F), (98304, leBytes 8 131073), (131072, leBytes 8 135169), (135168, leBytes 8 0xDF)].foldl
    (fun t (e : Nat × List Byte) => writeBytes t e.1 e.2) []

def setupArgs (c : Nat) : List (Nat × List Byte) :=
  [(0x10, leBytes 1 c), (0x20, leBytes 8 32769), (0x28, leBytes 8 98305), (0x48, leBytes 8 0x100000), (0x50, leBytes 8 65536), (0x58, leBytes 8 0x200000), (0x60, leBytes 8 98304),
   (0x68, leBytes 8 0x300000), (0x70, leBytes 8 65536), (0x78, leBytes 8 0x400000), (0x80, leBytes 8 (2 ^ 20))]

def setupS (m : Tab Byte) : State := mg { boot with mem := m } 0x01 (setupArgs 1)
def setupE (m : Tab Byte) : Ctx := { entryOf (setupS m) with gap := (setupS m).gtime, left := (setupS m).gtime }
def setupT (m : Tab Byte) : State := ((setupS m).tlbDrop 1 (invalidates 1 3 0)).modCtx 1 fun _ => setupE m

theorem walk_low (rd : Nat → Except FCode Nat) (fc : FCode) (st1 : Bool) (va base b3 b2 e2 : Nat) (hv : va < 2 ^ 30) (h4 : rd base = .ok (b3 + 1)) (h3 : rd b3 = .ok (b2 + 1)) (h2 : rd b2 = .ok e2)
    (a3 : b3 % 4096 = 0 ∧ b3 < 2 ^ 52) (a2 : b2 % 4096 = 0 ∧ b2 < 2 ^ 52) (l : bitOf e2 0 = true ∧ bitOf e2 1 = true) : walkFrom rd fc st1 va base levels = leafOf fc st1 2 e2 b2 := by
  have n4 : va / 2 ^ (12 + 9 * 4) = 0 := Nat.div_eq_of_lt (Nat.lt_of_lt_of_le hv (by decide))
  have n3 : va / 2 ^ (12 + 9 * 3) = 0 := Nat.div_eq_of_lt (Nat.lt_of_lt_of_le hv (by decide))
  have n2 : va / 2 ^ (12 + 9 * 2) = 0 := Nat.div_eq_of_lt (Nat.lt_of_lt_of_le hv (by decide))
  have t : ∀ b, b % 4096 = 0 ∧ b < 2 ^ 52 → bitOf (b + 1) 0 = true ∧ bitOf (b + 1) 1 = false ∧ (b + 1) / 2 ^ 52 = 0 ∧ (b + 1) / 4 % 2 ^ 10 = 0 ∧ (b + 1) / 4096 * 4096 = b := by
    intro b ⟨h, g⟩
    unfold bitOf
    simp only [decide_eq_true_eq, decide_eq_false_iff_not]
    refine ⟨by omega, by omega, Nat.div_eq_of_lt (by omega), by omega, by omega⟩
  obtain ⟨p0, p1, p2, p3, p4⟩ := t b3 a3
  obtain ⟨q0, q1, q2, q3, q4⟩ := t b2 a2
  unfold levels
  unfold walkFrom
  simp only [n4, Nat.zero_mod, Nat.mul_zero, Nat.add_zero, h4, p0, p1, p2, p3, p4, Bool.not_true, Bool.false_eq_true, if_false, ne_eq, not_true_eq_false, or_self, Nat.reduceEqDiff]
  unfold walkFrom
  simp only [n3, Nat.zero_mod, Nat.mul_zero, Nat.add_zero, h3, q0, q1, q2, q3, q4, Bool.not_true, Bool.false_eq_true, if_false, ne_eq, not_true_eq_false, or_self, Nat.reduceEqDiff]
  unfold walkFrom
  simp only [n2, Nat.zero_mod, Nat.mul_zero, Nat.add_zero, h2, l.1, l.2, Bool.not_true, Bool.false_eq_true, if_false, if_true]

def leaf1 : LeafAt := { out := 0, size := 2 ^ 30, r := true, w := true, x := true, pin := true, d := true, ea := 69632 }
def leaf2 : LeafAt := { out := 0, size := 2 ^ 30, r := true, w := true, x := true, pin := true, d := true, ea := 135168 }

/-- What is needed of a state whose context `c` walks those tables. -/
def Walks (s : State) (c : Nat) : Prop :=
  (s.ctx c).s1root = 32769 ∧ (s.ctx c).s2root = 98305 ∧ (∀ ipa, s.s2Hit ioCore c ipa = none) ∧ ∀ e, e ∈ [(32768, 65537), (65536, 69633), (69632, 0x5F), (98304, 131073), (131072, 135169), (135168, 0xDF)] → leNat (s.cohRead e.1 8) = e.2

theorem backed_low (s : State) (pa : Nat) (h : pa < 2 ^ 30) : s.backed pa = true := by
  unfold State.backed
  have : pa < Config.localBytes := Nat.lt_of_lt_of_le h (by decide)
  simp [this]

theorem stage2_low {s : State} {c : Nat} (h : Walks s c) (ipa : Nat) (hv : ipa < 2 ^ 30) : s.stage2 c ipa = .ok leaf2 := by
  obtain ⟨_, r2, _, m⟩ := h
  have b : ∀ pa, pa < 2 ^ 30 → s.entry2 pa = .ok (leNat (s.cohRead pa 8)) := fun pa h => by unfold State.entry2; rw [if_pos (backed_low s pa h)]
  unfold State.stage2
  rw [r2]
  have g : ¬ ((!bitOf (98305 : DWord).toNat 0) = true ∨ 2 ^ 52 ≤ ipa) := by
    intro h
    rcases h with h | h
    · exact absurd h (by decide)
    · exact absurd (Nat.lt_of_lt_of_le hv (by decide : 2 ^ 30 ≤ 2 ^ 52)) (Nat.not_lt.mpr h)
  rw [if_neg g, show rootOf 98305 = 98304 by decide]
  refine (walk_low _ _ _ ipa 98304 131072 135168 0xDF hv ?_ ?_ ?_ (by decide) (by decide) (by decide)).trans rfl
  · rw [b _ (by decide), m (98304, 131073) (by decide)]
  · rw [b _ (by decide), m (131072, 135169) (by decide)]
  · rw [b _ (by decide), m (135168, 0xDF) (by decide)]

theorem stage2_on {s : State} {c : Nat} (h : Walks s c) (ipa : Nat) (hv : ipa < 2 ^ 30) : s.stage2On ioCore c ipa = .ok leaf2 := by
  unfold State.stage2On
  rw [h.2.2.1 ipa]
  simp only [stage2_low h ipa hv]
  rfl

theorem stage1_low {s : State} {c : Nat} (h : Walks s c) (va : Nat) (hv : va < 2 ^ 30) : s.stage1 c va = .ok leaf1 := by
  have w : ∀ ia, ia < 2 ^ 30 → s.entry1 ioCore c ia = .ok (leNat (s.cohRead ia 8)) := fun ia hi => by
    unfold State.entry1
    rw [stage2_on h ia hi]
    simp only [leaf2, Nat.mod_eq_of_lt hi, Nat.zero_add]
    unfold State.entry2
    rw [if_pos (backed_low s ia hi)]
  obtain ⟨r1, _, _, m⟩ := h
  unfold State.stage1
  rw [r1]
  rw [if_neg (by decide), show rootOf 32769 = 32768 by decide]
  refine (walk_low _ _ _ va 32768 65536 69632 0x5F hv ?_ ?_ ?_ (by decide) (by decide) (by decide)).trans rfl
  · rw [w _ (by decide), m (32768, 65537) (by decide)]
  · rw [w _ (by decide), m (65536, 69633) (by decide)]
  · rw [w _ (by decide), m (69632, 0x5F) (by decide)]

theorem trans_low {s : State} {c : Nat} (h : Walks s c) (hc : ∀ va, s.tlbHit ioCore c va = none) (va : Nat) (hv : va < 2 ^ 30) (k : Acc) :
    s.trans ioCore c k va = .ok { pa := va, leaf := 135168, d := true, ipa := va, lsz := 2 ^ 30 } := by
  have e : va % 2 ^ 30 = va := Nat.mod_eq_of_lt hv
  unfold State.trans
  rw [hc, stage1_low h va hv]
  simp only [leaf1, e, Nat.zero_add, stage2_on h va hv, leaf2, backed_low s va hv]
  cases k <;> rfl

theorem local_low (pa : Nat) (h : pa < 2 ^ 30) : isLocal pa = true := by
  unfold isLocal region
  rw [Nat.div_eq_of_lt (Nat.lt_of_lt_of_le h (by decide))]
  rfl

theorem va_low (va : Nat) (h : va < 2 ^ 30) : vaOk va = true := by
  unfold vaOk
  rw [decide_eq_true_eq]
  exact Nat.lt_trans h (by decide)

theorem check_low {s : State} {c : Nat} (h : Walks s c) (hc : ∀ va, s.tlbHit ioCore c va = none) (k : Acc) (fuel va n : Nat) (hv : va + n < 2 ^ 30) : s.checkLocalFuel ioCore c k fuel va n = .ok () := by
  induction fuel generalizing va n with
  | zero => rfl
  | succ fuel ih =>
    unfold State.checkLocalFuel
    split
    · rfl
    · rw [va_low va (by omega), trans_low h hc va (by omega) k]
      simp only [local_low va (by omega), Bool.not_true, Bool.false_eq_true, if_false]
      exact ih _ _ (by omega)

theorem pinned_low {s : State} {c : Nat} (h : Walks s c) (k : Acc) (fuel va n : Nat) (hv : va + n < 2 ^ 30) : s.pinnedFuel c k fuel va n = true := by
  induction fuel generalizing va n with
  | zero => rfl
  | succ fuel ih =>
    unfold State.pinnedFuel
    split
    · rfl
    · have e : va % 2 ^ 30 = va := Nat.mod_eq_of_lt (by omega)
      rw [va_low va (by omega), stage1_low h va (by omega)]
      simp only [leaf1, e, Nat.zero_add, stage2_low h va (by omega), leaf2, Bool.not_true, Bool.false_eq_true, if_false]
      rw [ih _ _ (by omega)]
      cases k <;> rfl

theorem setup_walks : Walks (setupT tables) 1 := by
  refine ⟨by decide, by decide, fun ipa => ?_, by decide⟩
  unfold State.s2Hit
  rw [show Tab.get [] (setupT tables).l2tlb (podOf ioCore) = [] by decide]
  rfl

theorem setup_hit (va : Nat) : (setupT tables).tlbHit ioCore 1 va = none := by
  unfold State.tlbHit tlbFind
  rw [show ((setupT tables).core ioCore).tlb = [] by decide, show Tab.get [] (setupT tables).l2tlb (podOf ioCore) = [] by decide]
  rfl

theorem setup_areas : (setupT tables).areasOk 1 = true := by
  have ck := fun a n h => check_low setup_walks setup_hit .rw (n / 4096 + 2) a n h
  have pn := fun a n h => pinned_low setup_walks .rw (n / 4096 + 2) a n h
  have e : ((setupT tables).ctx 1).saveb = 0x100000 ∧ ((setupT tables).ctx 1).savel = 65536 ∧ ((setupT tables).ctx 1).tspill = 0x200000 ∧ ((setupT tables).ctx 1).tspilll = 98304 ∧
      ((setupT tables).ctx 1).child = 0x300000 ∧ ((setupT tables).ctx 1).childl = 65536 ∧ ((setupT tables).ctx 1).hlog = 0x400000 ∧ ((setupT tables).ctx 1).hlogl = 0x100000 ∧
      ((setupT tables).ctx 1).pscr = 0 ∧ ((setupT tables).ctx 1).pscrl = 0 ∧ ((setupT tables).ctx 1).handler = 0 ∧ ((setupT tables).ctx 1).centry = 0 := by decide
  obtain ⟨e1, e2, e3, e4, e5, e6, e7, e8, e9, e10, e11, e12⟩ := e
  have q : ∀ a l : DWord, a.toNat + l.toNat < 2 ^ 30 → (setupT tables).checkLocal ioCore 1 .rw a.toNat l.toNat = .ok () := fun a l h => ck _ _ h
  unfold State.areasOk State.pinned
  simp only [e1, e2, e3, e4, e5, e6, e7, e8, e9, e10, e11, e12, State.handlerOk]
  rw [q _ _ (by decide), q _ _ (by decide), q _ _ (by decide), q _ _ (by decide), q _ _ (by decide), pn _ _ (by decide)]
  simp only [decide_true, Bool.true_or, Bool.and_true]

/-- A function's arguments within its limits, while context 0 is being saved. -/
def saveNow (f : Nat) (l : List (Nat × List Byte)) : State :=
  ((mg boot f l).modCore 0 fun c => { c with ctx := some 0, pre := true }).modCtx 0 fun c => { c with couriers := 1 }

def NamedInSave (f : Nat) (l : List (Nat × List Byte)) (fields : List (Nat × Nat)) : Prop :=
  let s := saveNow f l
  Waits s f ∧ ArgsOnly s fields ∧ InLimits s f ∧ s.begun = false ∧ s.midSave (namedBy s f) = true

theorem witness_SavesHoldOtherCommands :
    NamedInSave 0x01 (setupArgs 0) [(0x10, 1), (0x14, 0x98)] ∧ (∀ f, f ∈ [0x02, 0x08, 0x09] → NamedInSave f [] [(0x10, 4)]) ∧ NamedInSave 0x0A [] [(0x10, 4)] ∧ NamedInSave 0x04 [] [(0x10, 16)] ∧
    NamedInSave 0x07 [] [(0x10, 12)] ∧ (∀ l, l ∈ [[(0x14, leBytes 4 3)], [(0x14, leBytes 4 2), (0x18, leBytes 8 4096)]] → NamedInSave 0x0B l [(0x10, 16)]) ∧
    NamedInSave 0x0F [(0x18, leBytes 4 3)] [(0x10, 12), (0x40, 64)] := by
  have k : ∀ f l fields, (saveNow f l).commanded f = true → ((saveNow f l).mgmt.now.args.all fun e => e.2 = 0 || fields.any fun g => decide (g.1 ≤ e.1) && decide (e.1 < g.1 + g.2)) = true →
      InLimits (saveNow f l) f → (saveNow f l).midSave (namedBy (saveNow f l) f) = true → NamedInSave f l fields := fun f l fields a b c d => ⟨waits_of a, args_only b, c, rfl, d⟩
  refine ⟨k _ _ _ (by decide +kernel) (by decide +kernel) (And.intro (by decide +kernel) (by decide +kernel)) (by decide +kernel), fun f h => ?_, k _ _ _ (by decide) (by decide) (show argOf (saveNow 0x0A []) 0x10 4 < 64 by decide) (by decide), k _ _ _ (by decide) (by decide) (And.intro (by decide) (by decide)) (by decide),
    k _ _ _ (by decide) (by decide) (And.intro (by decide) (by decide)) (by decide), fun l h => ?_, k _ _ _ (by decide) (by decide) (And.intro (by decide) (by decide)) (by decide)⟩
  · simp only [List.mem_cons, List.not_mem_nil, or_false] at h
    rcases h with rfl | rfl | rfl <;> exact k _ _ _ (by decide) (by decide) (And.intro (by decide) (by decide)) (by decide)
  · simp only [List.mem_cons, List.not_mem_nil, or_false] at h
    rcases h with rfl | rfl <;> exact k _ _ _ (by decide) (by decide) (And.intro (by decide) (by decide)) (by decide)

/-- Good arguments with tables and without; limits broken; a context with work and one without. -/
theorem witness_ContextsAreSetUpAndRemoved :
    (∀ m, m ∈ [tables, []] → Waits (setupS m) 0x01 ∧ ArgsOnly (setupS m) [(0x10, 1), (0x14, 0x98)] ∧ bitOf (argOf (setupS m) 0x10 1) 6 = false ∧ (entryOf (setupS m)).limits = true ∧
      argOf (setupS m) 0x10 1 % 64 = 1 ∧ ((setupS m).ctx 1).live = false ∧ (setupS m).midSave 1 = false) ∧
    (setupT tables).areasOk 1 = true ∧ (setupT []).areasOk 1 = false ∧ (entryOf (mg boot 0x01 [])).limits = false ∧
    (∀ l, l ∈ [boot.teams, []] → let s := mg { boot with teams := l } 0x02 []
      Waits s 0x02 ∧ ArgsOnly s [(0x10, 4)] ∧ argOf s 0x10 4 = 0 ∧ (s.ctx 0).live = true ∧ (s.busy 0 = true ↔ l ≠ []) ∧ s.midSave 0 = false) :=
  ⟨fun m h => ⟨waits_of (by revert m; decide), args_only (by revert m; decide +kernel), by revert m; decide +kernel, by revert m; decide +kernel, by revert m; decide +kernel, by revert m; decide +kernel, by revert m; decide +kernel⟩, setup_areas,
   by decide +kernel, by decide +kernel, fun l h => ⟨waits_of (by revert l; decide), args_only (by revert l; decide), by revert l; decide, by revert l; decide, by revert l; decide, by revert l; decide⟩⟩

/-- Functions 0x03 to 0x06: a descriptor that breaks its limits and a good one; a courier; a core, every core and none; a slot. -/
theorem witness_QueuesCouriersCoresAndSlotsAreSet :
    (∀ l, l ∈ [[(0x10, leBytes 4 127), (0x58, leBytes 1 1)], [(0x10, leBytes 4 127), (0x58, leBytes 1 17)]] → let s := mg boot 0x03 l
      Waits s 0x03 ∧ ArgsOnly s [(0x10, 4), (0x40, 64)] ∧ argOf s 0x10 4 = 127 ∧ (s.mgmt.now.queue (Tab.get {} s.queues 127) = none ↔ argOf s 0x58 1 = 17)) ∧
    (let s := (mg bootC 0x04 []).modCtx 0 fun c => { c with couriers := 1 }
     Waits s 0x04 ∧ ArgsOnly s [(0x10, 16)] ∧ argOf s 0x10 4 = 0 ∧ (s.ctx 0).live = true ∧ argOf s 0x14 4 < (s.ctx 0).couriers ∧ s.midSave 0 = false) ∧
    (∀ n, n ∈ [383, 384, 0xFFFFFFFF] → let s := mg boot 0x05 [(0x10, leBytes 4 n), (0x14, leBytes 4 3)]
      Waits s 0x05 ∧ ArgsOnly s [(0x10, 8)] ∧ argOf s 0x10 4 = n) ∧
    (let s : State := { mg boot 0x05 [(0x14, leBytes 4 3)] with launches := [launch1] }
     Waits s 0x05 ∧ ArgsOnly s [(0x10, 8)] ∧ argOf s 0x10 4 = 0 ∧ (BitVec.ofNat 32 (argOf s 0x14 4)).getLsbD 1 = true ∧
       (s.teams.any fun e => decide (e.2.kind ≠ .pair) && e.2.ctx = launch1.ctx && e.2.lid = launch1.lid && e.2.core = 0) = true) ∧
    (let s := mg boot 0x06 [(0x10, leBytes 4 7), (0x14, leBytes 4 0x80000001)]; Waits s 0x06 ∧ ArgsOnly s [(0x10, 24)] ∧ argOf s 0x10 4 < 8) :=
  ⟨fun l h => ⟨waits_of (by revert l; decide), args_only (by revert l; decide), by revert l; decide, by revert l; decide⟩,
   ⟨waits_of (by decide), args_only (by decide), by decide, by decide, by decide, by decide⟩, fun n h => ⟨waits_of (by revert n; decide), args_only (by revert n; decide), by revert n; decide⟩,
   ⟨waits_of (by decide), args_only (by decide), by decide, by decide, by decide⟩, waits_of (by decide), args_only (by decide), by decide⟩

/-- A launch whose only team has not been dispatched, and one whose team is resident, with nothing in flight and with a store. -/
def killS (lid next : Nat) (ops : Tab MemOp) : State :=
  { mg boot 0x07 [(0x14, leBytes 4 lid), (0x18, leBytes 4 0xFFFFFFFF)] with launches := [{ ctx := 0, lid := lid, kobj := {}, nextTeam := next }], ops := ops }

theorem witness_KillsEndTeams :
    ∀ e, e ∈ [(2, 0), (1, 1)] → ∀ ops, ops ∈ [[], [(0, opW .store partW)]] → let s := killS e.1 e.2 ops
      Waits s 0x07 ∧ ArgsOnly s [(0x10, 12)] ∧ argOf s 0x10 4 = 0 ∧ (s.ctx 0).live = true ∧ s.midSave 0 = false ∧ argOf s 0x14 4 = e.1 ∧ argOf s 0x18 4 = 0xFFFFFFFF ∧
        (∃ l, s.launches.filter (fun m => decide (m.ctx = 0) && decide (m.lid = e.1)) = [l] ∧ l.lid = e.1 ∧ l.ctx = 0 ∧ l.goneTeams = [] ∧ l.blocks = [] ∧ l.nextTeam ≤ l.total ∧ l.total ≤ 0xFFFFFFFE) ∧
        (s.ctx 0).saved = [] ∧ (s.mayEnd 0 = true ↔ ops = []) ∧
        if e.2 = 0 then ∀ x, x ∈ s.teams → x.2.kind = .team → x.2.ctx = 0 → x.2.lid ≠ 2
        else ∃ T, s.teams = [(0, T)] ∧ s.team 0 = some T ∧ T.ending = none ∧ s.teams.filter (fun e' => decide (e'.2.kind = .team) && decide (e'.2.ctx = 0) && decide (e'.2.lid = 1)) = [(0, T)] := by
  intro e h ops ho
  refine ⟨waits_of (by revert ops; revert e; decide), args_only (by revert ops; revert e; decide), by revert ops; revert e; decide, by revert ops; revert e; decide, by revert ops; revert e; decide, by revert ops; revert e; decide,
    by revert ops; revert e; decide, ?_, by revert ops; revert e; decide, by revert ops; revert e; decide, ?_⟩
  · exact ⟨{ ctx := 0, lid := e.1, kobj := {}, nextTeam := e.2 }, by revert ops; revert e; decide⟩
  · simp only [List.mem_cons, List.not_mem_nil, or_false] at h
    rcases h with rfl | rfl
    · simp only [if_true]
      revert ops
      decide
    · rw [if_neg (by decide)]
      exact ⟨(boot.team 0).getD {}, by revert ops; decide, by revert ops; decide, by decide, by revert ops; decide⟩

/-- A context without teams, with an access of its courier in flight and without; a save area of no size, and one that holds the image; an image that is none. -/
def idleS (func : Nat) (ops : Tab MemOp) (n : DWord) : State :=
  (({ withBytes (mg onS func []) 5120 [] with teams := [], ops := ops } : State).modCore 0 fun c => { c with slots := [] }).modCtx 0 fun c => { c with saveb := 4096, savel := n }
def courierOp : MemOp := { opW .store partW with who := .courier 0 }

/-- A whole save begun, a unit of the search part-way through a cell or at its boundary; one whose writes are complete at once, since the dies' copies of
GTIME are 2 ticks behind; and the context it leaves, with the image in memory. -/
def wholeS (n : DWord) (ops : Tab MemOp) (index : Nat) : State :=
  { idleS 0x09 ops n with pairLaunches := [{ pairOf 0x08 1 with shares := [{ pod := 0, cur := some 0, index := index }] }] }
def laggedS : State := { idleS 0x09 [] 1024 with gtime := 2, lags := [(0, 2), (1, 2), (2, 2), (3, 2)] }
def savedW : State := (valOf (boot, 0) ((laggedS.begin.setPre [0] true).saveWhole 0 [0])).1
def imageS : State := { mg (savedW.setPre [0] false) 0x0A [] with ops := [] }

/-- The second call of a command whose save has left the cores: a write of it still waits or not. -/
def waitS (func : Nat) (l : List Posted) : State := { (idleS func [] 1024).begin.modCtx 0 fun c => { c with unload := some { func := func, result := 0, cores := [0] } } with posted := l }

/-- The writes of a save that is under way are complete. -/
def donePre (s : State) : Bool :=
  s.saveDone 0 && decide (((s.coresWith 0).foldl State.parkCourier s).ctxWct 0 ≤ s.gtime) && (s.coresWith 0).all fun k => s.srcIdle (.copy k)

theorem witness_ContextsAreSaved :
    ∀ ops, ops ∈ [[], [(0, courierOp)]] → ∀ l, l ∈ [[], [{ src := .save 0, pa := 4096, bs := [0] }]] → let s : State := { idleS 0x08 ops 0 with posted := l }
      Waits s 0x08 ∧ ArgsOnly s [(0x10, 4)] ∧ argOf s 0x10 4 = 0 ∧ (s.ctx 0).live = true ∧ s.midSave 0 = false ∧ (s.ctx 0).unload = none ∧ s.coresWith 0 = [0] ∧ s.victimsOf 0 (s.coresWith 0) = [] ∧
        (s.settled 0 [] (s.coresWith 0) = true ↔ ops = []) ∧ s.areaTakes 0 = true ∧ (donePre s = true ↔ l = []) :=
  fun ops ho l hl => ⟨waits_of (by revert l; revert ops; decide), args_only (by revert l; revert ops; decide), by revert l; revert ops; decide, by revert l; revert ops; decide, by revert l; revert ops; decide,
    by revert l; revert ops; decide, by revert l; revert ops; decide, by revert l; revert ops; decide, by revert l; revert ops; decide, by revert l; revert ops; decide, by revert l; revert ops; decide⟩

/-- A save area that cannot be reached: its stack is not ready. -/
theorem witness_SavesNeedTheirArea :
    (let s : State := { idleS 0x08 [] 1024 with ready := 0 }
     s.areaTakes 0 = false ∧ s.midSave 0 = false ∧ Waits s 0x08 ∧ (s.ctx 0).live = true) ∧
    (let s : State := { idleS 0x0A [] 1024 with ready := 0 }
     s.areaTakes 0 = false ∧ s.midSave 0 = false ∧ Waits s 0x0A ∧ (s.ctx 0).live = true) :=
  ⟨⟨by decide, by decide, waits_of (by decide), rfl⟩, by decide, by decide, waits_of (by decide), rfl⟩

theorem witness_WholeSavesBegin (ops : Tab MemOp) (ho : ops ∈ [[], [(0, courierOp)]]) (k : Nat) (hk : k ∈ [0, 1]) : let s := wholeS 0 ops k
    let t := s.begin.setPre [0] true
    Waits s 0x09 ∧ ArgsOnly s [(0x10, 4)] ∧ argOf s 0x10 4 = 0 ∧ (s.ctx 0).live = true ∧ s.midSave 0 = false ∧ (s.ctx 0).saving = false ∧ (s.ctx 0).unload = none ∧ s.coresWith 0 = [0] ∧
      (t.settled 0 (t.victimsOf 0 [0]) [0] = true ↔ ops = []) ∧ t.areaTakes 0 = true ∧
      ∀ p, p ∈ s.pairLaunches → ∀ h, h ∈ p.shares → p.ctx = 0 ∧ (t.atBoundary p h = true ↔ k = 0) :=
  ⟨waits_of (by revert k; revert ops; decide), args_only (by revert k; revert ops; decide), by revert k; revert ops; decide, by revert k; revert ops; decide, by revert k; revert ops; decide,
    by revert k; revert ops; decide, by revert k; revert ops; decide, by revert k; revert ops; decide, by revert k; revert ops; decide +kernel, by revert k; revert ops; decide +kernel,
    by revert k; revert ops; decide +kernel⟩

theorem witness_WholeSavesEnd :
    (let t := laggedS.begin.setPre [0] true
     Waits laggedS 0x09 ∧ ArgsOnly laggedS [(0x10, 4)] ∧ argOf laggedS 0x10 4 = 0 ∧ (laggedS.ctx 0).live = true ∧ laggedS.midSave 0 = false ∧ (laggedS.ctx 0).saving = false ∧ (laggedS.ctx 0).unload = none ∧
      laggedS.coresWith 0 = [0] ∧ t.settled 0 (t.victimsOf 0 [0]) [0] = true ∧ t.areaTakes 0 = true ∧ laggedS.pairLaunches = []) ∧
    okB ((laggedS.begin.setPre [0] true).saveWhole 0 [0]) = true ∧ (savedW.saveDone 0 && [0].all fun k => savedW.srcIdle (.copy k)) = true ∧
    (let s := { laggedS with lags := [] }
     let r := (s.begin.setPre [0] true).saveWhole 0 [0]
     okB r = true ∧ (valOf (boot, 0) r).1.saveDone 0 = false) ∧
    okB (((wholeS 0 [] 0).begin.setPre [0] true).saveWhole 0 [0]) = false :=
  ⟨⟨waits_of (by decide), args_only (by decide), by decide, by decide, by decide, by decide, by decide, by decide, by decide, by decide, rfl⟩, by decide +kernel, by decide +kernel, by decide +kernel, by decide +kernel⟩

theorem witness_SavesWait (f : Nat) (hf : f ∈ [0x08, 0x09]) (l : List Posted) (hl : l ∈ [[], [{ src := .save 0, pa := 4096, bs := [0] }]]) : let s := waitS f l
    Waits s f ∧ ArgsOnly s [(0x10, 4)] ∧ argOf s 0x10 4 = 0 ∧ (s.ctx 0).live = true ∧ (s.ctx 0).unload = some { func := f, result := 0, cores := [0] } ∧ s.begun = true ∧
      ((s.saveDone 0 && [0].all fun k => s.srcIdle (.copy k)) = true ↔ l = []) :=
  ⟨waits_of (by revert l; revert f; decide), args_only (by revert l; revert f; decide), by revert l; revert f; decide, by revert l; revert f; decide, by revert l; revert f; decide,
    by revert l; revert f; decide, by revert l; revert f; decide⟩

/-- A state whose context can be restored from its image. -/
def imageB (s : State) : Bool :=
  s.commanded 0x0A && decide (argOf s 0x10 4 = 0) && !s.midSave 0 && (s.ctx 0).live && s.allTake && okB (s.readImage 0)

theorem witness_ContextsAreRestored :
    (let s : State := { idleS 0x0A [] 1024 with ctxs := [] }; Waits s 0x0A ∧ ArgsOnly s [(0x10, 4)] ∧ argOf s 0x10 4 = 0 ∧ s.midSave 0 = false ∧ (s.ctx 0).live = false) ∧
    (let s := idleS 0x0A [] 1024
     Waits s 0x0A ∧ ArgsOnly s [(0x10, 4)] ∧ argOf s 0x10 4 = 0 ∧ s.midSave 0 = false ∧ (s.ctx 0).live = true ∧ s.areaTakes 0 = true ∧ errB (1, none) (s.readImage 0) = true) ∧
    (let s := (idleS 0x0A [] 1024).modCtx 0 fun c => { c with saveb := 8192 }
     Waits s 0x0A ∧ ArgsOnly s [(0x10, 4)] ∧ argOf s 0x10 4 = 0 ∧ s.midSave 0 = false ∧ (s.ctx 0).live = true ∧ s.areaTakes 0 = true ∧ s.ring.set = false ∧ s.ring.kept = [] ∧
       errB (2, some (.translation, 8192)) (s.readImage 0) = true) ∧
    (Waits imageS 0x0A ∧ ArgsOnly imageS [(0x10, 4)] ∧ argOf imageS 0x10 4 = 0 ∧ imageS.midSave 0 = false ∧ (imageS.ctx 0).live = true ∧ imageS.areaTakes 0 = true ∧
      ∃ b p, imageS.readImage 0 = .ok (b, p) ∧ imageS.partsReady 0 p = true) := by
  have i : imageB imageS = true := by decide +kernel
  unfold imageB at i
  simp only [Bool.and_eq_true, decide_eq_true_eq, Bool.not_eq_true'] at i
  obtain ⟨⟨⟨⟨⟨i1, i2⟩, i3⟩, i4⟩, i5⟩, i6⟩ := i
  refine ⟨⟨waits_of (by decide), args_only (by decide), by decide, by decide, by decide⟩, ⟨waits_of (by decide), args_only (by decide), by decide, by decide, by decide, by decide, by decide⟩,
    ⟨waits_of (by decide), args_only (by decide), by decide, by decide, by decide, by decide, rfl, rfl, by decide⟩,
    waits_of rfl, args_only rfl, rfl, i3, i4, ?_, ?_⟩
  · unfold State.areaTakes
    rw [i5]
    rfl
  · cases h : imageS.readImage 0 with
    | error e => rw [h] at i6; exact absurd i6 Bool.false_ne_true
    | ok r => exact ⟨r.1, r.2, rfl, by unfold State.partsReady; rw [i5]; rfl⟩

/-- Functions 0x0B to 0x0F at the ends of their ranges. -/
theorem witness_DeviceTablesAreSet :
    (∀ l, l ∈ [[(0x14, leBytes 4 3)], [(0x14, leBytes 4 2), (0x18, leBytes 8 4096)]] → let s := mg boot 0x0B l
      Waits s 0x0B ∧ ArgsOnly s [(0x10, 16)] ∧ argOf s 0x10 4 < 64 ∧ (s.ctx (argOf s 0x10 4)).live = true ∧ (argOf s 0x14 4 = 3 ∨ (argOf s 0x14 4 = 2 ∧ argOf s 0x18 8 % 4096 = 0)) ∧ s.midSave (argOf s 0x10 4) = false) ∧
    (Waits (mg boot 0x0C []) 0x0C ∧ ArgsOnly (mg boot 0x0C []) []) ∧
    (∀ i, i ∈ [13, 24] → let s := mg onS 0x0D [(0x10, leBytes 8 4096), (0x18, leBytes 4 (2 ^ i))]
      Waits s 0x0D ∧ ArgsOnly s [(0x10, 12)] ∧ argOf s 0x10 8 = 4096 ∧ argOf s 0x18 4 = 2 ^ i ∧ 4096 + 2 ^ i ≤ Config.localBytes ∧ s.ring.kept = [] ∧ s.ownerOf 32 = none ∧ s.takes 4096 = true ∧ s.posted = [] ∧ s.lineHeld 32 = false ∧ s.anyHeld 32 = false ∧ s.srcReady .ring = true) ∧
    (let s := mg boot 0x0E [(0x10, leBytes 4 31), (0x14, leBytes 4 0xFFFF), (0x18, leBytes 4 1)]
     Waits s 0x0E ∧ ArgsOnly s [(0x10, 12), (0x40, 64)] ∧ argOf s 0x10 4 = 31 ∧ argOf s 0x14 4 < 2 ^ 16 ∧ argOf s 0x18 4 ≤ 1) ∧
    ∀ l, l ∈ [[], [launch1]] → let s : State := { mg boot 0x0F [(0x14, leBytes 4 1), (0x18, leBytes 4 3)] with launches := l }
      Waits s 0x0F ∧ ArgsOnly s [(0x10, 12), (0x40, 64)] ∧ argOf s 0x10 4 = 0 ∧ (s.ctx 0).live = true ∧ argOf s 0x18 4 = 3 ∧ s.midSave 0 = false ∧ (s.launch 0 (argOf s 0x14 4) = none ↔ l = []) :=
  ⟨fun l h => ⟨waits_of (by revert l; decide), args_only (by revert l; decide), by revert l; decide, by revert l; decide, by revert l; decide, by revert l; decide⟩, ⟨waits_of (by decide), args_only (by decide)⟩,
   fun i h => ⟨waits_of (by revert i; decide), args_only (by revert i; decide), by revert i; decide, by revert i; decide, by revert i; decide, by revert i; decide, by revert i; decide⟩,
   ⟨waits_of (by decide), args_only (by decide), by decide⟩, fun l h => ⟨waits_of (by revert l; decide), args_only (by revert l; decide), by revert l; decide, by revert l; decide, by revert l; decide, by revert l; decide, by revert l; decide⟩⟩

/-- Vector 63, bound to source 3 of context 0, is acknowledged with a source and a context. -/
def ackS (e : Nat × Nat) : State :=
  { mg boot 0x12 [(0x10, leBytes 4 1), (0x14, leBytes 4 63), (0x18, leBytes 4 e.1), (0x1C, leBytes 4 e.2)] with msix := [(63, { source := 3, ctx := 0, waiting := true })] }

/-- Telemetry operations; caps at and beyond their bounds; an image; a vector to be bound, and one to be acknowledged, with its own source and with others;
both while the context that they name is being saved. -/
theorem witness_TelemetryFirmwareAndVectorsAreSet :
    (∀ e, e ∈ [(0, 4), (1, 1200), (1, 2600), (1, 1199), (1, 2601), (2, 7)] → let s := mg boot 0x10 [(0x10, leBytes 4 e.1), (0x14, leBytes 4 e.2)]
      Waits s 0x10 ∧ ArgsOnly s [(0x10, 12)] ∧ argOf s 0x10 4 = e.1 ∧ argOf s 0x14 4 = e.2) ∧
    (let s := mg boot 0x11 [(0x18, leBytes 4 4)]; Waits s 0x11 ∧ ArgsOnly s [(0x10, 12)] ∧ 0 < argOf s 0x18 4 ∧ argOf s 0x10 8 + argOf s 0x18 4 ≤ Config.localBytes ∧
      ∀ n : Word, s.firmware.minimum.toNat ≤ n.toNat) ∧
    (∀ n, n ∈ [1, 3, 6] → let s := mg boot 0x12 [(0x14, leBytes 4 63), (0x18, leBytes 4 n), (0x1C, leBytes 4 63)]
      Waits s 0x12 ∧ ArgsOnly s [(0x10, 16)] ∧ argOf s 0x10 4 = 0 ∧ argOf s 0x14 4 < 64 ∧ argOf s 0x18 4 = n ∧ argOf s 0x1C 4 < 64 ∧ s.midSave (argOf s 0x1C 4) = false) ∧
    (∀ e, e ∈ [(1, 0), (1, 5), (3, 0), (3, 1), (6, 0)] → let s := ackS e
     Waits s 0x12 ∧ ArgsOnly s [(0x10, 16)] ∧ argOf s 0x10 4 = 1 ∧ argOf s 0x14 4 = 63 ∧ argOf s 0x18 4 = e.1 ∧ argOf s 0x1C 4 = e.2 ∧ s.midSave e.2 = false ∧
       ((s.msix.any fun m => m.1 = 63 && m.2.source = e.1 && decide (m.2.source = 3 ∨ m.2.source = 4 → m.2.ctx = e.2)) = true ↔ e = (3, 0)) ∧
       Tab.find s.msix 63 = some { source := 3, ctx := 0, waiting := true }) ∧
    (∀ e, e ∈ [(0, 3), (1, 4)] → let s : State := { saveNow 0x12 [(0x10, leBytes 4 e.1), (0x14, leBytes 4 63), (0x18, leBytes 4 e.2)] with msix := [] }
     Waits s 0x12 ∧ ArgsOnly s [(0x10, 16)] ∧ argOf s 0x10 4 = e.1 ∧ argOf s 0x14 4 < 64 ∧ argOf s 0x18 4 = e.2 ∧ argOf s 0x1C 4 = 0 ∧ s.begun = false ∧ s.midSave 0 = true) :=
  ⟨fun e h => ⟨waits_of (by revert e; decide), args_only (by revert e; decide), by revert e; decide, by revert e; decide⟩,
   ⟨waits_of (by decide), args_only (by decide), by decide, by decide, fun n => Nat.zero_le _⟩,
   fun n h => ⟨waits_of (by revert n; decide), args_only (by revert n; decide), by revert n; decide, by revert n; decide, by revert n; decide, by revert n; decide, by revert n; decide⟩,
   fun e h => ⟨waits_of (by revert e; decide), args_only (by revert e; decide), by revert e; decide, by revert e; decide, by revert e; decide, by revert e; decide, by revert e; decide, by revert e; decide, by revert e; decide⟩,
   fun e h => ⟨waits_of (by revert e; decide), args_only (by revert e; decide), by revert e; decide, by revert e; decide, by revert e; decide, by revert e; decide, by revert e; decide, by revert e; decide⟩⟩

/-- A staged image; self-tests of a device that is on its way up, of a stack, of the last die and of bit 37; a recovering device. -/
theorem witness_ResetsAndSelfTests :
    ({ boot with firmware := { staged := some ([], 3) } } : State).firmware.staged = some ([], 3) ∧
    (let s : State := { boot with ready := BitVec.ofNat 64 (2 ^ 38) }
     s.firmware.recovery = false ∧ s.ready.getLsbD 38 = true ∧ (∀ bit, bit ∈ [0, 27, 35, 37] → (bit < 36 ∨ bit = 37) ∧ s.failed.getLsbD bit = false ∧ s.ready.getLsbD bit = false)) ∧
    (let s : State := { boot with ready := BitVec.ofNat 64 (2 ^ 38 + 7 * 2 ^ 24) }; ∀ d, d < 4 → 24 + d = 27 ∨ s.ready.getLsbD (24 + d) = true) ∧
    ({ boot with firmware := { recovery := true } } : State).firmware.recovery = true := by decide

def recoverS (cmd off : Nat) : State :=
  { boot with firmware := { recovery := true }, mgmt := { rdoor := 1, rcmd := BitVec.ofNat 32 cmd, roffset := BitVec.ofNat 32 off, rlength := 4 } }

theorem witness_RecoveryRewritesTheImage :
    (∀ e, e ∈ [(1, 128), (1, 64), (2, 0)] → let s := recoverS e.1 e.2
      s.firmware.recovery = true ∧ s.mgmt.rdoor ≠ s.mgmt.rseq ∧ s.mgmt.rcmd.toNat = e.1 ∧ s.mgmt.roffset.toNat = e.2 ∧ s.mgmt.rlength ≠ 0) ∧
    ∀ n : Word, (recoverS 2 0).firmware.minimum.toNat ≤ n.toNat := ⟨by decide, fun n => Nat.zero_le _⟩

/-- A key exchange, and a manifest kept of launch 1. -/
theorem witness_MailboxAnswers :
    let s := ({ boot with spdm := .keyExchange 3 } : State).modCtx 0 fun c => { c with manifests := [{ lid := 1, bytes := [] }] }
    s.firmware.recovery = false ∧ s.spdm = .keyExchange 3 ∧ ((s.ctx 0).manifests.find? fun m => decide (m.lid = 1)) = some { lid := 1, bytes := [] } ∧ (∀ m, m ∈ (s.ctx 0).manifests → m.lid ≠ 2) ∧
      (recoverS 1 0).firmware.recovery = true := by decide

/-! ## Witnesses: steps -/

def wordIs (w : Word) (i : Instr) : Bool := match decode w with | .ok j => j = i | .error _ => i = .unassignedEncoding w

theorem word_is {w : Word} {i : Instr} (h : wordIs w i = true) : decode w = .ok i ∨ (∃ e, decode w = .error e) ∧ i = .unassignedEncoding w := by
  unfold wordIs at h
  cases e : decode w with
  | ok j => rw [e] at h; exact .inl (by rw [of_decide_eq_true h])
  | error f => rw [e] at h; exact .inr ⟨⟨f, rfl⟩, of_decide_eq_true h⟩

/-- The current agent fetches a word for the instruction, at its PC. -/
def fetchB (s : State) (i : Instr) : Bool :=
  match s.cur with
  | .grp _ _ =>
    let x := atForm { fmt := .S } s
    let pa := valOf 0 (s.codePa x.core x.ctx (x.pc.toNat / 4 * 4))
    stands { fmt := .S } s && (x.pc.toNat % 4 = 0 || (x.pc.toNat % 4 = 2 && hasSlotB i)) && s.vaReady x.core x.ctx .x (x.pc.toNat / 4 * 4) 4 &&
      okB (s.codePa x.core x.ctx (x.pc.toNat / 4 * 4)) && s.icached (podOf x.core) pa && wordIs (s.codeWord pa) i
  | .courier c =>
    (s.core c).courier.any fun y => !y.stopped && y.cpc.toNat % 4 = 0 && s.vaReady c y.ctx .x y.cpc.toNat 4 && okB (s.codePa c y.ctx y.cpc.toNat) && wordIs (s.codeWord (valOf 0 (s.codePa c y.ctx y.cpc.toNat))) i

theorem fetches_of {s : State} {i : Instr} (h : fetchB s i = true) : Fetches s i := by
  unfold fetchB at h
  split at h
  · next t k e =>
    simp only [Bool.and_eq_true, Bool.or_eq_true, decide_eq_true_eq] at h
    obtain ⟨⟨⟨⟨⟨a, b⟩, r⟩, c⟩, d⟩, f⟩ := h
    exact .inl ⟨t, k, _, _, e, stand_at a, b, r, ok_of 0 c, d, word_is f⟩
  · next c e =>
    cases hy : (s.core c).courier with
    | none => rw [hy] at h; cases h
    | some y =>
      rw [hy] at h
      simp only [Option.any_some, Bool.and_eq_true, Bool.not_eq_true', decide_eq_true_eq] at h
      exact .inr ⟨c, y, _, e, hy, h.1.1.1.1, h.1.1.1.2, h.1.1.2, ok_of 0 h.1.2, word_is h.2⟩

/-- A word placed for a group, of an unassigned encoding, and for a courier; and slot B of a word at 4096. -/
def placed (w : Nat) : State := State.reset.withFetchWord 32 w
def slotB : State := (placed 0xF8052048).modGrp 0 0 fun g => { g with quads := g.quads.map fun e => (e.1, { e.2 with path := some { pc := 4098, mask := 15 } }) }

/-- A group that has given way to another, which is frozen. -/
def gaveS : State := (bootTwo.modGrp 0 0 fun g => { g with gave := [(0, 1, 0)] }).modGrp 0 1 fun g => { g with frozen := true }

theorem witness_StepRunsTheDecodedWord :
    (∀ e, e ∈ [(placed 0xF1400010, Instr.smovi 20 16), (placed 0, .unassignedEncoding 0), (placed (encode (.bcopy 4)).toNat, .bcopy 4), (slotB, .dict 5 1 9 0)] →
      e.1.agenda = [] ∧ e.1.able = true ∧ Fetches (e.1.turn e.1.cur none) e.2 ∧
      (let s : State := { e.1 with agenda := [.issue e.1.cur] }; Fetches (({ s with agenda := [] } : State).turn e.1.cur none) e.2)) ∧
    (let s : State := { placed 0xF1400010 with agenda := [.poll (.grp 0 0) 4096] }; Fetches (({ s with agenda := [] } : State).turn (.grp 0 0) (some 4096)) (.smovi 20 16)) ∧
    ((boot.grp 0 0).any fun g => g.gave.isEmpty) = true ∧
    ((gaveS.grp 0 0).any fun g => !g.gave.isEmpty && g.gave.all fun e => (gaveS.grp e.1 e.2.1).any fun h => decide (h.issues = e.2.2) && !gaveS.readyGrp e.1 e.2.1 h) = true ∧
    isEvent .gtimeTick = true ∧ State.reset.agenda = [] ∧ State.reset.able = false := by
  refine ⟨fun e h => ?_, fetches_of (by decide), by decide, by decide, by decide, rfl, by decide⟩
  simp only [List.mem_cons, List.not_mem_nil, or_false] at h
  rcases h with rfl | rfl | rfl | rfl <;> exact ⟨by decide, by decide, fetches_of (by decide), fetches_of (by decide)⟩

/-- A PC that is odd; one whose page is not mapped; one that is not cached; a word without slot B, at its slot B; a word on a stack that is not ready. -/
def pcS (s : State) (pc : DWord) : State := s.modGrp 0 0 fun g => { g with quads := g.quads.map fun e => (e.1, { e.2 with path := some { pc := pc, mask := 15 } }) }

theorem witness_FetchesAreChecked :
    (∀ s, s ∈ [pcS boot 4097, pcS boot 8192, boot, pcS (placed 0xF1400010) 4098] → s.agenda = [] ∧ s.cur = .grp 0 0 ∧ ((s.grp 0 0).all fun g => g.gave.isEmpty) = true ∧ stands { fmt := .S } s = true) ∧
    (at_ .exit (pcS boot 4097)).pc.toNat % 2 = 1 ∧ errB .translation ((pcS boot 8192).codePa 0 0 8192) = true ∧ okB (boot.codePa 0 0 4096) = true ∧ boot.icached (podOf 0) 4096 = false ∧
    (∀ s, s ∈ [pcS boot 8192, boot, pcS (placed 0xF1400010) 4098] → let x := atForm { fmt := .S } s; s.vaReady x.core x.ctx .x (x.pc.toNat / 4 * 4) 4 = true) ∧
    (let s : State := { placed 0xF1400010 with ready := 0 }
     let x := atForm { fmt := .S } s
     stands { fmt := .S } s = true ∧ x.pc.toNat % 2 = 0 ∧ s.vaReady x.core x.ctx .x (x.pc.toNat / 4 * 4) 4 = false) ∧
    (let s := pcS (placed 0xF1400010) 4098; s.icached (podOf 0) 4096 = true ∧ hasSlotB (fetched (s.codeWord 4096)) = false) := by decide

/-- A word of every format is well-formed. -/
theorem witness_DecodeAndEncodeAgree : wellFormed (.smovi 20 16) = true ∧ wellFormed .exit = true ∧ decodeTableWord 32 0xF1400010 = some (.smovi 20 16) := by decide

theorem witness_StepKeepsSound : State.reset.Sound ∧ step State.reset = .next { State.reset with gtime := 1 } := by
  refine ⟨?_, rfl⟩
  unfold State.Sound
  decide

end Sys2Proof.Tests
end

section
/-! SUPPORT. Branches and jumps: where a word that moves its fragment itself leaves the quads (R99, R100), and the courier. -/

namespace Sys2Proof.Machine

open Sys2Proof.Claims

/-! ## Words that no hint may repeat (R61, R64) -/

theorem ite_some_ne_none {c : Prop} [Decidable c] (a b : FCode) : (if c then some a else some b) ≠ none := by
  by_cases h : c
  · rw [if_pos h]; exact Option.some_ne_none a
  · rw [if_neg h]; exact Option.some_ne_none b

/-- A word whose checks pass is not out of sequence with the pending hints. -/
theorem hintBad_of_wordFault_none {f : Form} {courier priv : Bool} {regs rep : Nat} {h : Hints}
    (hw : wordFault f courier priv regs h rep = none) : hintBad h f = false := by
  cases hb : hintBad h f with
  | false => rfl
  | true =>
    simp only [wordFault, hb, if_true] at hw
    exact absurd hw (ite_some_ne_none _ _)

/-- No repetition is pending before a word that accepts none. -/
theorem rep_none_of_hintBad {h : Hints} {f : Form} (hf : f.fmt ≠ .H) (ha : f.accepts 2 = false) (hb : hintBad h f = false) :
    h.rep = none := by
  simp only [hintBad, hf, if_false, ha, Bool.not_false, Bool.and_true, Bool.or_eq_false_iff] at hb
  obtain ⟨⟨⟨⟨-, hrep⟩, -⟩, -⟩, -⟩ := hb
  simpa using hrep

/-- A ready word that accepts no REP issues once. -/
theorem ready_last {i : Instr} {s : State} {x : Iss} (h : Ready i s x) (hf : (form i).fmt ≠ .H) (ha : (form i).accepts 2 = false) :
    x.last = true := by
  rcases State.stand_ok h.stands with ⟨t, k, T, g, pc, -, -, -, -, -, -, rfl⟩ | ⟨c, y, -, -, -, -, rfl⟩
  · have hrep : g.hints.rep = none := rep_none_of_hintBad hf ha (hintBad_of_wordFault_none h.checked)
    have hcount : g.hints.count = 1 := by simp [Hints.count, hrep]
    simp only [grpIss, hcount, Bool.or_eq_true, decide_eq_true_eq]
    omega
  · rfl

/-- The agent that a ready word runs for: a group that holds what the word sees, or a courier with its scalars. -/
theorem ready_agent {i : Instr} {s : State} {x : Iss} (h : Ready i s x) :
    (x.who = .grp x.t x.k ∧ s.grp x.t x.k = some x.g) ∨
    (∃ c y, x.who = .courier c ∧ (s.core c).courier = some y ∧ x.g.s = y.s ∧ x.next = x.pc + 4) := by
  rcases State.stand_ok h.stands with ⟨t, k, T, g, pc, -, hT, hg, -, -, -, rfl⟩ | ⟨c, y, -, hy, -, -, rfl⟩
  · exact .inl ⟨rfl, by simp only [grpIss, State.grp, hT, Option.bind_some, hg]⟩
  · exact .inr ⟨c, y, rfl, hy, rfl, rfl⟩

/-! ## The places of a group's quads -/

theorem Grp.age_places (g : Grp) (fq : List Nat) : (g.age fq).places = g.places := by
  simp only [Grp.places, Grp.age, List.map_map]
  refine List.map_congr_left fun e _ => ?_
  simp only [Function.comp]
  split
  · rfl
  · split <;> rfl

/-- A word that has moved its fragment itself leaves it there as it retires. -/
theorem Grp.retire_stay_places (g : Grp) (x : Iss) (now : Nat) (hr : g.regErrs = []) : (g.retire x false now).places = g.places := by
  unfold Grp.retire
  rw [Grp.rewritten_intact g x hr]
  by_cases hw : g.waitsAt x.pc = true
  · simp only [hw, if_true]; cases x.last <;> rfl
  · simp only [hw]; cases x.last <;> exact g.age_places x.fq

/-- The last issue of a word consumes the hints (R61). -/
theorem Grp.retire_last_hints (g : Grp) (x : Iss) (adv : Bool) (now : Nat) (hl : x.last = true) :
    (g.retire x adv now).hints = {} ∧ (g.retire x adv now).rep = none ∧ (g.retire x adv now).hintPc = none := by
  unfold Grp.retire
  simp only [hl, if_true]
  cases adv <;> exact ⟨rfl, rfl, rfl⟩

/-- Quads changed by a function that does not look at their ages. -/
theorem Grp.modQuads_places (g : Grp) (fq : List Nat) (f : Nat → Quad → Quad)
    (hf : ∀ n q, { f n q with age := 0 } = f n { q with age := 0 }) :
    (g.modQuads fq f).places = g.places.map fun e => (e.1, if fq.contains e.1 then f e.1 e.2 else e.2) := by
  simp only [Grp.places, Grp.modQuads, List.map_map]
  refine List.map_congr_left fun e _ => ?_
  simp only [Function.comp]
  split
  · rw [hf]
  · rfl

theorem Quad.goto_age (q : Quad) (pc next : DWord) : { q.goto pc next with age := 0 } = ({ q with age := 0 } : Quad).goto pc next := by
  obtain ⟨_ | p, _, _, _, _⟩ := q
  · rfl
  · by_cases h : p.pc = pc <;> simp only [Quad.goto, h, if_true, if_false]

/-- A fragment that goes to a PC as a whole. -/
theorem Grp.advance_places (g : Grp) (x : Iss) (pc : DWord) :
    (g.advance x.fq x.pc pc).places = g.places.map fun e => (e.1, if x.fq.contains e.1 then x.moves pc e.2 else e.2) :=
  g.modQuads_places x.fq (fun _ q => q.goto x.pc pc) fun _ q => q.goto_age x.pc pc

/-! ## A word that moves its fragment itself -/

/-- An update of one group, then the retirement of a word that has moved its fragment itself. -/
theorem moved_retire {s u : State} {x : Iss} {g : Grp} (f : Nat × Quad → Quad) (hw : x.who = .grp x.t x.k) (hl : x.last = true)
    (ho : OnlyGroup x.t x.k s u) (hg : u.grp x.t x.k = some g) (hr : g.regErrs = [])
    (hp : g.places = x.g.places.map fun e => (e.1, if x.fq.contains e.1 then f e else e.2)) :
    ∃ h, Moved x s (u.retire x false) h f ∧ h.held = g.held := by
  refine ⟨g.retire x false (u.core x.core).cyc, ⟨?_, ?_, ?_, Grp.retire_last_hints _ _ _ _ hl⟩, Grp.retire_held _ _ _ _ hr⟩
  · simp only [State.retire, hw, State.grp_modGrp_same, hg, Option.map_some]
  · simp only [State.retire, hw]
    exact ho.trans (onlyGroup_modGrp _ _ _ _)
  · rw [Grp.retire_stay_places _ _ _ hr, hp]

/-- A whole fragment jumps, after an update of its group that keeps its quads and registers' errors. -/
theorem moved_jump {s u : State} {x : Iss} {g : Grp} (pc : DWord) (hw : x.who = .grp x.t x.k) (hl : x.last = true)
    (ho : OnlyGroup x.t x.k s u) (hg : u.grp x.t x.k = some g) (hq : g.quads = x.g.quads) (hr : g.regErrs = []) :
    ∃ h, Moved x s ((x.jump u pc).retire x false) h (fun e => x.moves pc e.2) ∧ h.held = g.held := by
  have hp : (g.advance x.fq x.pc pc).places =
      x.g.places.map fun e => (e.1, if x.fq.contains e.1 then x.moves pc e.2 else e.2) := by
    rw [Grp.advance_places]; simp only [Grp.places, hq]
  refine moved_retire (g := g.advance x.fq x.pc pc) _ hw hl ?_ ?_ hr hp
  · simp only [Iss.jump, hw]; exact ho.trans (onlyGroup_modGrp _ _ _ _)
  · simp only [Iss.jump, hw, State.grp_modGrp_same, hg, Option.map_some]

/-! ## Updates of one courier leave the rest -/

theorem OnlyCourier.refl {s : State} {c : Nat} {y : Courier} (hy : (s.core c).courier = some y) : OnlyCourier c s s y :=
  ⟨rfl, fun _ _ => rfl, by rw [← hy], fun _ => rfl⟩

/-- A further change of the courier alone. -/
theorem OnlyCourier.modCourier {s u : State} {c : Nat} {y : Courier} (h : OnlyCourier c s u y) (f : Courier → Courier) :
    OnlyCourier c s (u.modCore c fun k => { k with courier := k.courier.map f }) (f y) := by
  obtain ⟨hrest, hcores, hcore, hmem⟩ := h
  refine ⟨hrest, fun d hd => ?_, ?_, fun pa => hmem pa⟩
  · rw [State.core_modCore, if_neg hd, hcores d hd]
  · rw [State.core_modCore, if_pos rfl, hcore]; rfl

theorem OnlyCourier.gtime {s u : State} {c : Nat} {y : Courier} (h : OnlyCourier c s u y) : u.gtime = s.gtime := by
  have hrest := congrArg State.gtime h.1
  exact hrest

/-- A courier continues at a PC, after changes of its own. -/
theorem OnlyCourier.jump_retire {s u : State} {x : Iss} {c : Nat} {y : Courier} (h : OnlyCourier c s u y) (hw : x.who = .courier c) (pc : DWord) :
    OnlyCourier c s ((x.jump u pc).retire x false) { y with cpc := pc, wait := none, last := s.gtime } := by
  have hj : OnlyCourier c s (x.jump u pc) { y with cpc := pc } := by
    simp only [Iss.jump, hw]; exact h.modCourier fun y => { y with cpc := pc }
  simp only [State.retire, hw, hj.gtime]
  exact hj.modCourier fun y => { y with cpc := y.cpc, wait := none, last := s.gtime }

/-! ## Targets (R58) -/

/-- The target that the model computes is that of R58. -/
theorem branchTo_eq_target {w : Nat} (x : Iss) (n : BitVec w) : branchTo x.pc n = target x n := by
  have hbase : x.pc - (x.pc &&& 3) = BitVec.ofInt 64 ((x.pc.toNat - x.pc.toNat % 4 : Nat) : Int) := by
    rw [BitVec.ofInt_natCast]
    apply BitVec.eq_of_toNat_eq
    have hlow : (x.pc &&& 3).toNat = x.pc.toNat % 4 := by
      rw [BitVec.toNat_and]; exact Nat.and_two_pow_sub_one_eq_mod x.pc.toNat 2
    have hle : x.pc &&& 3 ≤ x.pc := by rw [BitVec.le_def, hlow]; exact Nat.mod_le _ _
    rw [BitVec.toNat_sub_of_le hle, hlow, BitVec.toNat_ofNat]
    have := x.pc.isLt
    omega
  have hdisp : n.signExtend 64 * 4 = BitVec.ofInt 64 (4 * n.toInt) := by
    rw [BitVec.mul_comm, BitVec.ofInt_mul]; rfl
  rw [branchTo, target, hbase, hdisp, BitVec.ofInt_add]

/-! ## Lanes grouped by next PC (R100) -/

/-- The paths of lanes that go to their next PCs one after another. -/
def routes (goal : Nat → DWord) (ls : List Nat) : List Path := ls.foldl (fun ps i => addPath (goal i) i ps) []

/-- Paths in ascending order of PC that hold the lanes listed, each on the path at its next PC. -/
structure Routed (goal : Nat → DWord) (ls : List Nat) (ps : List Path) : Prop where
  sorted : ps.Pairwise fun b c => b.pc.toNat < c.pc.toNat
  pcs : ∀ c, (∃ r, r ∈ ps ∧ r.pc = c) ↔ ∃ i, i ∈ ls ∧ goal i = c
  masks : ∀ r, r ∈ ps → ∀ j, j < 4 → (r.mask.getLsbD j = true ↔ j ∈ ls ∧ goal j = r.pc)

theorem getLsbD_laneOfQuad {i j : Nat} (hj : j < 4) : (BitVec.ofNat 4 (2 ^ i)).getLsbD j = true ↔ j = i := by
  simp only [BitVec.getLsbD_ofNat, hj, decide_true, Bool.true_and, Nat.testBit_two_pow, decide_eq_true_eq]
  exact eq_comm

theorem exists_mem_addPath (pc c : DWord) (i : Nat) (ps : List Path) :
    (∃ r, r ∈ addPath pc i ps ∧ r.pc = c) ↔ (∃ r, r ∈ ps ∧ r.pc = c) ∨ pc = c := by
  induction ps with
  | nil => simp [addPath]
  | cons p t ih =>
    unfold addPath
    split
    · rename_i h
      subst h
      simp only [List.mem_cons, exists_eq_or_imp]
      exact ⟨.inl, fun hc => hc.elim id .inl⟩
    · split
      · simp [or_comm]
      · simp only [List.mem_cons, exists_eq_or_imp, ih, or_assoc]

theorem addPath_sorted (pc : DWord) (i : Nat) {ps : List Path} (h : ps.Pairwise fun b c => b.pc.toNat < c.pc.toNat) :
    (addPath pc i ps).Pairwise fun b c => b.pc.toNat < c.pc.toNat := by
  induction ps with
  | nil => simp [addPath]
  | cons p t ih =>
    obtain ⟨hp, ht⟩ := List.pairwise_cons.1 h
    unfold addPath
    split
    · exact List.pairwise_cons.2 ⟨hp, ht⟩
    · rename_i hne
      split
      · rename_i hlt
        refine List.pairwise_cons.2 ⟨fun r hr => ?_, h⟩
        rcases List.mem_cons.1 hr with rfl | hr
        · exact hlt
        · exact Nat.lt_trans hlt (hp r hr)
      · rename_i hge
        have hpc : p.pc.toNat < pc.toNat := Nat.lt_of_le_of_ne (Nat.not_lt.1 hge) fun e => hne (BitVec.eq_of_toNat_eq e).symm
        refine List.pairwise_cons.2 ⟨fun r hr => ?_, ih ht⟩
        rcases (exists_mem_addPath pc r.pc i t).1 ⟨r, hr, rfl⟩ with ⟨r', hr', e⟩ | e
        · exact e ▸ hp r' hr'
        · exact e ▸ hpc

/-- A path after a lane is added: untouched at another PC; at the lane's PC the old path there with the lane, or the lane alone. -/
theorem mem_addPath {pc : DWord} {i : Nat} {ps : List Path} {r : Path} (h : ps.Pairwise fun b c => b.pc.toNat < c.pc.toNat)
    (hr : r ∈ addPath pc i ps) :
    (r.pc ≠ pc ∧ r ∈ ps) ∨ (∃ p, p ∈ ps ∧ p.pc = pc ∧ r = { p with mask := p.mask ||| BitVec.ofNat 4 (2 ^ i) }) ∨
      ((∀ p, p ∈ ps → p.pc ≠ pc) ∧ r = Path.mk pc (BitVec.ofNat 4 (2 ^ i))) := by
  induction ps with
  | nil => simp only [addPath, List.mem_singleton] at hr; exact .inr (.inr ⟨by simp, hr⟩)
  | cons p t ih =>
    obtain ⟨hp, ht⟩ := List.pairwise_cons.1 h
    unfold addPath at hr
    split at hr
    · rename_i he
      rcases List.mem_cons.1 hr with rfl | hr
      · exact .inr (.inl ⟨p, List.mem_cons_self .., he.symm, rfl⟩)
      · refine .inl ⟨fun e => ?_, List.mem_cons_of_mem _ hr⟩
        have := hp r hr
        rw [e, he] at this
        exact Nat.lt_irrefl _ this
    · rename_i hne
      split at hr
      · rename_i hlt
        have hall : ∀ r, r ∈ p :: t → r.pc ≠ pc := fun r hr e => by
          rcases List.mem_cons.1 hr with rfl | hr
          · exact hne e.symm
          · have := Nat.lt_trans hlt (hp r hr); rw [e] at this; exact Nat.lt_irrefl _ this
        rcases List.mem_cons.1 hr with rfl | hr
        · exact .inr (.inr ⟨hall, rfl⟩)
        · exact .inl ⟨hall r hr, hr⟩
      · rcases List.mem_cons.1 hr with rfl | hr
        · exact .inl ⟨fun e => hne e.symm, List.mem_cons_self ..⟩
        · rcases ih ht hr with ⟨hn, hm⟩ | ⟨p', hm, he⟩ | ⟨hall, he⟩
          · exact .inl ⟨hn, List.mem_cons_of_mem _ hm⟩
          · exact .inr (.inl ⟨p', List.mem_cons_of_mem _ hm, he⟩)
          · exact .inr (.inr ⟨List.forall_mem_cons.2 ⟨fun e => hne e.symm, hall⟩, he⟩)

theorem Routed.addLane {goal : Nat → DWord} {ls : List Nat} {ps : List Path} (h : Routed goal ls ps) (i : Nat) :
    Routed goal (ls ++ [i]) (addPath (goal i) i ps) where
  sorted := addPath_sorted _ _ h.sorted
  pcs c := by simp only [exists_mem_addPath, h.pcs, List.mem_append, List.mem_singleton, or_and_right, exists_or, exists_eq_left]
  masks r hr j hj := by
    rw [List.mem_append, List.mem_singleton]
    rcases mem_addPath h.sorted hr with ⟨hne, hm⟩ | ⟨p, hm, hpc, rfl⟩ | ⟨hall, rfl⟩
    · have hj' : j = i → goal j ≠ r.pc := fun e => e ▸ hne.symm
      rw [h.masks r hm j hj]
      exact ⟨fun ⟨hls, e⟩ => ⟨.inl hls, e⟩, fun ⟨hor, e⟩ => ⟨hor.resolve_right fun hji => hj' hji e, e⟩⟩
    · have hj' : j = i → goal j = p.pc := fun e => e ▸ hpc.symm
      simp only [BitVec.getLsbD_or, Bool.or_eq_true, getLsbD_laneOfQuad hj, h.masks p hm j hj]
      exact ⟨fun hor => hor.elim (fun ⟨hls, e⟩ => ⟨.inl hls, e⟩) fun hji => ⟨.inr hji, hj' hji⟩, fun ⟨hor, e⟩ => hor.imp (⟨·, e⟩) id⟩
    · have hnew : ¬ (j ∈ ls ∧ goal j = goal i) := fun hg => by
        obtain ⟨p, hp, e⟩ := (h.pcs (goal i)).2 ⟨j, hg⟩
        exact hall p hp e
      have hj' : j = i → goal j = goal i := fun e => e ▸ rfl
      rw [getLsbD_laneOfQuad hj]
      exact ⟨fun hji => ⟨.inr hji, hj' hji⟩, fun ⟨hor, e⟩ => hor.resolve_left fun hls => hnew ⟨hls, e⟩⟩

/-- Further lanes added one after another. -/
theorem Routed.addLanes {goal : Nat → DWord} {ls : List Nat} {ps : List Path} (h : Routed goal ls ps) (js : List Nat) :
    Routed goal (ls ++ js) (js.foldl (fun ps i => addPath (goal i) i ps) ps) := by
  induction js generalizing ls ps with
  | nil => rw [List.append_nil]; exact h
  | cons j js ih => rw [← List.singleton_append, ← List.append_assoc]; exact ih (h.addLane j)

theorem routed_nil (goal : Nat → DWord) : Routed goal [] [] where
  sorted := List.Pairwise.nil
  pcs _ := ⟨fun ⟨_, hr, _⟩ => absurd hr List.not_mem_nil, fun ⟨_, hi, _⟩ => absurd hi List.not_mem_nil⟩
  masks _ hr := absurd hr List.not_mem_nil

theorem routed_routes (goal : Nat → DWord) (ls : List Nat) : Routed goal ls (routes goal ls) := (routed_nil goal).addLanes ls

/-! ## A quad at a branch (R100) -/

theorem mem_maskLanes (m : BitVec 4) (i : Nat) : i ∈ maskLanes m ↔ i < 4 ∧ m.getLsbD i = true := by
  simp [maskLanes]

theorem maskLanes_eq_nil (m : BitVec 4) : maskLanes m = [] ↔ m = 0 := by
  revert m; decide

theorem getLsbD_quadBits (m : LaneMask) (n : Nat) {i : Nat} (hi : i < 4) : (quadBits m n).getLsbD i = m.getLsbD (4 * n + i) := by
  simp [quadBits, hi]

/-- The lowest PC of a list, as a running minimum. -/
theorem lowest_cons (a : DWord) (l : List DWord) :
    lowest (a :: l) = some (l.foldl (fun m b => if b.toNat < m.toNat then b else m) a) := by
  induction l generalizing a with
  | nil => rfl
  | cons b l ih =>
    rw [List.foldl_cons, ← ih]
    simp only [lowest]
    cases lowest l with
    | none =>
      by_cases h : b.toNat < a.toNat
      · simp only [if_pos h, if_neg (Nat.not_le.2 h)]
      · simp only [if_neg h, if_pos (Nat.not_lt.1 h)]
    | some c => grind

/-- The next PC of a lane of a path, from its quad's enabled and active lanes. -/
def Path.goal (p : Path) (en act : BitVec 4) (dest : Nat → DWord) (fall : DWord) (i : Nat) : DWord :=
  if act.getLsbD i then dest i else if en.getLsbD i then fall
  else (lowest (((maskLanes p.mask).filter fun i => act.getLsbD i).map dest)).getD fall

theorem Quad.diverge_of_none {q : Quad} (en act : BitVec 4) (dest : Nat → DWord) (fall : DWord) (hp : q.path = none) :
    q.diverge en act dest fall = q := by
  simp only [Quad.diverge, hp]

theorem Quad.diverge_of_nil {q : Quad} {p : Path} {en act : BitVec 4} {dest : Nat → DWord} {fall : DWord} (hp : q.path = some p)
    (hr : routes (p.goal en act dest fall) (maskLanes p.mask) = []) :
    q.diverge en act dest fall = { q with path := some { p with pc := fall } } := by
  unfold routes Path.goal at hr
  simp only [Quad.diverge, hp, hr]

theorem Quad.diverge_of_cons {q : Quad} {p a : Path} {ps : List Path} {en act : BitVec 4} {dest : Nat → DWord} {fall : DWord}
    (hp : q.path = some p) (hr : routes (p.goal en act dest fall) (maskLanes p.mask) = a :: ps) :
    q.diverge en act dest fall = { q with path := some a, defer := ps ++ q.defer } := by
  unfold routes Path.goal at hr
  simp only [Quad.diverge, hp, hr]

theorem Quad.diverge_age (q : Quad) (en act : BitVec 4) (dest : Nat → DWord) (fall : DWord) :
    { q.diverge en act dest fall with age := 0 } = ({ q with age := 0 } : Quad).diverge en act dest fall := by
  obtain ⟨_ | p, _, _, _, _⟩ := q
  · rfl
  · cases hr : routes (p.goal en act dest fall) (maskLanes p.mask) with
    | nil => rw [Quad.diverge_of_nil rfl hr, Quad.diverge_of_nil rfl hr]
    | cons a ps => rw [Quad.diverge_of_cons rfl hr, Quad.diverge_of_cons rfl hr]

/-- The next PCs of a quad's lanes are those of R100. -/
theorem Path.goal_eq_nextPcOf (x : Iss) (dest : Nat → DWord) (n : Nat) (p : Path) {i : Nat} (hi : i < 4) :
    p.goal (quadBits x.en n) (quadBits x.act n) (fun i => dest (4 * n + i)) x.next i = nextPcOf x dest n p i := by
  have hact : ((maskLanes p.mask).filter fun i => (quadBits x.act n).getLsbD i) =
      (List.range 4).filter fun j => decide (j < 4) && p.mask.getLsbD j && x.act.getLsbD (4 * n + j) := by
    rw [maskLanes, List.filter_filter]
    refine List.filter_congr fun j hj => ?_
    have hj := List.mem_range.1 hj
    simp only [getLsbD_quadBits _ _ hj, hj, decide_true, Bool.true_and, Bool.and_comm]
  simp only [Path.goal, nextPcOf, getLsbD_quadBits _ _ hi, hact]
  cases (List.range 4).filter fun j => decide (j < 4) && p.mask.getLsbD j && x.act.getLsbD (4 * n + j) with
  | nil => rfl
  | cons j js => rw [List.map_cons, lowest_cons, List.foldl_map]; rfl

/-- Quad `n` after a branch of the issuing fragment with a target for each lane. -/
def Iss.sends (x : Iss) (dest : Nat → DWord) (n : Nat) (q : Quad) : Quad :=
  q.diverge (quadBits x.en n) (quadBits x.act n) (fun i => dest (4 * n + i)) x.next

/-- A branch sends the lanes of a quad where R100 says. -/
theorem diverged_sends (x : Iss) (dest : Nat → DWord) (n : Nat) (q : Quad) :
    Diverged q (x.sends dest n q) x.next (nextPcOf x dest n) := by
  unfold Diverged Iss.sends
  cases hp : q.path with
  | none => exact Quad.diverge_of_none _ _ _ _ hp
  | some p =>
    have hroute := routed_routes (p.goal (quadBits x.en n) (quadBits x.act n) (fun i => dest (4 * n + i)) x.next) (maskLanes p.mask)
    cases hr : routes (p.goal (quadBits x.en n) (quadBits x.act n) (fun i => dest (4 * n + i)) x.next) (maskLanes p.mask) with
    | nil =>
      have hmask : p.mask = 0 := by
        rw [← maskLanes_eq_nil, List.eq_nil_iff_forall_not_mem]
        intro i hi
        obtain ⟨r, hm, -⟩ := (hroute.pcs _).2 ⟨i, hi, rfl⟩
        rw [hr] at hm
        exact List.not_mem_nil hm
      simp only [hmask, if_true, Quad.diverge_of_nil hp hr]
    | cons a ps =>
      have hmask : p.mask ≠ 0 := fun h0 => by
        rw [(maskLanes_eq_nil p.mask).2 h0] at hr
        cases hr
      rw [hr] at hroute
      simp only [hmask, if_false]
      refine ⟨a, ps, Quad.diverge_of_cons hp hr, hroute.sorted, fun r hm => ⟨fun h0 => ?_, fun i hi => ?_⟩, fun i hi hb => ?_⟩
      · obtain ⟨i, hi, e⟩ := (hroute.pcs r.pc).1 ⟨r, hm, rfl⟩
        have hbit := (hroute.masks r hm i ((mem_maskLanes _ _).1 hi).1).2 ⟨hi, e⟩
        simp [h0] at hbit
      · have hbit := hroute.masks r hm i hi
        rw [mem_maskLanes, Path.goal_eq_nextPcOf x dest n p hi] at hbit
        rw [Bool.eq_iff_iff, hbit]
        simp [hi]
      · obtain ⟨r, hm, e⟩ := (hroute.pcs _).2 ⟨i, (mem_maskLanes _ _).2 ⟨hi, hb⟩, rfl⟩
        exact ⟨r, hm, e.trans (Path.goal_eq_nextPcOf x dest n p hi)⟩

/-! ## `bra`, `sbra`, `loop` -/

/-- A branch of a group's fragment, lane by lane. -/
theorem moved_branch {s : State} {x : Iss} (dest : Nat → DWord) (hg : s.grp x.t x.k = some x.g) (hw : x.who = .grp x.t x.k)
    (hl : x.last = true) (hr : x.g.regErrs = []) :
    ∃ h, Moved x s ((x.branch s dest).retire x false) h (fun e => x.sends dest e.1 e.2) ∧ h.held = x.g.held :=
  moved_retire (g := x.g.modQuads x.fq (x.sends dest)) _ hw hl (onlyGroup_modGrp ..)
    ((State.grp_modGrp_same ..).trans (by rw [hg]; rfl)) hr (Grp.modQuads_places _ _ _ fun _ q => q.diverge_age ..)

/-- The fragment of a ready word that accepts no REP, or the courier, jumps. -/
theorem jumpedTo_jump {i : Instr} {s : State} {x : Iss} (h : Ready i s x) (hf : (form i).fmt ≠ .H) (ha : (form i).accepts 2 = false) (pc : DWord) :
    JumpedTo x s ((x.jump s pc).retire x false) pc := by
  rcases ready_agent h with ⟨hw, hg⟩ | ⟨c, y, hw, hy, -, -⟩
  · simp only [JumpedTo, hw]
    exact moved_jump pc hw (ready_last h hf ha) (OnlyGroup.refl ..) hg rfl h.intact
  · simp only [JumpedTo, hw]
    exact ⟨y, hy, (OnlyCourier.refl hy).jump_retire hw pc⟩

theorem form_bra (g : BitVec 3) (n : BitVec 23) : form (.bra g n) = { fmt := .B, g := g, courier := g = 7 } := rfl
theorem form_sbra (a : BitVec 6) (n : BitVec 20) : form (.sbra a n) = { fmt := .SB, a := some (Operand.sreg a), courier := true } := rfl
theorem form_loop (a : BitVec 6) (n : BitVec 20) : form (.loop a n) = { fmt := .SB, d := some (Operand.supd a), courier := true } := rfl

theorem exec_bra (g : BitVec 3) (n : BitVec 23) (s : State) : exec (.bra g n) s = execBra g n s := rfl
theorem exec_sbra (a : BitVec 6) (n : BitVec 20) (s : State) : exec (.sbra a n) s = execSbra a n s := rfl
theorem exec_loop (a : BitVec 6) (n : BitVec 20) (s : State) : exec (.loop a n) s = execLoop a n s := rfl

section
variable {g : BitVec 3} {d : BitVec 23} {a : BitVec 6} {n : BitVec 20} {s : State} {x : Iss} {t k c : Nat}

theorem ready_bra_grp (h : Ready (.bra g d) s x) (hw : x.who = .grp t k) :
    exec (.bra g d) s = .next ((x.branch s fun _ => target x d).retire x false) := by
  rw [exec_bra, execBra]
  exact ready_wordMove h (by simp only [hw, branchTo_eq_target])

theorem ready_bra_courier (h : Ready (.bra g d) s x) (hw : x.who = .courier c) :
    exec (.bra g d) s = .next ((x.jump s (target x d)).retire x false) := by
  rw [exec_bra, execBra]
  exact ready_wordMove h (by simp only [hw, branchTo_eq_target])

theorem ready_sbra (h : Ready (.sbra a n) s x) :
    exec (.sbra a n) s = .next ((x.jump s (if x.g.sreg x.a = 0 then x.next else target x n)).retire x false) := by
  rw [exec_sbra, execSbra]
  exact ready_wordMove h (by simp only [branchTo_eq_target, ne_eq, ite_not])

/-- `loop` of a group: what it writes to an enable register leaves the bits of exited lanes 0 (R25). -/
theorem ready_loop_grp (h : Ready (.loop a n) s x) (hw : x.who = .grp t k) {v : Word} (hv : v = (x.g.sreg x.d - 1) &&& ~~~exitedWord x.g.exited x.d) :
    exec (.loop a n) s = .next ((x.jump (s.modGrp t k fun g => g.setS x.d v) (if v = 0 then x.next else target x n)).retire x false) := by
  rw [exec_loop, execLoop]
  exact ready_wordMove h (by simp only [hw, Iss.setS, branchTo_eq_target, ne_eq, ite_not, hv])

theorem ready_loop_courier (h : Ready (.loop a n) s x) (hw : x.who = .courier c) {v : Word} (hv : v = x.g.sreg x.d - 1) :
    exec (.loop a n) s = .next ((x.jump (x.setS s x.d v) (if v = 0 then x.next else target x n)).retire x false) := by
  rw [exec_loop, execLoop]
  exact ready_wordMove h (by simp only [hw, branchTo_eq_target, ne_eq, ite_not, hv])

end

/-- A scalar that is read after one is written (R25). -/
theorem Grp.sreg_setS (g : Grp) (n r : Nat) (v : Word) : (g.setS n v).sreg r = if r = n then v &&& ~~~exitedWord g.exited n else g.sreg r :=
  Tab.get_set 0 g.s n r _

/-- What a group holds says its scalars. -/
theorem Grp.s_of_held {g h : Grp} (e : h.held = g.held) : h.s = g.s := by
  have hs := congrArg Grp.s e
  exact hs

theorem braSendsEachLaneItsWay : BraSendsEachLaneItsWay := by
  intro g n s x h
  rcases ready_agent h with ⟨hw, hg⟩ | ⟨c, y, hw, hy, -, -⟩
  · refine ⟨_, ready_bra_grp h hw, ?_⟩
    simp only [hw]
    obtain ⟨u, hmoved, hheld⟩ := moved_branch (fun _ => target x n) hg hw (ready_last h (by simp [form_bra]) (by simp [form_bra, Form.accepts])) h.intact
    exact ⟨u, _, hmoved, hheld, fun e _ _ => diverged_sends ..⟩
  · refine ⟨_, ready_bra_courier h hw, ?_⟩
    simp only [hw]
    exact ⟨y, hy, (OnlyCourier.refl hy).jump_retire hw _⟩

theorem sbraMovesTheWholePath (a : BitVec 6) (n : BitVec 20) (s : State) (x : Iss) (h : Ready (.sbra a n) s x) :
    ∃ u, exec (.sbra a n) s = .next u ∧ JumpedTo x s u (if x.g.sreg x.a = 0 then x.next else target x n) :=
  ⟨_, ready_sbra h, jumpedTo_jump h (by simp [form_sbra]) (by simp [form_sbra, Form.accepts]) _⟩

theorem scalarBranchesMoveTheWholePath : ScalarBranchesMoveTheWholePath := by
  refine ⟨sbraMovesTheWholePath, fun a n s x h => ?_⟩
  rcases ready_agent h with ⟨hw, hg⟩ | ⟨c, y, hw, hy, hs, hnext⟩
  · refine ⟨_, ready_loop_grp h hw rfl, ?_⟩
    simp only [hw]
    generalize hv : (x.g.sreg x.d - 1) &&& ~~~exitedWord x.g.exited x.d = v
    obtain ⟨u, hmoved, hheld⟩ := moved_jump (u := s.modGrp x.t x.k fun g => g.setS x.d v) (g := x.g.setS x.d v)
      (if v = 0 then x.next else target x n) hw (ready_last h (by simp [form_loop]) (by simp [form_loop, Form.accepts])) (onlyGroup_modGrp ..)
      (by rw [State.grp_modGrp_same, hg]; rfl) rfl h.intact
    refine ⟨u, hmoved, ?_, fun r => ?_⟩
    · rw [hheld, Grp.s_of_held hheld]; rfl
    · have hmask : v &&& ~~~exitedWord x.g.exited x.d = v := by rw [← hv, BitVec.and_assoc, BitVec.and_self]
      rw [Grp.sreg, Grp.s_of_held hheld, ← Grp.sreg, Grp.sreg_setS, hmask]
  · refine ⟨_, ready_loop_courier h hw rfl, ?_⟩
    simp only [hw, ← hnext]
    have hset := (OnlyCourier.refl hy).modCourier fun y => { y with s := Tab.set 0 y.s x.d (x.g.sreg x.d - 1) }
    refine ⟨y, _, hy, by simp only [Iss.setS, hw]; exact hset.jump_retire hw _, rfl, fun r => ?_⟩
    · rw [Grp.sreg, Grp.sreg, hs]
      exact Tab.get_set 0 y.s x.d r _

/-- Settles O14: R100 sends each lane of a fragment at `bra` to its next PC, and `sbra` and `loop` move the whole path. -/
theorem branchesMoveTheirLanes : Obligations.BranchesMoveTheirLanes :=
  ⟨braSendsEachLaneItsWay, scalarBranchesMoveTheWholePath⟩

end Sys2Proof.Machine
end

section
/-! SUPPORT. Words that change what their group holds and nothing else, and those that write one vector register. -/

namespace Sys2Proof.Machine

open Sys2Proof.Claims

/-! ## Updates of what a group holds -/

/-- From `s` to `u` the issuing word's group alone has changed, and it is now `g`. -/
structure Iss.Leaves (x : Iss) (s u : State) (g : Grp) : Prop where
  only : OnlyGroup x.t x.k s u
  grp : u.grp x.t x.k = some g

theorem Iss.Leaves.modGrp {x : Iss} {s u : State} {g : Grp} (h : x.Leaves s u g) (f : Grp → Grp) :
    x.Leaves s (u.modGrp x.t x.k f) (f g) :=
  ⟨h.only.trans (onlyGroup_modGrp ..), by rw [State.grp_modGrp_same, h.grp]; rfl⟩

/-- A word that has a repetition left keeps the pending hints (R61). -/
theorem Grp.retire_repeat_hints (g : Grp) (x : Iss) (adv : Bool) (now : Nat) (hl : x.last = false) (hr : g.regErrs = []) :
    (g.retire x adv now).hints = g.hints ∧ (g.retire x adv now).rep = some (BitVec.ofNat 6 (x.rep + 1)) ∧
      (g.retire x adv now).hintPc = some x.pc := by
  unfold Grp.retire
  rw [Grp.rewritten_intact g x hr]
  simp only [hl, Bool.false_eq_true, if_false]
  cases g.waitsAt x.pc <;> exact ⟨rfl, trivial, trivial⟩

/-- The retirement of a word that has changed its group alone, and not where it stands. -/
theorem ran_retire {s u : State} {x : Iss} {g : Grp} (h : x.Leaves s u g) (hw : x.who = .grp x.t x.k) (hfq : x.fq = x.g.quadsAt x.pc)
    (hq : g.quads = x.g.quads) (hh : g.hints = x.g.hints) (hr : g.regErrs = []) :
    ∃ y, Ran x s (u.retire x true) y ∧ y.held = g.held := by
  refine ⟨g.retire x true (u.core x.core).cyc, ⟨?_, ?_, ?_, ?_⟩, Grp.retire_held _ _ _ _ hr⟩
  · simp only [State.retire, hw, State.grp_modGrp_same, h.grp, Option.map_some]
  · simp only [State.retire, hw]
    exact h.only.trans (onlyGroup_modGrp ..)
  · rw [Grp.retire_places g x _ hr (by rw [hfq]; simp only [Grp.quadsAt, hq])]
    simp only [Grp.places, hq]
  · cases hl : x.last with
    | true => exact Grp.retire_last_hints _ _ _ _ hl
    | false =>
      obtain ⟨hhints, hrep, hpc⟩ := Grp.retire_repeat_hints g x true (u.core x.core).cyc hl hr
      exact ⟨hhints.trans hh, hrep, hpc⟩

/-- A ready word of a group issues for the quads that stand at its PC. -/
theorem ready_fragment {i : Instr} {s : State} {x : Iss} (h : Ready i s x) (hw : x.who = .grp x.t x.k) :
    s.grp x.t x.k = some x.g ∧ x.fq = x.g.quadsAt x.pc := by
  rcases State.stand_ok h.stands with ⟨t, k, T, g, pc, -, hT, hg, -, -, -, rfl⟩ | ⟨c, y, -, -, -, -, rfl⟩
  · exact ⟨by simp only [grpIss, State.grp, hT, Option.bind_some, hg], rfl⟩
  · cases hw

/-- A word outside the courier's subset is ready for a group. -/
theorem ready_who {i : Instr} {s : State} {x : Iss} (h : Ready i s x) (hc : (form i).courier = false) : x.who = .grp x.t x.k := by
  obtain ⟨-, hw, -, -⟩ := ready_ctx h hc
  exact hw

/-- A word before its effect. -/
theorem ready_leaves {i : Instr} {s : State} {x : Iss} (h : Ready i s x) (hw : x.who = .grp x.t x.k) : x.Leaves s s x.g :=
  ⟨OnlyGroup.refl .., (ready_fragment h hw).1⟩

/-- A word whose effect changes what its group holds, and nothing else. -/
theorem ready_ran {i : Instr} {s u : State} {x : Iss} {g : Grp} {eff : Iss → State → Except State State}
    (h : Ready i s x) (hw : x.who = .grp x.t x.k) (hexec : exec i s = word i s eff) (heff : eff x s = .ok u) (hu : x.Leaves s u g)
    (hq : g.quads = x.g.quads) (hh : g.hints = x.g.hints) (hr : g.regErrs = x.g.regErrs) :
    ∃ w y, exec i s = .next w ∧ Ran x s w y ∧ y.held = g.held := by
  obtain ⟨y, hran, hheld⟩ := ran_retire hu hw (ready_fragment h hw).2 hq hh (hr.trans h.intact)
  exact ⟨_, y, by rw [hexec, ready_word h heff], hran, hheld⟩

/-- What a group holds says its vector registers. -/
theorem Grp.v_of_held {g h : Grp} (e : h.held = g.held) : h.v = g.v := by
  have hv := congrArg Grp.v e
  exact hv

/-! ## Vector results -/

/-- The word's only effect is to write its destination in every active lane. -/
def VectorWord (i : Instr) (f : Iss → Nat → Word) : Prop :=
  (form i).courier = false ∧ ∀ s, exec i s = word i s fun x s => .ok (x.setV s x.d x.act (f x))

theorem VectorWord.congr {i : Instr} {f f' : Iss → Nat → Word} (h : VectorWord i f) (he : ∀ x l, f x l = f' x l) : VectorWord i f' := by
  have e : f = f' := funext fun x => funext (he x)
  exact e ▸ h

theorem VectorWord.writes {i : Instr} {f : Iss → Nat → Word} {s : State} {x : Iss} (hv : VectorWord i f) (h : Ready i s x) :
    ∃ u y, exec i s = .next u ∧ Ran x s u y ∧ WroteVector x y (f x) := by
  obtain ⟨hc, hexec⟩ := hv
  have hw := ready_who h hc
  obtain ⟨u, y, hu, hran, hheld⟩ := ready_ran h hw (hexec s) rfl
    ((ready_leaves h hw).modGrp fun g => g.setV x.d x.act (f x)) rfl rfl rfl
  refine ⟨u, y, hu, hran, ?_, fun r l hl => ?_⟩
  · rw [hheld, Grp.v_of_held hheld]; rfl
  · rw [Grp.vreg, Grp.v_of_held hheld, ← Grp.vreg, Grp.vreg_setV _ _ _ _ _ _ hl]

end Sys2Proof.Machine
end

section
/-! SUPPORT. Integer arithmetic on words is that of integers modulo 2^32 (R81, R82, R84). -/

namespace Sys2Proof.Machine

open Sys2Proof.Claims

/-! ## Sums, products, signs and bounds -/

theorem sub_eq_ofInt (a b : Word) : a - b = BitVec.ofInt 32 ((a.toNat : Int) - b.toNat) := by
  rw [Int.sub_eq_add_neg, BitVec.ofInt_add, BitVec.ofInt_neg, BitVec.ofInt_natCast, BitVec.ofInt_natCast,
    BitVec.ofNat_toNat, BitVec.ofNat_toNat, BitVec.setWidth_eq, BitVec.setWidth_eq, BitVec.sub_eq_add_neg]

theorem mul_add_eq_ofNat (a b d : Word) : a * b + d = BitVec.ofNat 32 (a.toNat * b.toNat + d.toNat) := by
  rw [BitVec.ofNat_add, BitVec.ofNat_mul, BitVec.ofNat_toNat, BitVec.ofNat_toNat, BitVec.ofNat_toNat,
    BitVec.setWidth_eq, BitVec.setWidth_eq, BitVec.setWidth_eq]

theorem neg_eq_ofInt (a : Word) : -a = BitVec.ofInt 32 (-a.toInt) := by
  rw [BitVec.ofInt_neg, BitVec.ofInt_toInt]

theorem not_eq_ofNat (a : Word) : ~~~a = BitVec.ofNat 32 (2 ^ 32 - 1 - a.toNat) := by
  apply BitVec.eq_of_toNat_eq
  rw [BitVec.toNat_not, BitVec.toNat_ofNat]
  omega

theorem absW_eq_ofInt (a : Word) : absW a = BitVec.ofInt 32 a.toInt.natAbs := by
  unfold absW
  split
  · next h => rw [neg_eq_ofInt, Int.ofNat_natAbs_of_nonpos (Int.le_of_lt h)]
  · next h => rw [Int.natAbs_of_nonneg (Int.not_lt.1 h), BitVec.ofInt_toInt]

theorem mulHighN_eq (a b : Word) : mulHighN a b = BitVec.ofNat 32 (a.toNat * b.toNat / 2 ^ 32) := by
  apply BitVec.eq_of_toNat_eq
  have h : a.toNat * b.toNat < 2 ^ 64 := by
    calc a.toNat * b.toNat < 2 ^ 32 * 2 ^ 32 := Nat.mul_lt_mul'' a.isLt b.isLt
      _ = 2 ^ 64 := (Nat.pow_add 2 32 32).symm
  rw [mulHighN, BitVec.extractLsb'_toNat, BitVec.toNat_ofNat, BitVec.toNat_ofNat, Nat.mod_eq_of_lt h, Nat.shiftRight_eq_div_pow]

theorem mulHighS_eq (a b : Word) : mulHighS a b = BitVec.ofInt 32 (a.toInt * b.toInt / 2 ^ 32) := by
  apply BitVec.eq_of_toNat_eq
  rw [mulHighS, BitVec.extractLsb'_toNat, BitVec.toNat_ofInt, BitVec.toNat_ofInt, Nat.shiftRight_eq_div_pow]
  generalize a.toInt * b.toInt = p
  omega

theorem minS_eq (a b : Word) : minS a b = BitVec.ofInt 32 (min a.toInt b.toInt) := by
  unfold minS
  rw [Int.min_def]
  split <;> rw [BitVec.ofInt_toInt]

theorem maxS_eq (a b : Word) : maxS a b = BitVec.ofInt 32 (max a.toInt b.toInt) := by
  unfold maxS
  rw [Int.max_comm, Int.max_def]
  split <;> rw [BitVec.ofInt_toInt]

theorem minN_eq (a b : Word) : minN a b = BitVec.ofNat 32 (min a.toNat b.toNat) := by
  unfold minN
  rw [Nat.min_def]
  split <;> rw [BitVec.ofNat_toNat, BitVec.setWidth_eq]

theorem maxN_eq (a b : Word) : maxN a b = BitVec.ofNat 32 (max a.toNat b.toNat) := by
  unfold maxN
  rw [Nat.max_comm, Nat.max_def]
  split <;> rw [BitVec.ofNat_toNat, BitVec.setWidth_eq]

/-! ## Division (R82) -/

theorem divN_fst (a b : Word) : (divN a b).1 = if b = 0 then 0xFFFFFFFF else BitVec.ofNat 32 (a.toNat / b.toNat) := by
  unfold divN; split
  · rfl
  · exact BitVec.udiv_def

theorem divN_snd (a b : Word) : (divN a b).2 = if b = 0 then a else BitVec.ofNat 32 (a.toNat % b.toNat) := by
  unfold divN; split
  · rfl
  · exact BitVec.umod_def

theorem divS_fst (a b : Word) : (divS a b).1 = if b = 0 then 0xFFFFFFFF else BitVec.ofInt 32 (a.toInt.tdiv b.toInt) := by
  unfold divS
  split
  · rfl
  · split
    · next h => obtain ⟨rfl, rfl⟩ := h; decide
    · rfl

theorem divS_snd (a b : Word) : (divS a b).2 = if b = 0 then a else BitVec.ofInt 32 (a.toInt - a.toInt.tdiv b.toInt * b.toInt) := by
  unfold divS
  split
  · rfl
  · split
    · next h => obtain ⟨rfl, rfl⟩ := h; decide
    · rw [Int.tmod_def, Int.mul_comm]

/-! ## Shifts (R84) -/

theorem shiftL_eq (a n : Word) : shiftL a n = shlOf a n := by
  unfold shiftL shlOf
  split
  · rfl
  · apply BitVec.eq_of_toNat_eq
    rw [BitVec.toNat_shiftLeft, BitVec.toNat_ofNat, Nat.shiftLeft_eq]

theorem shiftR_eq (a n : Word) : shiftR a n = shrOf a n := by
  unfold shiftR shrOf
  split
  · rfl
  · apply BitVec.eq_of_toNat_eq
    rw [BitVec.toNat_ushiftRight, BitVec.toNat_ofNat, Nat.shiftRight_eq_div_pow,
      Nat.mod_eq_of_lt (Nat.lt_of_le_of_lt (Nat.div_le_self _ _) a.isLt)]

theorem sshiftRight_eq_ofInt (a : Word) (n : Nat) : a.sshiftRight n = BitVec.ofInt 32 (a.toInt / 2 ^ n) := by
  rw [BitVec.sshiftRight, Int.shiftRight_eq_div_pow]; norm_cast

theorem shiftA_eq (a n : Word) : shiftA a n = sarOf a n := by
  unfold shiftA sarOf
  by_cases h : 32 ≤ n.toNat
  · have hlt := BitVec.toInt_lt (x := a)
    have hle := BitVec.le_toInt (x := a)
    rw [if_pos h, Nat.min_eq_right (by omega), sshiftRight_eq_ofInt]
    by_cases hs : a.toInt < 0
    · have hq : a.toInt / 2 ^ 31 = -1 := by omega
      rw [if_pos hs, hq]; rfl
    · have hq : a.toInt / 2 ^ 31 = 0 := by omega
      rw [if_neg hs, hq]; rfl
  · rw [if_neg h, Nat.min_eq_left (by omega), sshiftRight_eq_ofInt]

theorem rotateLeft_eq (a b : Word) :
    a.rotateLeft (b.toNat % 32) = BitVec.ofNat 32 (a.toNat * 2 ^ (b.toNat % 32) + a.toNat / 2 ^ (32 - b.toNat % 32)) := by
  have hk : b.toNat % 32 < 32 := Nat.mod_lt _ (by decide)
  generalize b.toNat % 32 = k at hk ⊢
  have ha := a.isLt
  apply BitVec.eq_of_toNat_eq
  rw [BitVec.toNat_rotateLeft, BitVec.toNat_ofNat, Nat.mod_eq_of_lt hk, Nat.shiftLeft_eq, Nat.shiftRight_eq_div_pow]
  have hsplit : 2 ^ 32 = 2 ^ (32 - k) * 2 ^ k := by rw [← Nat.pow_add]; congr 1; omega
  have hlow : a.toNat / 2 ^ (32 - k) < 2 ^ k := by
    rw [Nat.div_lt_iff_lt_mul (Nat.two_pow_pos _), Nat.mul_comm, ← hsplit]; exact ha
  have hhigh : a.toNat * 2 ^ k % 2 ^ 32 = (a.toNat % 2 ^ (32 - k)) * 2 ^ k := by
    rw [hsplit, Nat.mul_mod_mul_right]
  have hlt : (a.toNat % 2 ^ (32 - k)) * 2 ^ k + a.toNat / 2 ^ (32 - k) < 2 ^ 32 := by
    have hm : a.toNat % 2 ^ (32 - k) + 1 ≤ 2 ^ (32 - k) := Nat.mod_lt _ (Nat.two_pow_pos _)
    calc _ < (a.toNat % 2 ^ (32 - k)) * 2 ^ k + 2 ^ k := by omega
      _ = (a.toNat % 2 ^ (32 - k) + 1) * 2 ^ k := by rw [Nat.add_mul, Nat.one_mul]
      _ ≤ 2 ^ (32 - k) * 2 ^ k := Nat.mul_le_mul_right _ hm
      _ = 2 ^ 32 := hsplit.symm
  rw [Nat.add_mod, hhigh, Nat.mod_eq_of_lt (Nat.lt_of_le_of_lt (Nat.div_le_self _ _) ha), Nat.mod_eq_of_lt hlt,
    Nat.mul_comm (a.toNat % _), Nat.two_pow_add_eq_or_of_lt hlow]

end Sys2Proof.Machine
end

section
/-! SUPPORT. Bit fields, counts of bits and reversal, and FP32 signs (R85, R124, Table 04-3). -/

namespace Sys2Proof.Machine

open Sys2Proof.Claims

/-! ## Bit fields (R85) -/

theorem fieldOf_eq (b : Word) : fieldOf b = if (fieldAt b).2 = 0 then none else some (fieldAt b) := by
  unfold fieldOf fieldAt
  simp only
  congr 1
  simp only [eq_iff_iff]
  omega

theorem bfxN_eq (a b : Word) : bfxN a b = BitVec.ofNat 32 (a.toNat / 2 ^ (fieldAt b).1 % 2 ^ (fieldAt b).2) := by
  unfold bfxN
  rw [fieldOf_eq]
  by_cases h : (fieldAt b).2 = 0
  · rw [if_pos h, h, Nat.pow_zero, Nat.mod_one]; rfl
  · rw [if_neg h]

/-- The signed value of the low `w` bits of a number. -/
theorem signed_mod (f w : Nat) (hw : w ≠ 0) (hf : f < 2 ^ w) :
    (if f < 2 ^ (w - 1) then (f : Int) else (f : Int) - 2 ^ w) = ((f + 2 ^ (w - 1)) % 2 ^ w : Nat) - 2 ^ (w - 1) := by
  obtain ⟨k, rfl⟩ := Nat.exists_eq_succ_of_ne_zero hw
  have hp : 2 ^ (k + 1) = 2 * 2 ^ k := by rw [Nat.pow_succ, Nat.mul_comm]
  rw [Nat.succ_eq_add_one, hp] at hf
  rw [Nat.succ_eq_add_one, Nat.add_sub_cancel, hp]
  split
  · next h => rw [Nat.mod_eq_of_lt (by omega)]; push_cast; omega
  · next h =>
    rw [Nat.mod_eq_sub_mod (by omega), Nat.mod_eq_of_lt (by omega)]
    have : ((f + 2 ^ k - 2 * 2 ^ k : Nat) : Int) = f - 2 ^ k := by
      rw [show f + 2 ^ k - 2 * 2 ^ k = f - 2 ^ k by omega, Int.ofNat_sub (by omega)]; push_cast; rfl
    rw [this, Int.pow_succ]
    omega

theorem bfxS_eq (a b : Word) : bfxS a b =
    if (fieldAt b).2 = 0 then 0
    else BitVec.ofInt 32 (((a.toNat / 2 ^ (fieldAt b).1 % 2 ^ (fieldAt b).2 + 2 ^ ((fieldAt b).2 - 1)) % 2 ^ (fieldAt b).2 : Nat) -
      2 ^ ((fieldAt b).2 - 1)) := by
  unfold bfxS
  rw [fieldOf_eq]
  by_cases h : (fieldAt b).2 = 0
  · simp only [if_pos h]
  · simp only [if_neg h]
    rw [signed_mod _ _ h (Nat.mod_lt _ (Nat.two_pow_pos _))]

/-- The mask of a field of `w` bits at `o`. -/
theorem getLsbD_fieldMask (o w j : Nat) (hj : j < 32) :
    (BitVec.ofNat 32 ((2 ^ w - 1) * 2 ^ o)).getLsbD j = (decide (o ≤ j) && decide (j < o + w)) := by
  rw [BitVec.getLsbD_ofNat, Nat.testBit_mul_two_pow, Nat.testBit_two_pow_sub_one]
  by_cases h : o ≤ j
  · have : j - o < w ↔ j < o + w := by omega
    simp [hj, h, this]
  · simp [h]

theorem bfiOp_getLsbD (a b d : Word) (j : Nat) (hj : j < 32) :
    (bfiOp a b d).getLsbD j = if inField b j then a.getLsbD (j - (fieldAt b).1) else d.getLsbD j := by
  unfold bfiOp inField
  rw [fieldOf_eq]
  by_cases h : (fieldAt b).2 = 0
  · have hempty : ¬ ((fieldAt b).1 ≤ j ∧ j < (fieldAt b).1) := by omega
    simp only [h, if_true, Nat.add_zero, Bool.and_eq_true, decide_eq_true_eq, hempty, if_false]
  · simp only [if_neg h, BitVec.getLsbD_or, BitVec.getLsbD_and, BitVec.getLsbD_not, getLsbD_fieldMask _ _ _ hj,
      BitVec.getLsbD_shiftLeft, hj]
    by_cases hf : (fieldAt b).1 ≤ j ∧ j < (fieldAt b).1 + (fieldAt b).2
    · simp [hf, Nat.not_lt.2 hf.1]
    · rw [← Bool.decide_and, decide_eq_false hf]
      simp

/-! ## Counts and reversal -/

/-- The elements of a range before the first one that fails a test. -/
theorem takeWhile_range_length (p : Nat → Bool) (n k : Nat) (hk : k ≤ n) (hlow : ∀ i, i < k → p i = true) (hend : k < n → p k = false) :
    ((List.range n).takeWhile p).length = k := by
  obtain ⟨m, rfl⟩ := Nat.exists_eq_add_of_le hk
  rw [List.range_add, List.takeWhile_append_of_pos fun i hi => hlow i (List.mem_range.1 hi), List.length_append, List.length_range]
  cases m with
  | zero => simp
  | succ m => simp [List.range_succ_eq_map, hend (by omega)]

theorem clzOp_eq (a : Word) :
    clzOp a = BitVec.ofNat 32 ((List.range 32).takeWhile fun i => !a.getLsbD (31 - i)).length := by
  unfold clzOp
  congr 1
  by_cases h : a = 0
  · subst h; rfl
  · have hn : a.toNat ≠ 0 := fun e => h (BitVec.eq_of_toNat_eq e)
    have hlog : a.toNat.log2 < 32 := (Nat.log2_lt hn).2 a.isLt
    rw [if_neg h]
    refine (takeWhile_range_length _ _ _ (by omega) (fun i hi => ?_) fun _ => ?_).symm
    · have hlt : a.toNat < 2 ^ (31 - i) := (Nat.log2_lt hn).1 (by omega)
      rw [Bool.not_eq_true', BitVec.getLsbD, Nat.testBit_lt_two_pow hlt]
    · rw [Bool.not_eq_false', BitVec.getLsbD, show 31 - (31 - a.toNat.log2) = a.toNat.log2 by omega]
      exact Nat.testBit_log2 hn

theorem popcOp_eq (a : Word) : popcOp a = BitVec.ofNat 32 ((List.range 32).countP fun i => a.getLsbD i) := by
  rw [popcOp, List.countP_eq_length_filter]

/-- A number built bit by bit, the first bit highest. -/
theorem testBit_foldl_range (f : Nat → Bool) (n j : Nat) :
    ((List.range n).foldl (fun m i => 2 * m + (f i).toNat) 0).testBit j = (decide (j < n) && f (n - 1 - j)) := by
  induction n generalizing j with
  | zero => simp
  | succ n ih =>
    rw [List.range_succ, List.foldl_append, List.foldl_cons, List.foldl_nil]
    cases j with
    | zero => cases h : f n <;> simp [h, Nat.testBit_zero]
    | succ j =>
      have hdiv : ∀ m, (2 * m + (f n).toNat) / 2 = m := fun m => by cases f n <;> simp only [Bool.toNat_true, Bool.toNat_false] <;> omega
      rw [Nat.testBit_succ, hdiv, ih, Nat.add_sub_cancel, show n - (j + 1) = n - 1 - j by omega]
      simp

theorem brevOp_eq (a : Word) : brevOp a = BitVec.ofNat 32 ((List.range 32).foldl (fun n i => 2 * n + (a.getLsbD i).toNat) 0) := by
  apply BitVec.eq_of_getLsbD_eq
  intro j hj
  rw [brevOp, BitVec.getLsbD_reverse, BitVec.getLsbD_ofNat, testBit_foldl_range, BitVec.getMsbD]
  simp [hj]

/-! ## FP32 signs -/

theorem fabs_eq (a : Word) : a &&& 0x7FFFFFFF = BitVec.ofNat 32 (a.toNat % 2 ^ 31) := by
  apply BitVec.eq_of_toNat_eq
  have hand : (a &&& 0x7FFFFFFF).toNat = a.toNat % 2 ^ 31 := by
    rw [BitVec.toNat_and]; exact Nat.and_two_pow_sub_one_eq_mod a.toNat 31
  rw [hand, BitVec.toNat_ofNat]
  omega

theorem fneg_eq (a : Word) : a ^^^ 0x80000000 = BitVec.ofNat 32 (a.toNat + 2 ^ 31) := by
  apply BitVec.eq_of_getLsbD_eq
  intro j hj
  have hbit : (0x80000000 : Word).getLsbD j = decide (31 = j) := by
    rw [show (0x80000000 : Word) = BitVec.ofNat 32 (2 ^ 31) from rfl, BitVec.getLsbD_ofNat, Nat.testBit_two_pow]
    simp [hj]
  rw [BitVec.getLsbD_xor, hbit, BitVec.getLsbD_ofNat, Nat.add_comm, decide_eq_true hj, Bool.true_and]
  rcases Nat.lt_or_eq_of_le (Nat.le_of_lt_succ hj) with h | rfl
  · rw [Nat.testBit_two_pow_add_gt h, decide_eq_false (by omega), Bool.xor_false]; rfl
  · rw [Nat.testBit_two_pow_add_eq, decide_eq_true rfl, Bool.xor_true]; rfl

end Sys2Proof.Machine
end

section
/-! SUPPORT. The vector forms that set no flag (R84, R85, R124, R131, R132, Tables 04-1 to 04-3). -/

namespace Sys2Proof.Machine

open Sys2Proof.Claims

/-! ## One result, row by row -/

/-- Every two-source form writes the value of its row, in the order of the rows. -/
theorem vectorWord_of_twoSource {i : Instr} {f : Word → Word → Word} (h : twoSource i = some f) :
    VectorWord i fun x l => f (valA x l) (valB x l) := by
  unfold twoSource at h
  split at h <;> simp only [Option.some.injEq, reduceCtorEq] at h <;> subst h
  · exact ⟨rfl, fun _ => rfl⟩
  · exact .congr ⟨rfl, fun _ => rfl⟩ fun _ _ => sub_eq_ofInt _ _
  · exact .congr ⟨rfl, fun _ => rfl⟩ fun _ _ => BitVec.mul_def
  · exact .congr ⟨rfl, fun _ => rfl⟩ fun _ _ => mulHighS_eq _ _
  · exact .congr ⟨rfl, fun _ => rfl⟩ fun _ _ => mulHighN_eq _ _
  · exact .congr ⟨rfl, fun _ => rfl⟩ fun _ _ => divS_fst _ _
  · exact .congr ⟨rfl, fun _ => rfl⟩ fun _ _ => divN_fst _ _
  · exact .congr ⟨rfl, fun _ => rfl⟩ fun _ _ => divS_snd _ _
  · exact .congr ⟨rfl, fun _ => rfl⟩ fun _ _ => divN_snd _ _
  · exact .congr ⟨rfl, fun _ => rfl⟩ fun _ _ => minS_eq _ _
  · exact .congr ⟨rfl, fun _ => rfl⟩ fun _ _ => minN_eq _ _
  · exact .congr ⟨rfl, fun _ => rfl⟩ fun _ _ => maxS_eq _ _
  · exact .congr ⟨rfl, fun _ => rfl⟩ fun _ _ => maxN_eq _ _
  iterate 4 exact ⟨rfl, fun _ => rfl⟩
  · exact .congr ⟨rfl, fun _ => rfl⟩ fun _ _ => shiftL_eq _ _
  · exact .congr ⟨rfl, fun _ => rfl⟩ fun _ _ => shiftR_eq _ _
  · exact .congr ⟨rfl, fun _ => rfl⟩ fun _ _ => shiftA_eq _ _
  · exact .congr ⟨rfl, fun _ => rfl⟩ fun _ _ => rotateLeft_eq _ _
  · exact .congr ⟨rfl, fun _ => rfl⟩ fun _ _ => bfxN_eq _ _
  · exact .congr ⟨rfl, fun _ => rfl⟩ fun _ _ => bfxS_eq _ _

/-- Every other form that writes one register and no flag writes the value of its row, in the order of the rows. -/
theorem vectorWord_of_oneResult {i : Instr} {f : Iss → Nat → Word} (h : oneResult i = some f) : VectorWord i f := by
  unfold oneResult at h
  split at h <;> simp only [Option.some.injEq, reduceCtorEq] at h <;> subst h
  · exact .congr ⟨rfl, fun _ => rfl⟩ fun x l => mul_add_eq_ofNat (valA x l) (valB x l) (valD x l)
  · exact .congr ⟨rfl, fun _ => rfl⟩ fun _ _ => clzOp_eq _
  · exact .congr ⟨rfl, fun _ => rfl⟩ fun _ _ => popcOp_eq _
  · exact .congr ⟨rfl, fun _ => rfl⟩ fun _ _ => brevOp_eq _
  · exact .congr ⟨rfl, fun _ => rfl⟩ fun _ _ => not_eq_ofNat _
  · exact .congr ⟨rfl, fun _ => rfl⟩ fun _ _ => absW_eq_ofInt _
  · exact .congr ⟨rfl, fun _ => rfl⟩ fun _ _ => neg_eq_ofInt _
  iterate 4 exact ⟨rfl, fun _ => rfl⟩
  · exact .congr ⟨rfl, fun _ => rfl⟩ fun x l => BitVec.add_def (x := valA x l) (y := immOf x _)
  iterate 3 exact ⟨rfl, fun _ => rfl⟩
  · exact .congr ⟨rfl, fun _ => rfl⟩ fun _ _ => shiftL_eq _ _
  · exact .congr ⟨rfl, fun _ => rfl⟩ fun _ _ => shiftR_eq _ _
  · exact .congr ⟨rfl, fun _ => rfl⟩ fun _ _ => shiftA_eq _ _
  · exact ⟨rfl, fun _ => rfl⟩
  · exact .congr ⟨rfl, fun _ => rfl⟩ fun _ _ => BitVec.mul_def
  · exact .congr ⟨rfl, fun _ => rfl⟩ fun _ _ => fabs_eq _
  · exact .congr ⟨rfl, fun _ => rfl⟩ fun _ _ => fneg_eq _
  iterate 4 exact ⟨rfl, fun _ => rfl⟩

/-! ## Pairs and bit fields -/

/-- The word's only effect is to write the pair at its destination in every active lane. -/
def PairWord (i : Instr) (f : Iss → Nat → DWord) : Prop :=
  (form i).courier = false ∧ ∀ s, exec i s = word i s fun x s => x.mapPair s (f x)

theorem pairWord_of_pairResult {i : Instr} {f : Iss → Nat → DWord} (h : pairResult i = some f) : PairWord i f := by
  unfold pairResult at h
  split at h <;> simp only [Option.some.injEq, reduceCtorEq] at h <;> subst h
  · refine ⟨rfl, fun s => ?_⟩
    have e : ∀ (x : Iss) l, BitVec.ofNat 64 ((valA x l).toNat * (valB x l).toNat + (x.g.pair x.d l).toNat) =
        BitVec.ofNat 64 ((x.g.code x.a l).toNat * (x.g.code x.b l).toNat) + x.g.pair x.d l := fun x l => by
      rw [BitVec.ofNat_add, BitVec.ofNat_toNat, BitVec.setWidth_eq]; rfl
    simp only [e]; rfl
  · exact ⟨rfl, fun _ => rfl⟩

/-- Two consecutive vector registers written in the lanes of a mask. -/
theorem Grp.vreg_setV_setV (g : Grp) (d : Nat) (m : LaneMask) (lo hi : Nat → Word) (r l : Nat) (hl : l < 96) :
    ((g.setV d m lo).setV (d + 1) m hi).vreg r l =
      if r = d ∧ m.getLsbD l = true then lo l else if r = d + 1 ∧ m.getLsbD l = true then hi l else g.vreg r l := by
  rw [Grp.vreg_setV _ _ _ _ _ _ hl, Grp.vreg_setV _ _ _ _ _ _ hl]
  by_cases hd : r = d
  · have hne : r ≠ d + 1 := by omega
    simp only [hne, false_and, if_false]
  · simp only [hd, false_and, if_false]

theorem pairFormsWriteBothRegisters : PairFormsWriteBothRegisters := by
  intro i f s x hf h
  obtain ⟨hc, hexec⟩ := pairWord_of_pairResult hf
  have hw := ready_who h hc
  obtain ⟨u, y, hu, hran, hheld⟩ := ready_ran h hw (hexec s) rfl (((ready_leaves h hw).modGrp
    fun g => g.setV x.d x.act fun l => (f x l).extractLsb' 0 32).modGrp fun g => g.setV (x.d + 1) x.act fun l => (f x l).extractLsb' 32 32)
    rfl rfl rfl
  refine ⟨u, y, hu, hran, ?_, fun r l hl => ?_⟩
  · rw [hheld, Grp.v_of_held hheld]; rfl
  · rw [Grp.vreg, Grp.v_of_held hheld, ← Grp.vreg, Grp.vreg_setV_setV _ _ _ _ _ _ _ hl]; rfl

theorem bfiInsertsTheField : BfiInsertsTheField := by
  intro g d a b s x h
  have hv : VectorWord (.bfi g d a b) fun x l => bfiOp (valA x l) (valB x l) (valD x l) := ⟨rfl, fun _ => rfl⟩
  obtain ⟨u, y, hu, hran, hheld, hregs⟩ := hv.writes h
  refine ⟨u, y, hu, hran, hheld, fun r l hl hn => by rw [hregs r l hl, if_neg hn], fun l j hl ha hj => ?_⟩
  rw [hregs _ _ hl, if_pos ⟨rfl, ha⟩, bfiOp_getLsbD _ _ _ _ hj]

/-- Settles O1: the forms of Tables 04-1 to 04-3 that set no flag write the value of their row. -/
theorem vectorFormsWriteTheirResult : Obligations.VectorFormsWriteTheirResult :=
  ⟨fun _ _ _ _ hf h => (vectorWord_of_twoSource hf).writes h, fun _ _ _ _ hf h => (vectorWord_of_oneResult hf).writes h,
    bfiInsertsTheField, pairFormsWriteBothRegisters⟩

end Sys2Proof.Machine
end

section
/-! SUPPORT. Words that write one scalar of their group or courier, and the scalar forms (R86, R87). -/

namespace Sys2Proof.Machine

open Sys2Proof.Claims

/-! ## One scalar written -/

/-- The word's only effect is to write its destination scalar once. -/
def ScalarWord (i : Instr) (f : Iss → Word) : Prop := ∀ s, exec i s = word i s fun x s => .ok (x.setS s x.d (f x))

theorem ScalarWord.congr {i : Instr} {f f' : Iss → Word} (h : ScalarWord i f) (he : ∀ x, f x = f' x) : ScalarWord i f' := by
  have e : f = f' := funext he
  exact e ▸ h

/-- A courier that has completed a word continues at the next one, after changes of its own. -/
theorem OnlyCourier.retire_next {s u : State} {x : Iss} {c : Nat} {y : Courier} (h : OnlyCourier c s u y) (hw : x.who = .courier c) :
    OnlyCourier c s (u.retire x true) { y with cpc := x.next, wait := none, last := s.gtime } := by
  simp only [State.retire, hw, h.gtime]
  exact h.modCourier fun y => { y with cpc := x.next, wait := none, last := s.gtime }

theorem ScalarWord.writes {i : Instr} {f : Iss → Word} {s : State} {x : Iss} (hf : ScalarWord i f) (h : Ready i s x) :
    ∃ u, exec i s = .next u ∧ WroteScalar x s u x.d (f x) := by
  rcases ready_agent h with ⟨hw, -⟩ | ⟨c, y, hw, hy, hs, hnext⟩
  · obtain ⟨u, z, hu, hran, hheld⟩ := ready_ran h hw (hf s) (by simp only [Iss.setS, hw])
      ((ready_leaves h hw).modGrp fun g => g.setS x.d (f x)) rfl rfl rfl
    refine ⟨u, hu, ?_⟩
    simp only [WroteScalar, hw]
    refine ⟨z, hran, ?_, fun r => ?_⟩
    · rw [hheld, Grp.s_of_held hheld]; rfl
    · rw [Grp.sreg, Grp.s_of_held hheld, ← Grp.sreg, Grp.sreg_setS]
  · refine ⟨(x.setS s x.d (f x)).retire x true, by rw [hf, ready_word h rfl], ?_⟩
    have hset : OnlyCourier c s (x.setS s x.d (f x)) { y with s := Tab.set 0 y.s x.d (f x) } := by
      simp only [Iss.setS, hw]
      exact (OnlyCourier.refl hy).modCourier fun y => { y with s := Tab.set 0 y.s x.d (f x) }
    simp only [WroteScalar, hw]
    refine ⟨y, _, hy, hset.retire_next hw, by rw [hnext], fun r => ?_⟩
    rw [Grp.sreg, hs]
    exact Tab.get_set 0 y.s x.d r _

/-! ## The forms of Table 04-5 -/

theorem bit_decide (p : Prop) [Decidable p] : bit (decide p) = if p then 1 else 0 := by
  by_cases h : p <;> simp [bit, h]

theorem bit_decide_not (p : Prop) [Decidable p] : bit (decide ¬p) = if p then 0 else 1 := by
  by_cases h : p <;> simp [bit, h]

theorem scalarWord_of_scalarResult {i : Instr} {f : Iss → Word} (h : scalarResult i = some f) : ScalarWord i f := by
  unfold scalarResult at h
  split at h <;> simp only [Option.some.injEq, reduceCtorEq] at h <;> subst h
  · exact fun _ => rfl
  · exact .congr (fun _ => rfl) fun _ => sub_eq_ofInt _ _
  · exact .congr (fun _ => rfl) fun _ => BitVec.mul_def
  iterate 3 exact fun _ => rfl
  · exact .congr (fun _ => rfl) fun _ => shiftL_eq _ _
  · exact .congr (fun _ => rfl) fun _ => shiftR_eq _ _
  · exact .congr (fun _ => rfl) fun _ => shiftA_eq _ _
  · exact .congr (fun _ => rfl) fun _ => minS_eq _ _
  · exact .congr (fun _ => rfl) fun _ => minN_eq _ _
  · exact .congr (fun _ => rfl) fun _ => maxS_eq _ _
  · exact .congr (fun _ => rfl) fun _ => maxN_eq _ _
  · exact fun _ => rfl
  · exact .congr (fun _ => rfl) fun _ => ite_not ..
  · exact .congr (fun _ => rfl) fun _ => bit_decide _
  · exact .congr (fun _ => rfl) fun _ => bit_decide_not _
  iterate 8 exact .congr (fun _ => rfl) fun _ => bit_decide _
  · exact fun _ => rfl

/-- Settles O5: each scalar form writes the value of its row to sd once, on a group and on a courier. -/
theorem scalarFormsWriteOnce : Obligations.ScalarFormsWriteOnce :=
  fun _ _ _ _ hf h => (scalarWord_of_scalarResult hf).writes h

end Sys2Proof.Machine
end

section
/-! SUPPORT. What the word checks say of a ready word (R59), the flags of active lanes (R120, R121), and words that write a predicate (R57, R89, R90, R93). -/

namespace Sys2Proof.Machine

open Sys2Proof.Claims

/-! ## What the word checks say of a ready word (R59) -/

theorem ite_some_eq_none {α : Type} {c : Prop} [Decidable c] {a : α} {r : Option α} : (if c then some a else r) = none ↔ ¬c ∧ r = none := by
  by_cases h : c
  · simp [h]
  · simp [h]

theorem legal_of_wordFault_none {f : Form} {courier priv : Bool} {regs rep : Nat} {h : Hints}
    (hw : wordFault f courier priv regs h rep = none) : f.legal = true := by
  cases hl : f.legal with
  | true => rfl
  | false => simp [wordFault, hl] at hw

theorem operandBad_of_wordFault_none {f : Form} {courier priv : Bool} {regs rep : Nat} {h : Hints}
    (hw : wordFault f courier priv regs h rep = none) : operandBad regs h rep f = false := by
  simp only [wordFault, ite_some_eq_none, and_true] at hw
  obtain ⟨-, -, -, -, hb⟩ := hw
  exact Bool.eq_false_iff.2 hb

theorem ready_form {i : Instr} {s : State} {x : Iss} (h : Ready i s x) : x.form = form i := by
  rcases State.stand_ok h.stands with ⟨t, k, T, g, pc, -, -, -, -, -, -, rfl⟩ | ⟨c, y, -, -, -, -, rfl⟩ <;> rfl

theorem ready_legal {i : Instr} {s : State} {x : Iss} (h : Ready i s x) : (form i).legal = true :=
  ready_form h ▸ legal_of_wordFault_none h.checked

theorem ready_not_bad {i : Instr} {s : State} {x : Iss} (h : Ready i s x) : (form i).bad = false := by
  have hb := operandBad_of_wordFault_none h.checked
  rw [ready_form h] at hb
  simp only [operandBad, Bool.or_eq_false_iff] at hb
  obtain ⟨⟨hbad, -⟩, -⟩ := hb
  exact hbad

/-! ## Lane masks -/

/-- Bits of a mask gathered over a list of lanes. -/
theorem getLsbD_foldl_laneBit (f : Nat → Bool) (ls : List Nat) (m : LaneMask) (l : Nat) (hl : l < 96) :
    (ls.foldl (fun m j => if f j then m ||| laneBit j else m) m).getLsbD l = (m.getLsbD l || (decide (l ∈ ls) && f l)) := by
  induction ls generalizing m with
  | nil => simp
  | cons a ls ih =>
    rw [List.foldl_cons, ih]
    have hbit : (laneBit a).getLsbD l = decide (a = l) := by
      rw [laneBit, BitVec.getLsbD_ofNat, Nat.testBit_two_pow]; simp [hl]
    by_cases hf : f a = true
    · rw [if_pos hf, BitVec.getLsbD_or, hbit]
      by_cases hla : a = l
      · subst hla; simp [hf]
      · simp [hla, Ne.symm hla]
    · by_cases hla : l = a
      · subst hla; simp [hf]
      · simp [hf, hla]

theorem getLsbD_maskWhere (f : Nat → Bool) (l : Nat) (hl : l < 96) : (maskWhere f).getLsbD l = f l := by
  rw [maskWhere, getLsbD_foldl_laneBit _ _ _ _ hl]
  simp [hl]

theorem getLsbD_combine (f : BitVec 2) (old c : LaneMask) (l : Nat) (hl : l < 96) :
    (combine f old c).getLsbD l = combined f (old.getLsbD l) (c.getLsbD l) := by
  unfold combine combined
  split
  · rfl
  · split
    · exact BitVec.getLsbD_and
    · split
      · exact BitVec.getLsbD_or
      · rw [BitVec.getLsbD_not, decide_eq_true hl, Bool.true_and]

/-- A predicate after a write in the lanes of a mask; `p7` is none (R220). -/
theorem Grp.getLsbD_pred_setP (g : Grp) (p : Nat) (hp : p ≠ 7) (m v : LaneMask) (n l : Nat) (hl : l < 96) :
    ((g.setP p m v).pred n).getLsbD l = if n = p ∧ m.getLsbD l = true then v.getLsbD l else (g.pred n).getLsbD l := by
  by_cases hn : n = p
  · subst hn
    simp only [Grp.pred, Grp.setP, if_neg hp, Tab.get_set, if_true, BitVec.getLsbD_or, BitVec.getLsbD_and, BitVec.getLsbD_not,
      decide_eq_true hl, true_and, Bool.true_and]
    cases m.getLsbD l <;> simp
  · simp only [Grp.pred, Grp.setP, Tab.get_set, hn, false_and, if_false]

/-- What a group holds says its predicates. -/
theorem Grp.p_of_held {g h : Grp} (e : h.held = g.held) : h.p = g.p := by
  have hp := congrArg Grp.p e
  exact hp

theorem Grp.pred_of_held {g h : Grp} (e : h.held = g.held) (n : Nat) : h.pred n = g.pred n := by
  simp only [Grp.pred, Grp.p_of_held e]

/-! ## Flags of the active lanes -/

/-- The flags that the active lanes raise. -/
def Iss.raised (x : Iss) (f : Nat → BitVec 5) : BitVec 5 := (lanesOf x.act).foldl (fun m l => m ||| f l) 0

theorem getLsbD_foldl_or {w : Nat} (f : Nat → BitVec w) (ls : List Nat) (m : BitVec w) (b : Nat) :
    (ls.foldl (fun m l => m ||| f l) m).getLsbD b = true ↔ m.getLsbD b = true ∨ ∃ l, l ∈ ls ∧ (f l).getLsbD b = true := by
  induction ls generalizing m with
  | nil => simp
  | cons a ls ih => rw [List.foldl_cons, ih, BitVec.getLsbD_or]; simp [or_assoc]

theorem getLsbD_raised (x : Iss) (f : Nat → BitVec 5) (b : Nat) :
    (x.raised f).getLsbD b = true ↔ ∃ l, l < 96 ∧ x.act.getLsbD l = true ∧ (f l).getLsbD b = true := by
  rw [Iss.raised, getLsbD_foldl_or]
  simp [mem_lanesOf, and_assoc]

/-- Flags merged into GFLAGS (R120). -/
def Grp.mergeFlags (g : Grp) (f : BitVec 5) : Grp := { g with gflags := g.gflags ||| f }

/-- Where no active lane raises a lane-precise flag, the lanes' flags enter GFLAGS (R121, R123). -/
theorem Iss.flagLanes_untrapped {x : Iss} {s : State} {f : Nat → BitVec 5}
    (h : ∀ l, l < 96 → x.act.getLsbD l = true → f l &&& x.precise s = 0) :
    x.flagLanes s f = .ok (x, s.modGrp x.t x.k fun g => g.mergeFlags (x.raised f)) := by
  have hbad : (lanesOf x.act).filter (fun l => decide (f l &&& x.precise s ≠ 0)) = [] := by
    rw [List.filter_eq_nil_iff]
    intro l hl
    obtain ⟨hlt, hact⟩ := (mem_lanesOf _ _).1 hl
    simp [h l hlt hact]
  simp only [Iss.flagLanes, hbad, Iss.raised, Grp.mergeFlags]

/-- GFLAGS with the lanes' flags merged. -/
theorem mergedFlags_of_gflags {x : Iss} {h : Grp} {f : Nat → BitVec 5} (e : h.gflags = x.g.gflags ||| x.raised f) : MergedFlags x h f := by
  intro b _
  rw [e, BitVec.getLsbD_or, Bool.or_eq_true, getLsbD_raised]

/-- What a group holds says its flags. -/
theorem Grp.gflags_of_held {g h : Grp} (e : h.held = g.held) : h.gflags = g.gflags := by
  have hf := congrArg Grp.gflags e
  exact hf

/-! ## The forms that write a predicate and set no flag -/

/-- The word's only effect is to write a predicate in every active lane, and it passes no check where that is `p7` (R57, R60). -/
structure PredicateWord (i : Instr) (p : Nat) (f : Iss → Nat → Bool) : Prop where
  onGroup : (form i).courier = false
  writable : (form i).bad = false → (form i).legal = true → p ≠ 7
  sets : ∃ m : Iss → LaneMask, (∀ x l, l < 96 → (m x).getLsbD l = f x l) ∧ ∀ s, exec i s = word i s fun x s => .ok (x.setP s p (m x))

/-- What holds of the sixteen conditions, one by one, holds of each. -/
theorem forall_condition {P : BitVec 4 → Prop}
    (h : P 0 ∧ P 1 ∧ P 2 ∧ P 3 ∧ P 4 ∧ P 5 ∧ P 6 ∧ P 7 ∧ P 8 ∧ P 9 ∧ P 10 ∧ P 11 ∧ P 12 ∧ P 13 ∧ P 14 ∧ P 15) (c : BitVec 4) : P c := by
  obtain ⟨h0, h1, h2, h3, h4, h5, h6, h7, h8, h9, h10, h11, h12, h13, h14, h15⟩ := h
  have hc : c = 0 ∨ c = 1 ∨ c = 2 ∨ c = 3 ∨ c = 4 ∨ c = 5 ∨ c = 6 ∨ c = 7 ∨ c = 8 ∨ c = 9 ∨ c = 10 ∨ c = 11 ∨ c = 12 ∨ c = 13 ∨
      c = 14 ∨ c = 15 := by revert c; decide
  rcases hc with rfl | rfl | rfl | rfl | rfl | rfl | rfl | rfl | rfl | rfl | rfl | rfl | rfl | rfl | rfl | rfl <;> assumption

theorem icond_eq_icmpOf (c : BitVec 4) (a b : Word) : icond c a b = icmpOf c a b :=
  forall_condition (P := fun c => icond c a b = icmpOf c a b)
    ⟨rfl, rfl, rfl, rfl, rfl, rfl, rfl, rfl, rfl, rfl, rfl, rfl, rfl, rfl, rfl, rfl⟩ c

theorem toNat_ne_seven {p : BitVec 3} (h : decide (p = 7) = false) : p.toNat ≠ 7 :=
  fun e => of_decide_eq_false h (BitVec.eq_of_toNat_eq e)

theorem predicateWord_of_predResult {i : Instr} {p : Nat} {f : Iss → Nat → Bool} (h : predResult i = some (p, f)) :
    PredicateWord i p f := by
  unfold predResult at h
  split at h <;> simp only [Option.some.injEq, Prod.mk.injEq, reduceCtorEq] at h <;> obtain ⟨rfl, rfl⟩ := h
  · refine ⟨rfl, fun hb _ => toNat_ne_seven hb, _, fun x l hl => ?_, fun _ => rfl⟩
    rw [getLsbD_combine _ _ _ _ hl, getLsbD_maskWhere _ _ hl, icond_eq_icmpOf]; rfl
  · exact ⟨rfl, fun hb _ => toNat_ne_seven hb, _, fun _ _ _ => BitVec.getLsbD_and, fun _ => rfl⟩
  · exact ⟨rfl, fun hb _ => toNat_ne_seven hb, _, fun _ _ _ => BitVec.getLsbD_or, fun _ => rfl⟩
  · exact ⟨rfl, fun hb _ => toNat_ne_seven hb, _, fun _ _ _ => BitVec.getLsbD_xor, fun _ => rfl⟩
  · refine ⟨rfl, fun hb _ => toNat_ne_seven hb, _, fun _ _ hl => ?_, fun _ => rfl⟩
    rw [BitVec.getLsbD_not, decide_eq_true hl, Bool.true_and]
  · refine ⟨rfl, fun _ hl e => ?_, _, fun _ _ hl => getLsbD_maskWhere _ _ hl, fun _ => rfl⟩
    have hle := BitVec.le_def.1 (of_decide_eq_true hl)
    rw [e] at hle
    exact absurd hle (by decide)

theorem predicateFormsWriteActiveLanes : PredicateFormsWriteActiveLanes := by
  intro i p f s x hf h
  obtain ⟨hc, hp, m, hm, hexec⟩ := predicateWord_of_predResult hf
  have hw := ready_who h hc
  obtain ⟨u, y, hu, hran, hheld⟩ := ready_ran h hw (hexec s) rfl ((ready_leaves h hw).modGrp fun g => g.setP p x.act (m x)) rfl rfl rfl
  refine ⟨u, y, hu, hran, ?_, fun n l hl => ?_⟩
  · rw [hheld, Grp.p_of_held hheld]; rfl
  · rw [Grp.pred_of_held hheld, Grp.getLsbD_pred_setP _ _ (hp (ready_not_bad h) (ready_legal h)) _ _ _ _ hl, hm x l hl]

end Sys2Proof.Machine
end

section
/-! SUPPORT. The order of FP32 words that are no NaN is that of their sign and magnitude (Table 03-18, R89). -/

namespace Sys2Proof.Machine

open Sys2Proof.Claims

/-! ## The value of an FP32 word by its magnitude bits -/

/-- The sign bit and the 31 magnitude bits of a word. -/
theorem toNat_eq_sign_magnitude (a : Word) : a.toNat = 2 ^ 31 * (a.getLsbD 31).toNat + a.toNat % 2 ^ 31 := by
  have hlt := a.isLt
  rw [BitVec.getLsbD, Nat.toNat_testBit]
  omega

theorem sign_fp32 (a : Word) : decide (a.toNat % 2 ^ NFmt.fp32.width / 2 ^ (NFmt.fp32.width - 1) = 1) = a.getLsbD 31 := by
  have h := toNat_eq_sign_magnitude a
  rw [show NFmt.fp32.width = 32 from rfl]
  cases hs : a.getLsbD 31 <;> rw [hs] at h <;> simp only [Bool.toNat_false, Bool.toNat_true] at h
  · rw [decide_eq_false_iff_not]; omega
  · rw [decide_eq_true_iff]; omega

/-- The value of an FP32 word in terms of its sign, exponent and fraction. -/
theorem value_fp32 (a : Word) : NFmt.fp32.value a =
    if a.toNat % 2 ^ 31 / 2 ^ 23 = 255 then
      if a.toNat % 2 ^ 23 = 0 then .inf (a.getLsbD 31) else .nan (decide (a.toNat % 2 ^ 23 < 2 ^ 22))
    else if a.toNat % 2 ^ 31 / 2 ^ 23 = 0 then
      if a.toNat % 2 ^ 23 = 0 then .zero (a.getLsbD 31) else .fin (a.getLsbD 31) (a.toNat % 2 ^ 23) (-149)
    else .fin (a.getLsbD 31) (2 ^ 23 + a.toNat % 2 ^ 23) (-149 + (a.toNat % 2 ^ 31 / 2 ^ 23 : Nat) - 1) := by
  have he : a.toNat % 2 ^ 32 / 2 ^ 23 % 2 ^ 8 = a.toNat % 2 ^ 31 / 2 ^ 23 := by omega
  have hm : a.toNat % 2 ^ 32 % 2 ^ 23 = a.toNat % 2 ^ 23 := by omega
  simp only [NFmt.value, sign_fp32]
  simp only [NFmt.isInt, NFmt.width, NFmt.mbits, NFmt.ebits, NFmt.hasInf, NFmt.emin, NFmt.bias, he, hm,
    Bool.false_eq_true, if_false, Bool.true_and, decide_eq_true_eq, reduceCtorEq, false_and, Nat.reduceSub]
  rfl

/-! ## Magnitudes in units of the least step -/

/-- A magnitude below infinity in units of 2^−149, from its 31 bits. -/
def gridOf (n : Nat) : Nat := if n / 2 ^ 23 = 0 then n else (2 ^ 23 + n % 2 ^ 23) * 2 ^ (n / 2 ^ 23 - 1)

theorem gridOf_lt_succ (n : Nat) : gridOf n < gridOf (n + 1) := by
  unfold gridOf
  by_cases hcarry : n % 2 ^ 23 + 1 = 2 ^ 23
  · have he : (n + 1) / 2 ^ 23 = n / 2 ^ 23 + 1 := by omega
    have hm : (n + 1) % 2 ^ 23 = 0 := by omega
    rw [he, hm, if_neg (Nat.succ_ne_zero _), Nat.add_sub_cancel, Nat.add_zero]
    generalize hq : n / 2 ^ 23 = e
    cases e with
    | zero => simp only [if_true]; omega
    | succ e =>
      rw [if_neg (Nat.succ_ne_zero _), Nat.add_sub_cancel, Nat.pow_succ (m := e), Nat.mul_comm (2 ^ e), ← Nat.mul_assoc]
      exact Nat.mul_lt_mul_of_pos_right (by omega) (Nat.two_pow_pos e)
  · have he : (n + 1) / 2 ^ 23 = n / 2 ^ 23 := by omega
    have hm : (n + 1) % 2 ^ 23 = n % 2 ^ 23 + 1 := by omega
    rw [he, hm]
    split
    · exact Nat.lt_succ_self n
    · exact Nat.mul_lt_mul_of_pos_right (by omega) (Nat.two_pow_pos _)

theorem lt_of_lt_succ {f : Nat → Nat} (hf : ∀ n, f n < f (n + 1)) {p q : Nat} (h : p < q) : f p < f q := by
  induction h with
  | refl => exact hf p
  | step _ ih => exact Nat.lt_trans ih (hf _)

theorem lt_iff_of_lt_succ {f : Nat → Nat} (hf : ∀ n, f n < f (n + 1)) (p q : Nat) : f p < f q ↔ p < q := by
  refine ⟨fun h => Nat.lt_of_not_le fun hqp => ?_, lt_of_lt_succ hf⟩
  rcases Nat.lt_or_eq_of_le hqp with hlt | rfl
  · exact Nat.lt_asymm h (lt_of_lt_succ hf hlt)
  · exact Nat.lt_irrefl _ h

/-- A magnitude with a sign. -/
def signedBy (neg : Bool) (n : Nat) : Int := if neg then -(n : Int) else n

theorem floatKey_eq (a : Word) : floatKey a = signedBy (a.getLsbD 31) (a.toNat % 2 ^ 31) := rfl

theorem signedBy_mul (neg : Bool) (n k : Nat) : signedBy neg n * k = signedBy neg (n * k) := by
  cases neg with
  | false => exact (Int.natCast_mul n k).symm
  | true => exact (Int.neg_mul _ _).trans (congrArg Neg.neg (Int.natCast_mul n k).symm)

/-! ## Comparisons of integers -/

theorem compare_congr {a b c d : Int} (hlt : a < b ↔ c < d) (heq : a = b ↔ c = d) : Ord.compare a b = Ord.compare c d := by
  simp only [Ord.compare, compareOfLessAndEq, hlt, heq]

theorem compare_eq_lt_iff (a b : Int) : Ord.compare a b = .lt ↔ a < b := by
  simp only [Ord.compare, compareOfLessAndEq]
  split
  · next h => exact iff_of_true rfl h
  · next h => refine iff_of_false ?_ h; split <;> exact nofun

theorem compare_eq_gt_iff (a b : Int) : Ord.compare a b = .gt ↔ b < a := by
  simp only [Ord.compare, compareOfLessAndEq]
  split
  · exact iff_of_false nofun (by omega)
  · split
    · exact iff_of_false nofun (by omega)
    · exact iff_of_true rfl (by omega)

theorem compare_mul_right (a b : Int) {k : Int} (hk : 0 < k) : Ord.compare (a * k) (b * k) = Ord.compare a b :=
  compare_congr (Int.mul_lt_mul_right hk) (Int.mul_eq_mul_right_iff (Int.ne_of_gt hk))

/-- A rising function of magnitudes keeps the order of signed ones. -/
theorem compare_signedBy {f : Nat → Nat} (hf : ∀ n, f n < f (n + 1)) (h0 : f 0 = 0) (s t : Bool) (p q : Nat) :
    Ord.compare (signedBy s (f p)) (signedBy t (f q)) = Ord.compare (signedBy s p) (signedBy t q) := by
  have hpq := lt_iff_of_lt_succ hf p q
  have hqp := lt_iff_of_lt_succ hf q p
  have hp := lt_iff_of_lt_succ hf 0 p
  have hq := lt_iff_of_lt_succ hf 0 q
  rw [h0] at hp hq
  refine compare_congr ?_ ?_ <;> cases s <;> cases t <;> simp only [signedBy, Bool.false_eq_true, if_true, if_false] <;> omega

/-- Of two signed magnitudes the greater one's sign decides. -/
theorem compare_signedBy_of_lt {p q : Nat} (h : p < q) (s t : Bool) : Ord.compare (signedBy s p) (signedBy t q) = if t then .gt else .lt := by
  cases t
  · exact (compare_eq_lt_iff ..).2 (by cases s <;> simp only [signedBy, Bool.false_eq_true, if_true, if_false] <;> omega)
  · exact (compare_eq_gt_iff ..).2 (by cases s <;> simp only [signedBy, Bool.false_eq_true, if_true, if_false] <;> omega)

theorem compare_signedBy_of_gt {p q : Nat} (h : q < p) (s t : Bool) : Ord.compare (signedBy s p) (signedBy t q) = if s then .lt else .gt := by
  cases s
  · exact (compare_eq_gt_iff ..).2 (by cases t <;> simp only [signedBy, Bool.false_eq_true, if_true, if_false] <;> omega)
  · exact (compare_eq_lt_iff ..).2 (by cases t <;> simp only [signedBy, Bool.false_eq_true, if_true, if_false] <;> omega)

/-! ## Comparisons of values -/

theorem FVal.compare_finite {x y : FVal} (hx : x.isInf = false) (hy : y.isInf = false) :
    x.compare y = Ord.compare (x.scaled (min (x.exp.getD 0) (y.exp.getD 0))) (y.scaled (min (x.exp.getD 0) (y.exp.getD 0))) := by
  cases x <;> cases y <;> simp only [FVal.isInf, Bool.true_eq_false] at hx hy <;> rfl

theorem FVal.compare_inf_left (s : Bool) {y : FVal} (hy : y.isInf = false) : FVal.compare (.inf s) y = if s then .lt else .gt := by
  cases y <;> simp only [FVal.isInf, Bool.true_eq_false] at hy <;> rfl

theorem FVal.compare_inf_right (s : Bool) {x : FVal} (hx : x.isInf = false) : FVal.compare x (.inf s) = if s then .gt else .lt := by
  cases x <;> simp only [FVal.isInf, Bool.true_eq_false] at hx <;> rfl

theorem FVal.scaled_fin (neg : Bool) (m : Nat) (e e0 : Int) : (FVal.fin neg m e).scaled e0 = signedBy neg (m * 2 ^ (e - e0).toNat) := by
  simp only [FVal.scaled, signedBy, Int.natCast_mul, Int.natCast_pow, Int.cast_ofNat_Int]

/-- A word below infinity is its grid magnitude with its sign, on every grid that its exponent allows. -/
theorem scaled_value_fp32 (a : Word) (hfin : a.toNat % 2 ^ 31 / 2 ^ 23 ≠ 255) :
    (NFmt.fp32.value a).isInf = false ∧ ∃ k : Nat, (NFmt.fp32.value a).exp.getD 0 = k - 149 ∧
      ∀ j : Nat, j ≤ k → (NFmt.fp32.value a).scaled (j - 149) * (2 ^ j : Nat) = signedBy (a.getLsbD 31) (gridOf (a.toNat % 2 ^ 31)) := by
  have hm : a.toNat % 2 ^ 31 % 2 ^ 23 = a.toNat % 2 ^ 23 := by omega
  rw [value_fp32, if_neg hfin, gridOf, hm]
  by_cases he : a.toNat % 2 ^ 31 / 2 ^ 23 = 0
  · have hlow : a.toNat % 2 ^ 31 = a.toNat % 2 ^ 23 := by omega
    rw [if_pos he, if_pos he, hlow]
    by_cases hz : a.toNat % 2 ^ 23 = 0
    · rw [if_pos hz, hz]
      exact ⟨rfl, 149, rfl, fun j _ => by simp [FVal.scaled, signedBy]⟩
    · rw [if_neg hz]
      refine ⟨rfl, 0, rfl, fun j hj => ?_⟩
      obtain rfl : j = 0 := Nat.le_zero.1 hj
      rw [FVal.scaled_fin, signedBy_mul]
      simp
  · rw [if_neg he, if_neg he]
    refine ⟨rfl, a.toNat % 2 ^ 31 / 2 ^ 23 - 1, ?_, fun j hj => ?_⟩
    · simp only [FVal.exp, Option.getD_some]; omega
    · generalize a.toNat % 2 ^ 31 / 2 ^ 23 = e at he hj ⊢
      have hd : ((-149 + (e : Int) - 1) - ((j : Int) - 149)).toNat = e - 1 - j := by omega
      rw [FVal.scaled_fin, signedBy_mul, hd, Nat.mul_assoc, ← Nat.pow_add, Nat.sub_add_cancel hj]

theorem compare_value_finite (a b : Word) (ha : a.toNat % 2 ^ 31 / 2 ^ 23 ≠ 255) (hb : b.toNat % 2 ^ 31 / 2 ^ 23 ≠ 255) :
    (NFmt.fp32.value a).compare (NFmt.fp32.value b) = Ord.compare (floatKey a) (floatKey b) := by
  obtain ⟨hia, k, hk, hsa⟩ := scaled_value_fp32 a ha
  obtain ⟨hib, n, hn, hsb⟩ := scaled_value_fp32 b hb
  have hmin : min ((k : Int) - 149) (n - 149) = (min k n : Nat) - 149 := by omega
  rw [FVal.compare_finite hia hib, hk, hn, hmin, ← compare_mul_right _ _ (k := (2 ^ min k n : Nat)) (Int.ofNat_lt.2 (Nat.two_pow_pos _)),
    hsa _ (Nat.min_le_left ..), hsb _ (Nat.min_le_right ..), compare_signedBy gridOf_lt_succ rfl]
  rfl

/-- An infinite word, by its magnitude. -/
theorem value_inf {a : Word} (h : a.toNat % 2 ^ 31 = 0x7F800000) : NFmt.fp32.value a = .inf (a.getLsbD 31) := by
  rw [value_fp32, if_pos (by omega), if_pos (by omega)]

/-- Words that are no NaN compare as their signed magnitudes. -/
theorem compare_value_fp32 {a b : Word} (ha : nanBits a = false) (hb : nanBits b = false) :
    (NFmt.fp32.value a).compare (NFmt.fp32.value b) = Ord.compare (floatKey a) (floatKey b) := by
  replace ha : a.toNat % 2 ^ 31 ≤ 0x7F800000 := Nat.not_lt.1 (of_decide_eq_false ha)
  replace hb : b.toNat % 2 ^ 31 ≤ 0x7F800000 := Nat.not_lt.1 (of_decide_eq_false hb)
  rcases Nat.lt_or_eq_of_le ha with hlta | hina <;> rcases Nat.lt_or_eq_of_le hb with hltb | hinb
  · exact compare_value_finite a b (by omega) (by omega)
  · rw [value_inf hinb, FVal.compare_inf_right _ (scaled_value_fp32 a (by omega)).1, floatKey_eq, floatKey_eq,
      compare_signedBy_of_lt (hinb ▸ hlta)]
  · rw [value_inf hina, FVal.compare_inf_left _ (scaled_value_fp32 b (by omega)).1, floatKey_eq, floatKey_eq,
      compare_signedBy_of_gt (hina ▸ hltb)]
  · rw [value_inf hina, value_inf hinb, floatKey_eq, floatKey_eq, hina, hinb]
    cases a.getLsbD 31 <;> cases b.getLsbD 31 <;> rfl

/-! ## `fcmp` (R89) -/

theorem isNan_value (a : Word) : (NFmt.fp32.value a).isNan = nanBits a := by
  rw [value_fp32, nanBits, eq_comm]
  split
  · split
    · exact decide_eq_false (by omega)
    · exact decide_eq_true (by omega)
  · have hn : ¬ 0x7F800000 < a.toNat % 2 ^ 31 := by omega
    rw [decide_eq_false hn]
    split
    · split <;> rfl
    · rfl

theorem isSnan_value (a : Word) : (NFmt.fp32.value a).isSnan = snanBits a := by
  have hbit : (!a.getLsbD 22) = decide (a.toNat % 2 ^ 23 < 2 ^ 22) := by
    have h := Nat.toNat_testBit a.toNat 22
    rw [BitVec.getLsbD]
    cases hb : a.toNat.testBit 22 <;> rw [hb] at h <;> simp only [Bool.toNat_false, Bool.toNat_true] at h
    · exact (decide_eq_true (by omega)).symm
    · exact (decide_eq_false (by omega)).symm
  rw [snanBits, ← isNan_value, hbit, value_fp32]
  split
  · split <;> rfl
  · split
    · split <;> rfl
    · rfl

theorem fcond_eq_fcmpOf (c : BitVec 4) (a b : Word) : fcond c a b = fcmpOf c a b := by
  unfold fcond fcmpOf
  simp only [isNan_value]
  cases hn : nanBits a || nanBits b with
  | true =>
    revert c
    exact forall_condition ⟨rfl, rfl, rfl, rfl, rfl, rfl, rfl, rfl, rfl, rfl, rfl, rfl, rfl, rfl, rfl, rfl⟩
  | false =>
    obtain ⟨ha, hb⟩ := Bool.or_eq_false_iff.1 hn
    rw [compare_value_fp32 ha hb]
    revert c
    refine forall_condition ?_
    simp [compare_eq_lt_iff, compare_eq_gt_iff]

theorem fcondFlags_eq (c : BitVec 4) (a b : Word) : fcondFlags c a b = if fcmpNv c a b then 1 else 0 := by
  unfold fcondFlags fcmpNv flagIf
  simp only [isNan_value, isSnan_value]
  congr 3
  revert c
  exact forall_condition ⟨rfl, rfl, rfl, rfl, rfl, rfl, rfl, rfl, rfl, rfl, rfl, rfl, rfl, rfl, rfl, rfl⟩

end Sys2Proof.Machine
end

section
/-! SUPPORT. The compares and predicate forms (R57, R89, R90, R93), and their checks. -/

namespace Sys2Proof.Machine

open Sys2Proof.Claims

/-- `fcmp` where no active lane's NV is lane-precise: the flags enter GFLAGS, then the predicate is written. -/
theorem fcmpComparesAndSetsNv : FcmpComparesAndSetsNv := by
  intro g p c a b f s x h hnv
  have hflags : ∀ l, l < 96 → x.act.getLsbD l = true → fcondFlags c (x.g.code x.a l) (x.g.code x.b l) &&& x.precise s = 0 := by
    intro l hl hact
    rw [fcondFlags_eq]
    split
    · next hn => rw [BitVec.and_comm]; exact hnv l hl hact hn
    · exact BitVec.zero_and
  have hp : p.toNat ≠ 7 := toNat_ne_seven (ready_not_bad h)
  have hw := ready_who h rfl
  have hexec : exec (.fcmp g p c a b f) s = execFcmp g p c a b f s := rfl
  rw [execFcmp] at hexec
  obtain ⟨u, y, hu, hran, hheld⟩ := ready_ran h hw hexec (by rw [Iss.flagLanes_untrapped hflags]; rfl)
    (((ready_leaves h hw).modGrp fun g => g.mergeFlags (x.raised fun l => fcondFlags c (x.g.code x.a l) (x.g.code x.b l))).modGrp fun g =>
      g.setP p.toNat x.act (combine f (x.g.pred p.toNat) (maskWhere fun l => fcond c (x.g.code x.a l) (x.g.code x.b l)))) rfl rfl rfl
  refine ⟨u, y, hu, hran, ?_, fun n l hl => ?_, mergedFlags_of_gflags ?_⟩
  · rw [hheld, Grp.p_of_held hheld, Grp.gflags_of_held hheld]; rfl
  · rw [Grp.pred_of_held hheld, Grp.getLsbD_pred_setP _ _ hp _ _ _ _ hl, getLsbD_combine _ _ _ _ hl, getLsbD_maskWhere _ _ hl,
      fcond_eq_fcmpOf]
    rfl
  · rw [Grp.gflags_of_held hheld, Grp.setP_gflags]
    simp only [fcondFlags_eq]
    rfl

/-! ## Checks without a pending hint (R57, R59) -/

theorem bars_illegal {i : Instr} (h : (form i).legal = false) : Bars i .illegal := by
  intro priv regs
  simp only [wordFault, h, Bool.not_false, Bool.true_or, if_true]

/-- A legal word of a group, no hint and no word with an immediate or special register, with a field out of its range. -/
theorem bars_operand {i : Instr} (hl : (form i).legal = true) (he : (form i).engine = false) (hf : (form i).fmt ≠ .H) (hs : (form i).sr = none)
    (hb : (form i).bad = true ∨ ∃ o, o ∈ (form i).opds ∧ ∀ regs, o.ok regs = false) : Bars i .operand := by
  intro priv regs
  have hhint : hintBad {} (form i) = false := by simp [hintBad, hf]
  have hbad : operandBad regs {} 0 (form i) = true := by
    rcases hb with hb | ⟨o, ho, hok⟩
    · simp [operandBad, hb]
    · have hany : ((form i).opds.any fun o => !o.ok regs) = true := List.any_eq_true.2 ⟨o, ho, by simp [hok regs]⟩
      simp [operandBad, hany]
  simp [wordFault, hl, he, hs, hhint, hbad]

theorem predicatesAreChecked : PredicatesAreChecked := by
  refine ⟨fun g p c a b f h => bars_illegal ?_, fun g p c a b f h => bars_illegal ?_, fun g c a b f h => ?_,
    fun g c a b f h => ?_, fun g q r => ⟨?_, ?_, ?_, ?_⟩, fun g => rfl⟩
  · exact decide_eq_false (by rw [BitVec.le_def]; exact Nat.not_le.2 h)
  · exact decide_eq_false (by rw [BitVec.le_def]; exact Nat.not_le.2 h)
  · exact bars_operand (decide_eq_true (BitVec.le_def.2 (Nat.le_of_lt_succ h))) rfl nofun rfl (.inl rfl)
  · exact bars_operand (decide_eq_true (BitVec.le_def.2 (Nat.le_of_lt_succ h))) rfl nofun rfl (.inl rfl)
  all_goals exact bars_operand rfl rfl nofun rfl (.inl rfl)

/-- Settles O6: the compares and predicate forms write the predicate's bit in every active lane, and check their fields. -/
theorem comparesAndPredicatesWriteActiveLanes : Obligations.ComparesAndPredicatesWriteActiveLanes :=
  ⟨predicateFormsWriteActiveLanes, fcmpComparesAndSetsNv, predicatesAreChecked⟩

end Sys2Proof.Machine
end

section
/-! SUPPORT. Words with a destination of vector or scalar code (R79), and the lists of lanes that group-wide forms go through. -/

namespace Sys2Proof.Machine

open Sys2Proof.Claims

/-! ## A destination of vector or scalar code -/

theorem Grp.sreg_setSs (g : Grp) (n : Nat) (vs : List Word) (r : Nat) :
    (g.setSs n vs).sreg r = if n ≤ r ∧ r < n + vs.length then vs.getD (r - n) 0 &&& ~~~exitedWord g.exited r else g.sreg r := by
  induction vs generalizing g n with
  | nil => simp only [Grp.setSs, List.length_nil, Nat.add_zero]; rw [if_neg (by omega)]
  | cons v vs ih =>
    rw [Grp.setSs, ih, Grp.setS_exited, Grp.sreg_setS, List.length_cons]
    by_cases hr : r = n
    · subst hr
      rw [if_neg (by omega), if_pos rfl, if_pos (by omega), Nat.sub_self, List.getD_cons_zero]
    · by_cases hin : n + 1 ≤ r ∧ r < n + 1 + vs.length
      · rw [if_pos hin, if_pos (by omega), show r - n = r - (n + 1) + 1 by omega, List.getD_cons_succ]
      · rw [if_neg hin, if_neg hr, if_neg (by omega)]

/-- What `setSs` leaves: the group with other scalars. -/
theorem Grp.setSs_eq (g : Grp) (n : Nat) (vs : List Word) : g.setSs n vs = { g with s := (g.setSs n vs).s } := by
  induction vs generalizing g n with
  | nil => rfl
  | cons v vs ih => rw [Grp.setSs, ih]; rfl

/-- A destination of vector or scalar code written: a vector in the active lanes, scalars once where a lane is active. -/
def Iss.anyGrp (x : Iss) (g : Grp) (vec : Nat → Word) (sc : List Word) : Grp :=
  if x.act = 0 then g else if x.d < 96 then g.setV x.d x.act vec else g.setSs (x.d - 96) sc

theorem Iss.anyGrp_eq (x : Iss) (g : Grp) (vec : Nat → Word) (sc : List Word) :
    x.anyGrp g vec sc = { g with v := (x.anyGrp g vec sc).v, s := (x.anyGrp g vec sc).s } := by
  unfold Iss.anyGrp
  split
  · rfl
  · split
    · rfl
    · rw [Grp.setSs_eq]

/-- Vector registers after a write to a destination of either code: scalars leave them. -/
theorem Iss.vreg_anyGrp (x : Iss) (g : Grp) (vec : Nat → Word) (sc : List Word) (r l : Nat) (hl : l < 96) :
    (x.anyGrp g vec sc).vreg r l = if x.d < 96 ∧ r = x.d ∧ x.act.getLsbD l = true then vec l else g.vreg r l := by
  unfold Iss.anyGrp
  by_cases ha : x.act = 0
  · rw [if_pos ha, if_neg (by rw [ha]; simp)]
  · by_cases hd : x.d < 96
    · rw [if_neg ha, if_pos hd, Grp.vreg_setV _ _ _ _ _ _ hl]
      simp only [hd, true_and]
    · rw [if_neg ha, if_neg hd, if_neg (fun h => hd h.1), Grp.setSs_eq]; rfl

/-- Scalars after a write to a destination of either code: a vector leaves them. -/
theorem Iss.sreg_anyGrp (x : Iss) (g : Grp) (vec : Nat → Word) (sc : List Word) (n : Nat) :
    (x.anyGrp g vec sc).sreg n = if x.act ≠ 0 ∧ 96 ≤ x.d ∧ x.d - 96 ≤ n ∧ n < x.d - 96 + sc.length
      then sc.getD (n - (x.d - 96)) 0 &&& ~~~exitedWord g.exited n else g.sreg n := by
  unfold Iss.anyGrp
  by_cases ha : x.act = 0
  · rw [if_pos ha, if_neg (fun h => h.1 ha)]
  · by_cases hd : x.d < 96
    · rw [if_neg ha, if_pos hd, if_neg (by omega)]; rfl
    · rw [if_neg ha, if_neg hd, Grp.sreg_setSs]
      simp only [ne_eq, ha, not_false_eq_true, Nat.le_of_not_lt hd, true_and]

/-- A word that merges flags and writes a destination of either code. -/
theorem ready_wroteAny {i : Instr} {s u : State} {x : Iss} {eff : Iss → State → Except State State} (f : BitVec 5) (vec : Nat → Word)
    (sc : List Word) (h : Ready i s x) (hw : x.who = .grp x.t x.k) (hexec : exec i s = word i s eff) (heff : eff x s = .ok u)
    (hu : x.Leaves s u (x.anyGrp (x.g.mergeFlags f) vec sc)) :
    ∃ w y, exec i s = .next w ∧ Ran x s w y ∧ y.gflags = x.g.gflags ||| f ∧ WroteAny x y vec sc := by
  have hany := x.anyGrp_eq (x.g.mergeFlags f) vec sc
  obtain ⟨w, y, hnext, hran, hheld⟩ := ready_ran h hw hexec heff hu (by rw [hany]; rfl) (by rw [hany]; rfl) (by rw [hany]; rfl)
  refine ⟨w, y, hnext, hran, ?_, ?_, fun r l hl => ?_, fun n => ?_⟩
  · rw [Grp.gflags_of_held hheld, hany]; rfl
  · rw [hheld, Grp.v_of_held hheld, Grp.s_of_held hheld, Grp.gflags_of_held hheld, hany]; rfl
  · rw [Grp.vreg, Grp.v_of_held hheld, ← Grp.vreg, Iss.vreg_anyGrp _ _ _ _ _ _ hl]; rfl
  · rw [Grp.sreg, Grp.s_of_held hheld, ← Grp.sreg, Iss.sreg_anyGrp]; rfl

/-- One value written to a destination of either code. -/
theorem Iss.Leaves.setAny {x : Iss} {s u : State} {g : Grp} (h : x.Leaves s u g) (hw : x.who = .grp x.t x.k) (v : Word) :
    x.Leaves s (x.setAny u v) (x.anyGrp g (fun _ => v) [v]) := by
  unfold Iss.setAny Iss.anyGrp
  split
  · exact h
  · split
    · exact h.modGrp fun g => g.setV x.d x.act fun _ => v
    · simp only [Iss.setS, hw]
      exact h.modGrp fun g => g.setS (x.d - 96) v

theorem Grp.mergeFlags_zero (g : Grp) : g.mergeFlags 0#5 = g := by
  rw [Grp.mergeFlags, BitVec.or_zero]

/-- A word that writes a destination of either code, and no flag. -/
theorem ready_wroteAny_unflagged {i : Instr} {s u : State} {x : Iss} {eff : Iss → State → Except State State} {vec : Nat → Word}
    {sc : List Word} (h : Ready i s x) (hw : x.who = .grp x.t x.k) (hexec : exec i s = word i s eff) (heff : eff x s = .ok u)
    (hu : x.Leaves s u (x.anyGrp x.g vec sc)) :
    ∃ w y, exec i s = .next w ∧ Ran x s w y ∧ y.gflags = x.g.gflags ∧ WroteAny x y vec sc := by
  rw [← x.g.mergeFlags_zero] at hu
  obtain ⟨w, y, hnext, hran, hflags, hany⟩ := ready_wroteAny 0#5 _ _ h hw hexec heff hu
  exact ⟨w, y, hnext, hran, by rw [hflags, BitVec.or_zero], hany⟩

/-- A word that writes one value to a destination of either code, and no flag. -/
theorem ready_setAny {i : Instr} {s : State} {x : Iss} {eff : Iss → State → Except State State} (v : Word) (h : Ready i s x)
    (hw : x.who = .grp x.t x.k) (hexec : exec i s = word i s eff) (heff : eff x s = .ok (x.setAny s v)) :
    ∃ w y, exec i s = .next w ∧ Ran x s w y ∧ y.gflags = x.g.gflags ∧ WroteAny x y (fun _ => v) [v] :=
  ready_wroteAny_unflagged h hw hexec heff ((ready_leaves h hw).setAny hw v)

/-! ## Lanes of a mask in ascending order -/

theorem lanesOf_and (m n : LaneMask) : lanesOf (m &&& n) = (lanesOf m).filter fun l => n.getLsbD l := by
  simp only [lanesOf, List.filter_filter, BitVec.getLsbD_and, Bool.and_comm]

theorem lanesOf_inj {m n : LaneMask} : lanesOf m = lanesOf n ↔ m = n := by
  refine ⟨fun h => ?_, congrArg lanesOf⟩
  refine BitVec.eq_of_getLsbD_eq fun l hl => ?_
  have hmem : l ∈ lanesOf m ↔ l ∈ lanesOf n := by rw [h]
  rw [mem_lanesOf, mem_lanesOf, and_iff_right hl, and_iff_right hl] at hmem
  exact Bool.eq_iff_iff.2 hmem

theorem lanesOf_pairwise (m : LaneMask) : (lanesOf m).Pairwise (· < ·) := List.pairwise_lt_range.filter _

/-- The place of an element in an ascending list is the number of elements below it. -/
theorem idxOf_eq_length_filter {ls : List Nat} (h : ls.Pairwise (· < ·)) {l : Nat} (hl : l ∈ ls) :
    ls.idxOf l = (ls.filter fun j => decide (j < l)).length := by
  induction ls with
  | nil => cases hl
  | cons a ls ih =>
    obtain ⟨ha, hls⟩ := List.pairwise_cons.1 h
    by_cases e : a = l
    · subst e
      have hnone : (ls.filter fun j => decide (j < a)) = [] := by
        rw [List.filter_eq_nil_iff]
        exact fun j hj => by simpa using Nat.le_of_lt (ha j hj)
      simp [hnone]
    · have hmem : l ∈ ls := (List.mem_cons.1 hl).resolve_left (Ne.symm e)
      rw [List.idxOf_cons, beq_false_of_ne e, cond_false, ih hls hmem, List.filter_cons_of_pos (by simpa using ha l hmem), List.length_cons]

end Sys2Proof.Machine
end

section
/-! SUPPORT. Shuffles, `bcast`, `vote` and `compact` (R91, R92, R97, R98), and the registers that they refuse. -/

namespace Sys2Proof.Machine

open Sys2Proof.Claims

/-! ## Shuffles -/

/-- Every shuffle takes the source lane of its form. -/
theorem vectorWord_of_shuffleFrom {i : Instr} {src : Nat → Nat → Int} (h : shuffleFrom i = some src) :
    VectorWord i fun x l =>
      if 0 ≤ src l (valB x l).toNat ∧ src l (valB x l).toNat ≤ 95 ∧ x.act.getLsbD (src l (valB x l).toNat).toNat = true
      then valA x (src l (valB x l).toNat).toNat else valA x l := by
  unfold shuffleFrom at h
  split at h <;> simp only [Option.some.injEq, reduceCtorEq] at h <;> subst h <;> exact ⟨rfl, fun _ => rfl⟩

/-! ## `bcast` -/

theorem bcastWritesItsResult (g : BitVec 3) (d a b : BitVec 7) (s : State) (x : Iss) (h : Ready (.bcast g d a b) s x) :
    ∃ u y, exec (.bcast g d a b) s = .next u ∧ Ran x s u y ∧ y.gflags = x.g.gflags ∧
      WroteAny x y (fun _ => if (valB x 0).toNat ≤ 95 then valA x (valB x 0).toNat else 0)
        [if (valB x 0).toNat ≤ 95 then valA x (valB x 0).toNat else 0] := by
  have hexec : exec (.bcast g d a b) s = execBcast g d a b s := rfl
  rw [execBcast] at hexec
  exact ready_setAny _ h (ready_who h rfl) hexec rfl

/-! ## `vote` -/

/-- The lanes that vote true. -/
def voters (x : Iss) : LaneMask := x.act &&& maskWhere fun l => x.g.code x.a l ≠ 0

theorem lanesOf_voters (x : Iss) : lanesOf (voters x) = voteMask x := by
  refine List.filter_congr fun l hl => ?_
  rw [voters, BitVec.getLsbD_and, getLsbD_maskWhere _ _ (List.mem_range.1 hl)]
  rfl

theorem voters_eq_zero (x : Iss) : voters x = 0 ↔ voteMask x = [] := by
  rw [← lanesOf_voters, ← lanesOf_inj]
  exact Iff.rfl

theorem voters_eq_act (x : Iss) : voters x = x.act ↔ voteMask x = activeLanes x := by
  rw [← lanesOf_voters, ← lanesOf_inj]; rfl

/-- The first element's value is everyone's where any two elements have the same. -/
theorem all_eq_head_iff (f : Nat → Word) (l : Nat) (ls : List Nat) :
    (∀ j, j ∈ ls → f j = f l) ↔ ∀ i, i ∈ l :: ls → ∀ j, j ∈ l :: ls → f i = f j := by
  refine ⟨fun h => ?_, fun h j hj => h j (List.mem_cons_of_mem _ hj) l (List.mem_cons_self ..)⟩
  have hall : ∀ i, i ∈ l :: ls → f i = f l := fun i hi => (List.mem_cons.1 hi).elim (fun e => e ▸ rfl) (h i)
  exact fun i hi j hj => (hall i hi).trans (hall j hj).symm

/-- A number that gathers bits at rising places. -/
theorem testBit_foldl_two_pow (ks : List Nat) (h : ks.Pairwise (· < ·)) (n : Nat) (hn : ∀ k, k ∈ ks → n < 2 ^ k) (j : Nat) :
    (ks.foldl (fun n k => n + 2 ^ k) n).testBit j = (n.testBit j || decide (j ∈ ks)) := by
  induction ks generalizing n with
  | nil => simp
  | cons k ks ih =>
    obtain ⟨hk, hks⟩ := List.pairwise_cons.1 h
    have hlt := hn k (List.mem_cons_self ..)
    have hstep : ∀ i, i ∈ ks → n + 2 ^ k < 2 ^ i := fun i hi =>
      calc n + 2 ^ k < 2 ^ (k + 1) := by rw [Nat.pow_succ]; omega
        _ ≤ 2 ^ i := Nat.pow_le_pow_right (by decide) (hk i hi)
    have hor : n + 2 ^ k = 2 ^ k ||| n := by rw [Nat.add_comm, ← Nat.mul_one (2 ^ k), Nat.two_pow_add_eq_or_of_lt hlt]
    rw [List.foldl_cons, ih hks _ hstep, hor, Nat.testBit_or, Nat.testBit_two_pow]
    rw [Bool.eq_iff_iff]
    simp only [List.mem_cons, Bool.or_eq_true, decide_eq_true_eq, eq_comm (a := k), or_assoc, or_left_comm]

/-- Word `b` of a mask holds the bits of the lanes of its beat. -/
theorem beatWord_eq (m : LaneMask) (b : Nat) :
    beatWord m b = BitVec.ofNat 32 (((lanesOf m).filter fun l => l / 32 = b).foldl (fun n l => n + 2 ^ (l % 32)) 0) := by
  have hks : (((lanesOf m).filter fun l => decide (l / 32 = b)).map (· % 32)).Pairwise (· < ·) := by
    rw [List.pairwise_map]
    refine ((lanesOf_pairwise m).filter _).imp_of_mem fun {i j} hi hj hij => ?_
    have hi' := of_decide_eq_true (List.mem_filter.1 hi).2
    have hj' := of_decide_eq_true (List.mem_filter.1 hj).2
    omega
  refine BitVec.eq_of_getLsbD_eq fun j hj => ?_
  rw [← List.foldl_map (f := (· % 32)) (g := fun n k => n + 2 ^ k), BitVec.getLsbD_ofNat,
    testBit_foldl_two_pow _ hks 0 (fun _ _ => Nat.two_pow_pos _), beatWord, BitVec.getLsbD_extractLsb', Nat.zero_testBit,
    Bool.false_or, Bool.eq_iff_iff]
  simp only [hj, decide_true, Bool.true_and, decide_eq_true_eq, List.mem_map, List.mem_filter, mem_lanesOf]
  constructor
  · intro hbit
    exact ⟨32 * b + j, ⟨⟨BitVec.lt_of_getLsbD hbit, hbit⟩, by omega⟩, by omega⟩
  · rintro ⟨l, ⟨⟨-, hbit⟩, hb⟩, hmod⟩
    have hl : 32 * b + j = l := by omega
    rw [hl]; exact hbit

theorem beatWord_voters (x : Iss) (b : Nat) : beatWord (voters x) b = ballotWord x b := by
  rw [beatWord_eq, lanesOf_voters]; rfl

/-- A ballot: one word for each beat, or the lane's own beat in a vector (R97). -/
theorem Iss.Leaves.setBallot {x : Iss} {s u : State} {g : Grp} (h : x.Leaves s u g) (hw : x.who = .grp x.t x.k) (w : Nat → Word) :
    ∃ v : State,
      (if x.act = 0 then .ok u else if x.d < 96 then .ok (x.setV u x.d x.act fun l => w (l / 32))
       else .ok (x.setS (x.setS (x.setS u (x.d - 96) (w 0)) (x.d - 95) (w 1)) (x.d - 94) (w 2)) : Except State State) = .ok v ∧
      x.Leaves s v (x.anyGrp g (fun l => w (l / 32)) [w 0, w 1, w 2]) := by
  unfold Iss.anyGrp
  split
  · exact ⟨u, rfl, h⟩
  · split
    · exact ⟨_, rfl, h.modGrp fun g => g.setV x.d x.act fun l => w (l / 32)⟩
    · refine ⟨_, rfl, ?_⟩
      have h1 : x.d - 95 = x.d - 96 + 1 := by omega
      have h2 : x.d - 94 = x.d - 96 + 1 + 1 := by omega
      simp only [Iss.setS, hw, h1, h2]
      exact ((h.modGrp fun g => g.setS (x.d - 96) (w 0)).modGrp fun g => g.setS (x.d - 96 + 1) (w 1)).modGrp
        fun g => g.setS (x.d - 96 + 1 + 1) (w 2)

theorem voteWritesItsResult (g : BitVec 3) (d a n : BitVec 7) (s : State) (x : Iss) (h : Ready (.vote g d a n) s x) :
    ∃ u y, exec (.vote g d a n) s = .next u ∧ Ran x s u y ∧ y.gflags = x.g.gflags ∧
      WroteAny x y (voteResult x n.toNat).1 (voteResult x n.toNat).2 := by
  have hw := ready_who h rfl
  have hexec : exec (.vote g d a n) s = execVote g d a n s := rfl
  rw [execVote] at hexec
  generalize n.toNat = k at hexec ⊢
  rcases k with _ | _ | _ | _ | k
  · refine ready_setAny _ h hw hexec (congrArg (fun b => Except.ok (x.setAny s (bit b))) ?_)
    change decide (voters x ≠ 0) = _
    simp only [ne_eq, voters_eq_zero]
    cases voteMask x <;> rfl
  · refine ready_setAny _ h hw hexec (congrArg (fun b => Except.ok (x.setAny s (bit b))) ?_)
    exact decide_eq_decide.2 (voters_eq_act x)
  · refine ready_setAny _ h hw hexec (congrArg (fun b => Except.ok (x.setAny s (bit b))) ?_)
    rw [show activeLanes x = lanesOf x.act from rfl]
    cases lanesOf x.act with
    | nil => rfl
    | cons l ls =>
      rw [Bool.eq_iff_iff]
      simp only [List.all_eq_true, decide_eq_true_eq]
      exact all_eq_head_iff (valA x) l ls
  · refine ready_setAny _ h hw hexec (congrArg (fun b => Except.ok (x.setAny s (BitVec.ofNat 32 (List.length b)))) ?_)
    exact lanesOf_voters x
  · obtain ⟨u, heff, hu⟩ := (ready_leaves h hw).setBallot hw (beatWord (voters x))
    simp only [beatWord_voters] at hu
    exact ready_wroteAny_unflagged h hw hexec heff hu

/-! ## `compact` -/

theorem wroteVector_congr {x : Iss} {y : Grp} {f f' : Nat → Word} (h : WroteVector x y f)
    (he : ∀ l, l < 96 → x.act.getLsbD l = true → f l = f' l) : WroteVector x y f' := by
  obtain ⟨hheld, hregs⟩ := h
  refine ⟨hheld, fun r l hl => ?_⟩
  rw [hregs r l hl]
  split
  · next hr => exact he l hl hr.2
  · rfl

theorem compactWritesItsResult (g : BitVec 3) (d a : BitVec 7) (s : State) (x : Iss) (h : Ready (.compact g d a) s x) :
    ∃ u y, exec (.compact g d a) s = .next u ∧ Ran x s u y ∧ WroteVector x y (compacted x g) := by
  have hv : VectorWord (.compact g d a) fun x l =>
      match (lanesOf (x.act &&& x.g.pred g.toNat))[(lanesOf x.act).idxOf l]? with
      | some j => valA x j
      | none => 0 := ⟨rfl, fun _ => rfl⟩
  obtain ⟨u, y, hu, hran, hwrote⟩ := hv.writes h
  refine ⟨u, y, hu, hran, wroteVector_congr hwrote fun l hl hact => ?_⟩
  simp only [lanesOf_and, idxOf_eq_length_filter (lanesOf_pairwise _) ((mem_lanesOf _ _).2 ⟨hl, hact⟩)]
  rfl

/-! ## The registers that are refused -/

/-- A vector operand whose code is a scalar's, and a scalar operand whose code is a vector's (R52). -/
theorem ok_of_not_vector {o : Opd} (hn : o.num = false) (hs : o.sca = false) (h : 96 ≤ o.no) (regs : Nat) : o.ok regs = false := by
  simp [Opd.ok, hn, hs, Nat.not_lt.2 h]

theorem ok_of_not_scalar {o : Opd} (hn : o.num = false) (hv : o.vec = false) (h : o.no < 96) (regs : Nat) : o.ok regs = false := by
  simp [Opd.ok, hn, hv, h]

theorem ok_of_above_max {o : Opd} (h : o.max < o.no) (regs : Nat) : o.ok regs = false := by
  simp [Opd.ok, Nat.not_le.2 h]

/-- A form with a vector destination and a vector source refuses scalar codes in both. -/
theorem bars_of_not_vectors {i : Instr} {d a : BitVec 7} (hl : (form i).legal = true) (he : (form i).engine = false) (hf : (form i).fmt = .A)
    (hs : (form i).sr = none) (hd : (form i).d = some (Operand.dst d)) (ha : (form i).a = some (Operand.vsrc a))
    (h : 96 ≤ d.toNat ∨ 96 ≤ a.toNat) : Bars i .operand := by
  refine bars_operand hl he (by rw [hf]; exact nofun) hs (.inr ?_)
  rcases h with h | h
  · exact ⟨Operand.dst d, by simp [Form.opds, hd], ok_of_not_vector rfl rfl h⟩
  · exact ⟨Operand.vsrc a, by simp [Form.opds, ha], ok_of_not_vector rfl rfl h⟩

theorem crossLaneClassesAreChecked : CrossLaneClassesAreChecked := by
  refine ⟨fun g d a b h => ⟨?_, ?_, ?_, ?_, ?_⟩, fun g d a b h => ?_, fun g d a h => ?_⟩
  iterate 5 exact bars_of_not_vectors rfl rfl rfl rfl rfl rfl h
  · refine bars_operand rfl rfl nofun rfl (.inr ?_)
    rcases h with h | h
    · exact ⟨Operand.vsrc a, List.mem_cons_of_mem _ (List.mem_cons_self ..), ok_of_not_vector rfl rfl h⟩
    · exact ⟨Operand.ssrc b, List.mem_cons_of_mem _ (List.mem_cons_of_mem _ (List.mem_cons_self ..)), ok_of_not_scalar rfl rfl h⟩
  · have hd : 96 ≤ d := BitVec.le_def.2 (Nat.le_of_lt (Nat.lt_of_le_of_lt (by decide) h))
    have hform : (form (.vote g d a 4)).d = some { Operand.anyDst d with n := 3, max := 125 } := by
      change some (if ((4 : BitVec 7) = 4 && decide (96 ≤ d)) = true then { Operand.anyDst d with n := 3, max := 125 } else Operand.anyDst d) = _
      rw [decide_eq_true hd]; rfl
    exact bars_operand rfl rfl nofun rfl (.inr ⟨{ Operand.anyDst d with n := 3, max := 125 }, by rw [Form.opds, hform]; simp, ok_of_above_max h⟩)

/-- Settles O7: the forms across lanes take what active lanes hold, and refuse registers of the other class. -/
theorem crossLaneFormsTakeActiveLanes : Obligations.CrossLaneFormsTakeActiveLanes :=
  ⟨fun _ _ _ _ hf h => (vectorWord_of_shuffleFrom hf).writes h,
    ⟨fun g d a b s x h => bcastWritesItsResult g d a b s x h, voteWritesItsResult, compactWritesItsResult⟩, crossLaneClassesAreChecked⟩

end Sys2Proof.Machine
end

section
/-! SUPPORT. Group-wide forms (R94 to R96): their operators, and their flags by lane (R121, R123). -/

namespace Sys2Proof.Machine

open Sys2Proof.Claims

/-! ## Operators and identities (R94, Table 04-6) -/

theorem laneOp_eq_opOf : ∀ (sel : Nat) (u w : Word), laneOp sel u w = opOf sel u w
  | 0, _, _ => rfl
  | 1, _, _ => rfl
  | 2, u, w => congrArg (Prod.mk · 0) (minS_eq u w)
  | 3, u, w => congrArg (Prod.mk · 0) (minN_eq u w)
  | 4, _, _ => rfl
  | 5, u, w => congrArg (Prod.mk · 0) (maxS_eq u w)
  | 6, u, w => congrArg (Prod.mk · 0) (maxN_eq u w)
  | 7, _, _ => rfl
  | 8, _, _ => rfl
  | 9, _, _ => rfl
  | _ + 10, _, _ => rfl

theorem laneIdent_eq_identityOf : ∀ sel : Nat, laneIdent sel = identityOf sel
  | 0 => rfl
  | 1 => rfl
  | 2 => rfl
  | 3 => rfl
  | 4 => rfl
  | 5 => rfl
  | 6 => rfl
  | 7 => rfl
  | 8 => rfl
  | n + 9 => by simp [laneIdent, identityOf]

/-! ## Flags of a group-wide form -/

/-- The flags that a list of additions raises for one lane. -/
def laneFlags (byLane : List (Nat × BitVec 5)) (l : Nat) : BitVec 5 := byLane.foldl (fun m e => if e.1 = l then m ||| e.2 else m) 0

theorem getLsbD_foldl_laneFlags (byLane : List (Nat × BitVec 5)) (l b : Nat) (m : BitVec 5) :
    (byLane.foldl (fun m e => if e.1 = l then m ||| e.2 else m) m).getLsbD b = true ↔
      m.getLsbD b = true ∨ ∃ e, e ∈ byLane ∧ e.1 = l ∧ e.2.getLsbD b = true := by
  induction byLane generalizing m with
  | nil => simp
  | cons e t ih =>
    rw [List.foldl_cons, ih]
    by_cases he : e.1 = l
    · simp [he, or_assoc]
    · simp [he]

theorem getLsbD_laneFlags (byLane : List (Nat × BitVec 5)) (l b : Nat) :
    (laneFlags byLane l).getLsbD b = true ↔ ∃ e, e ∈ byLane ∧ e.1 = l ∧ e.2.getLsbD b = true := by
  rw [laneFlags, getLsbD_foldl_laneFlags]
  simp

/-- Flags among some that meet a mask nowhere meet it nowhere. -/
theorem and_eq_zero_of_bits {w : Nat} {f t p : BitVec w} (h : ∀ b, f.getLsbD b = true → t.getLsbD b = true) (ht : t &&& p = 0) : f &&& p = 0 := by
  refine BitVec.eq_of_getLsbD_eq fun b hb => ?_
  have hbit : (t &&& p).getLsbD b = (0 : BitVec w).getLsbD b := by rw [ht]
  rw [BitVec.getLsbD_and] at hbit ⊢
  cases hf : f.getLsbD b with
  | false => rw [Bool.false_and]; exact BitVec.getLsbD_zero.symm
  | true => rwa [h b hf] at hbit

/-- Flags of additions made in active lanes, none of them lane-precise, enter GFLAGS. -/
theorem Iss.sumFlags_untrapped {x : Iss} {s : State} {f : BitVec 5} {byLane : List (Nat × BitVec 5)} (hf : f &&& x.precise s = 0)
    (hlanes : ∀ e, e ∈ byLane → e.1 < 96 ∧ x.act.getLsbD e.1 = true)
    (hbits : ∀ b, f.getLsbD b = true ↔ ∃ e, e ∈ byLane ∧ e.2.getLsbD b = true) :
    x.sumFlags s f byLane = .ok (x, s.modGrp x.t x.k fun g => g.mergeFlags f) := by
  have hlane : ∀ l b, (laneFlags byLane l).getLsbD b = true → f.getLsbD b = true := fun l b h => by
    obtain ⟨e, he, -, hb⟩ := (getLsbD_laneFlags _ _ _).1 h
    exact (hbits b).2 ⟨e, he, hb⟩
  have hraised : x.raised (laneFlags byLane) = f := by
    refine BitVec.eq_of_getLsbD_eq fun b _ => ?_
    rw [Bool.eq_iff_iff, getLsbD_raised]
    refine ⟨fun ⟨l, _, _, h⟩ => hlane l b h, fun h => ?_⟩
    obtain ⟨e, he, hb⟩ := (hbits b).1 h
    exact ⟨e.1, (hlanes e he).1, (hlanes e he).2, (getLsbD_laneFlags _ _ _).2 ⟨e, he, rfl, hb⟩⟩
  unfold Iss.sumFlags
  split
  · rfl
  · have hpass := Iss.flagLanes_untrapped (x := x) (s := s) (f := laneFlags byLane) fun l _ _ => and_eq_zero_of_bits (hlane l) hf
    rwa [hraised] at hpass

end Sys2Proof.Machine
end

section
/-! SUPPORT. `gred` (R95): the model's levels are those of the fixed tree. -/

namespace Sys2Proof.Machine

open Sys2Proof.Claims

/-! ## Two neighbours -/

/-- Two neighbours combined, an absent one passing the other up, and the flags of the addition between them. -/
def meetWord (sel : Nat) : Option Word → Option Word → Option Word
  | some u, some w => some (laneOp sel u w).1
  | none, w => w
  | u, none => u

def meetFlags (sel : Nat) : Option Word → Option Word → BitVec 5
  | some u, some w => (laneOp sel u w).2
  | _, _ => 0

theorem meetWord_none (sel : Nat) (u : Option Word) : meetWord sel u none = u := by cases u <;> rfl

theorem meetFlags_none (sel : Nat) (u : Option Word) : meetFlags sel u none = 0 := by cases u <;> rfl

theorem map_fst_meet (sel : Nat) (u w : Option (Word × Flags)) :
    (meet sel u w).map Prod.fst = meetWord sel (u.map Prod.fst) (w.map Prod.fst) := by
  cases u <;> cases w <;> simp [meet, meetWord, laneOp_eq_opOf]

/-- An element of the tree shows a flag. -/
def shows (b : Nat) (o : Option (Word × Flags)) : Bool := o.any fun e => e.2.getLsbD b

theorem shows_meet (sel b : Nat) (u w : Option (Word × Flags)) :
    shows b (meet sel u w) = (shows b u || shows b w || (meetFlags sel (u.map Prod.fst) (w.map Prod.fst)).getLsbD b) := by
  cases u <;> cases w <;> simp [meet, meetFlags, shows, laneOp_eq_opOf, BitVec.getLsbD_or]

/-! ## One level -/

theorem treeLevel_fst (sel : Nat) : ∀ (l : List (Option Word)) (m : Nat),
    (treeLevel sel l).1[m]?.join = meetWord sel l[2 * m]?.join l[2 * m + 1]?.join
  | [], _ => rfl
  | [_], 0 => (meetWord_none sel _).symm
  | [_], _ + 1 => rfl
  | u :: w :: _, 0 => by cases u <;> cases w <;> rfl
  | u :: w :: t, m + 1 => by
    have htail : (treeLevel sel (u :: w :: t)).1[m + 1]? = (treeLevel sel t).1[m]? := by cases u <;> cases w <;> rfl
    rw [htail, treeLevel_fst sel t m]
    rfl

theorem treeLevel_snd (sel b : Nat) : ∀ l : List (Option Word),
    (treeLevel sel l).2.getLsbD b = true ↔ ∃ m, (meetFlags sel l[2 * m]?.join l[2 * m + 1]?.join).getLsbD b = true
  | [] => by simp [treeLevel, meetFlags]
  | [_] => by
    simp only [treeLevel, BitVec.ofNat_eq_ofNat, BitVec.getLsbD_zero, Bool.false_eq_true, false_iff, not_exists]
    rintro (_ | m) <;> simp [meetFlags_none]
  | u :: w :: t => by
    have hhead : (treeLevel sel (u :: w :: t)).2.getLsbD b = true ↔
        (meetFlags sel u w).getLsbD b = true ∨ (treeLevel sel t).2.getLsbD b = true := by
      cases u <;> cases w <;> simp [treeLevel, meetFlags, or_comm]
    rw [hhead, treeLevel_snd sel b t]
    constructor
    · rintro (h | ⟨m, h⟩)
      · exact ⟨0, h⟩
      · exact ⟨m + 1, h⟩
    · rintro ⟨_ | m, h⟩
      · exact .inl h
      · exact .inr ⟨m, h⟩

/-! ## The levels of the tree -/

/-- A list of words holds level `n` of the tree, and the flags are those of the additions so far. -/
structure Level (sel : Nat) (leaf : Nat → Option (Word × Flags)) (n : Nat) (l : List (Option Word)) (f : BitVec 5) : Prop where
  words : ∀ m, l[m]?.join = (treeAt sel leaf n m).map Prod.fst
  flags : ∀ b, f.getLsbD b = true ↔ ∃ m, shows b (treeAt sel leaf n m) = true

theorem Level.step {sel : Nat} {leaf : Nat → Option (Word × Flags)} {n : Nat} {l : List (Option Word)} {f : BitVec 5}
    (h : Level sel leaf n l f) : Level sel leaf (n + 1) (treeLevel sel l).1 (f ||| (treeLevel sel l).2) := by
  refine ⟨fun m => ?_, fun b => ?_⟩
  · rw [treeLevel_fst, h.words, h.words, ← map_fst_meet]; rfl
  · have hnext : ∀ m, shows b (treeAt sel leaf (n + 1) m) = true ↔
        (shows b (treeAt sel leaf n (2 * m)) = true ∨ shows b (treeAt sel leaf n (2 * m + 1)) = true) ∨
          (meetFlags sel l[2 * m]?.join l[2 * m + 1]?.join).getLsbD b = true := fun m => by
      rw [h.words, h.words, treeAt, shows_meet, Bool.or_eq_true, Bool.or_eq_true]
    simp only [BitVec.getLsbD_or, Bool.or_eq_true, h.flags, treeLevel_snd, hnext, exists_or]
    refine or_congr_left ⟨fun ⟨m, hm⟩ => ?_, fun hm => hm.elim (fun ⟨m, hm⟩ => ⟨_, hm⟩) fun ⟨m, hm⟩ => ⟨_, hm⟩⟩
    obtain ⟨k, rfl | rfl⟩ : ∃ k, m = 2 * k ∨ m = 2 * k + 1 := ⟨m / 2, by omega⟩
    · exact .inl ⟨k, hm⟩
    · exact .inr ⟨k, hm⟩

theorem Level.reduce {sel : Nat} {leaf : Nat → Option (Word × Flags)} (k : Nat) {n : Nat} {l : List (Option Word)} {f : BitVec 5}
    (h : Level sel leaf n l f) : Level sel leaf (n + k) (treeReduce sel l k).1 (f ||| (treeReduce sel l k).2) := by
  induction k generalizing n l f with
  | zero => simpa [treeReduce] using h
  | succ k ih =>
    have hnext := ih h.step
    rw [BitVec.or_assoc, Nat.add_assoc, Nat.add_comm 1 k] at hnext
    exact hnext

/-- An element of the tree is absent where all leaves under it are. -/
theorem treeAt_eq_none (sel : Nat) (leaf : Nat → Option (Word × Flags)) (n m : Nat) :
    treeAt sel leaf n m = none ↔ ∀ l, m * 2 ^ n ≤ l → l < (m + 1) * 2 ^ n → leaf l = none := by
  have hmeet : ∀ u w, meet sel u w = none ↔ u = none ∧ w = none := fun u w => by cases u <;> cases w <;> simp [meet]
  induction n generalizing m with
  | zero =>
    simp only [treeAt, Nat.pow_zero, Nat.mul_one]
    exact ⟨fun h l h1 h2 => by rwa [show l = m by omega], fun h => h m (Nat.le_refl m) (Nat.lt_succ_self m)⟩
  | succ n ih =>
    refine (hmeet _ _).trans ((and_congr (ih (2 * m)) (ih (2 * m + 1))).trans ?_)
    have e0 : 2 * m * 2 ^ n = m * 2 ^ (n + 1) := by rw [Nat.pow_succ, Nat.mul_comm 2 m, Nat.mul_assoc, Nat.mul_comm 2]
    have e1 : (2 * m + 1) * 2 ^ n = m * 2 ^ (n + 1) + 2 ^ n := by rw [Nat.succ_mul, e0]
    have e2 : (2 * m + 1 + 1) * 2 ^ n = m * 2 ^ (n + 1) + 2 ^ n + 2 ^ n := by rw [Nat.succ_mul, e1]
    have e3 : (m + 1) * 2 ^ (n + 1) = m * 2 ^ (n + 1) + 2 ^ n + 2 ^ n := by rw [Nat.succ_mul, Nat.pow_succ]; omega
    rw [e0, e1, e2, e3]
    constructor
    · rintro ⟨h1, h2⟩ l hl hu
      by_cases hmid : l < m * 2 ^ (n + 1) + 2 ^ n
      · exact h1 l hl hmid
      · exact h2 l (Nat.le_of_not_lt hmid) hu
    · exact fun h => ⟨fun l hl hu => h l hl (by omega), fun l hl hu => h l (by omega) hu⟩

end Sys2Proof.Machine
end

section
/-! SUPPORT. `gred` (R95): the flags of the tree by lane, and the word. -/

namespace Sys2Proof.Machine

open Sys2Proof.Claims

/-! ## The tree's additions by lane (log 51) -/

/-- The words of a level that names its lanes. -/
def unnamed (l : List (Option (Nat × Word))) : List (Option Word) := l.map (Option.map Prod.snd)

theorem unnamed_treeLanes (sel : Nat) : ∀ l, unnamed (treeLanes sel l).1 = (treeLevel sel (unnamed l)).1
  | [] => rfl
  | [_] => rfl
  | u :: w :: t => by
    have ih := unnamed_treeLanes sel t
    simp only [unnamed] at ih
    cases u <;> cases w <;> simp [treeLanes, treeLevel, unnamed, ih]

theorem treeLanes_flags (sel b : Nat) : ∀ l, (∃ e, e ∈ (treeLanes sel l).2 ∧ e.2.getLsbD b = true) ↔
    (treeLevel sel (unnamed l)).2.getLsbD b = true
  | [] => by simp [treeLanes, treeLevel, unnamed]
  | [_] => by simp [treeLanes, treeLevel, unnamed]
  | u :: w :: t => by
    have ih := treeLanes_flags sel b t
    simp only [unnamed] at ih
    cases u <;> cases w <;> simp [treeLanes, treeLevel, unnamed, ih, or_comm]

/-- A level and its additions name only lanes that the level before names. -/
theorem treeLanes_lanes (sel : Nat) (p : Nat → Prop) : ∀ l : List (Option (Nat × Word)), (∀ o, o ∈ l → ∀ e, e ∈ o → p e.1) →
    (∀ o, o ∈ (treeLanes sel l).1 → ∀ e, e ∈ o → p e.1) ∧ ∀ e, e ∈ (treeLanes sel l).2 → p e.1
  | [], _ => ⟨nofun, nofun⟩
  | [_], h => ⟨h, nofun⟩
  | u :: w :: t, h => by
    obtain ⟨hu, h⟩ := List.forall_mem_cons.1 h
    obtain ⟨hw, ht⟩ := List.forall_mem_cons.1 h
    obtain ⟨hwords, hflags⟩ := treeLanes_lanes sel p t ht
    cases u with
    | none => cases w <;> exact ⟨List.forall_mem_cons.2 ⟨hw, hwords⟩, hflags⟩
    | some u =>
      cases w with
      | none => exact ⟨List.forall_mem_cons.2 ⟨hu, hwords⟩, hflags⟩
      | some w =>
        refine ⟨List.forall_mem_cons.2 ⟨fun e he => ?_, hwords⟩, List.forall_mem_cons.2 ⟨hu u rfl, hflags⟩⟩
        cases he
        exact hu u rfl

theorem treeFlags_bits (sel b : Nat) (l : List (Option (Nat × Word))) (n : Nat) :
    (∃ e, e ∈ treeFlags sel l n ∧ e.2.getLsbD b = true) ↔ (treeReduce sel (unnamed l) n).2.getLsbD b = true := by
  induction n generalizing l with
  | zero => simp [treeFlags, treeReduce]
  | succ n ih =>
    have hreduce : (treeReduce sel (unnamed l) (n + 1)).2 =
        (treeLevel sel (unnamed l)).2 ||| (treeReduce sel (unnamed (treeLanes sel l).1) n).2 := by rw [unnamed_treeLanes]; rfl
    rw [hreduce, BitVec.getLsbD_or, Bool.or_eq_true, ← ih, ← treeLanes_flags]
    simp only [treeFlags, List.mem_append, or_and_right, exists_or]

theorem treeFlags_lanes (sel : Nat) (p : Nat → Prop) (n : Nat) (l : List (Option (Nat × Word)))
    (h : ∀ o, o ∈ l → ∀ e, e ∈ o → p e.1) : ∀ e, e ∈ treeFlags sel l n → p e.1 := by
  induction n generalizing l with
  | zero => exact nofun
  | succ n ih =>
    obtain ⟨hwords, hflags⟩ := treeLanes_lanes sel p l h
    intro e he
    rcases List.mem_append.1 he with he | he
    · exact hflags e he
    · exact ih _ hwords e he

/-! ## The leaves -/

/-- The words of the active lanes, as the model lists them with their lanes. -/
def namedLeaves (x : Iss) : List (Option (Nat × Word)) :=
  (List.range 96).map fun l => if x.act.getLsbD l then some (l, x.g.code x.a l) else none

/-- The words of the active lanes. -/
def wordLeaves (x : Iss) : List (Option Word) := (List.range 96).map fun l => if x.act.getLsbD l then some (x.g.code x.a l) else none

theorem unnamed_namedLeaves (x : Iss) : unnamed (namedLeaves x) = wordLeaves x := by
  rw [unnamed, namedLeaves, wordLeaves, List.map_map]
  refine List.map_congr_left fun l _ => ?_
  simp only [Function.comp]
  split <;> rfl

theorem namedLeaves_lanes (x : Iss) : ∀ o, o ∈ namedLeaves x → ∀ e, e ∈ o → e.1 < 96 ∧ x.act.getLsbD e.1 = true := by
  intro o ho e he
  obtain ⟨l, hl, rfl⟩ := List.mem_map.1 ho
  by_cases hact : x.act.getLsbD l = true
  · rw [if_pos hact] at he
    cases he
    exact ⟨List.mem_range.1 hl, hact⟩
  · rw [if_neg hact] at he
    cases he

/-- The leaves of R95 are level 0 of the tree, with no flag yet. -/
theorem level_leaves (x : Iss) (sel : Nat) : Level sel (leafOf_ x) 0 (wordLeaves x) 0#5 := by
  refine ⟨fun m => ?_, fun b => ?_⟩
  · by_cases hm : m < 96
    · simp only [wordLeaves, treeAt, leafOf_, List.getElem?_map, List.getElem?_range hm, Option.map_some, Option.join_some, hm, true_and]
      split <;> rfl
    · simp [wordLeaves, treeAt, leafOf_, hm]
  · have hnone : ∀ m, shows b (leafOf_ x m) = false := fun m => by
      unfold leafOf_
      split
      · exact BitVec.getLsbD_zero
      · rfl
    simp [treeAt, hnone]

/-- The tree's root holds every active lane. -/
theorem root_eq_none (x : Iss) (sel : Nat) : treeAt sel (leafOf_ x) 7 0 = none ↔ x.act = 0 := by
  rw [treeAt_eq_none]
  refine ⟨fun h => BitVec.eq_of_getLsbD_eq fun l hl => ?_, fun h l _ _ => ?_⟩
  · have hleaf := h l (by omega) (by omega)
    cases hact : x.act.getLsbD l with
    | false => exact BitVec.getLsbD_zero.symm
    | true => rw [leafOf_, if_pos ⟨hl, hact⟩] at hleaf; cases hleaf
  · rw [leafOf_, h, if_neg (by simp)]

/-- The model's reduction gives the root and the flags of the additions under it. -/
theorem treeReduce_root (x : Iss) (sel : Nat) :
    (treeReduce sel (wordLeaves x) 7).1[0]?.join = (treeAt sel (leafOf_ x) 7 0).map Prod.fst ∧
      ∀ b, (treeReduce sel (wordLeaves x) 7).2.getLsbD b = true ↔ shows b (treeAt sel (leafOf_ x) 7 0) = true := by
  have hlevel := (level_leaves x sel).reduce 7
  refine ⟨hlevel.words 0, fun b => ?_⟩
  have hflags := hlevel.flags b
  rw [BitVec.zero_or] at hflags
  refine hflags.trans ⟨fun ⟨m, hm⟩ => ?_, fun h => ⟨0, h⟩⟩
  cases m with
  | zero => exact hm
  | succ m =>
    have hnone : treeAt sel (leafOf_ x) (0 + 7) (m + 1) = none :=
      (treeAt_eq_none ..).2 fun l hl _ => if_neg fun h => absurd h.1 (by omega)
    rw [hnone] at hm
    cases hm

/-! ## The word -/

/-- The flags of the tree by lane are those of its additions, each in an active lane. -/
theorem sumFlags_tree {x : Iss} {s : State} {sel : Nat} {f : BitVec 5} (hf : f &&& x.precise s = 0)
    (hflags : ∀ b, f.getLsbD b = true ↔ (treeReduce sel (wordLeaves x) 7).2.getLsbD b = true) :
    x.sumFlags s f (treeFlags sel (namedLeaves x) 7) = .ok (x, s.modGrp x.t x.k fun g => g.mergeFlags f) := by
  refine Iss.sumFlags_untrapped hf (treeFlags_lanes sel (fun l => l < 96 ∧ x.act.getLsbD l = true) 7 _ (namedLeaves_lanes x)) fun b => ?_
  rw [hflags, treeFlags_bits, unnamed_namedLeaves]

/-- The root and the flags of the model's reduction, where a lane is active. -/
theorem treeReduce_some {x : Iss} {sel : Nat} {v : Word} {f : Flags} (hr : treeAt sel (leafOf_ x) 7 0 = some (v, f)) :
    ∃ t, treeReduce sel (wordLeaves x) 7 = (some v :: t, f) := by
  obtain ⟨hroot, hflags⟩ := treeReduce_root x sel
  rw [hr] at hroot hflags
  have hf : (treeReduce sel (wordLeaves x) 7).2 = f := BitVec.eq_of_getLsbD_eq fun b _ => Bool.eq_iff_iff.2 (hflags b)
  rcases hl : (treeReduce sel (wordLeaves x) 7).1 with _ | ⟨_ | w, t⟩ <;> rw [hl] at hroot <;> cases hroot
  exact ⟨t, Prod.ext hl hf⟩

theorem treeReduce_none {x : Iss} {sel : Nat} (hr : treeAt sel (leafOf_ x) 7 0 = none) (v : Word) (t : List (Option Word)) :
    (treeReduce sel (wordLeaves x) 7).1 ≠ some v :: t := by
  intro hl
  obtain ⟨hroot, -⟩ := treeReduce_root x sel
  rw [hr, hl] at hroot
  cases hroot

/-- `gred` with an active lane: the root is written, and the flags of its additions are merged. -/
theorem gred_writes_root {g : BitVec 3} {d a n : BitVec 7} {s : State} {x : Iss} {v : Word} {f : Flags} (h : Ready (.gred g d a n) s x)
    (hr : treeAt n.toNat (leafOf_ x) 7 0 = some (v, f)) (hf : f &&& x.precise s = 0) :
    ∃ u y, exec (.gred g d a n) s = .next u ∧ Ran x s u y ∧ WroteAny x y (fun _ => v) [v] ∧ y.gflags = x.g.gflags ||| f := by
  have hw := ready_who h rfl
  have hexec : exec (.gred g d a n) s = execGred g d a n s := rfl
  rw [execGred] at hexec
  obtain ⟨t, hreduce⟩ := treeReduce_some hr
  have hsum := sumFlags_tree (s := s) hf fun b => by rw [hreduce]
  rw [wordLeaves] at hreduce
  obtain ⟨u, y, hnext, hran, hgflags, hany⟩ := ready_wroteAny f _ _ h hw hexec
    (by simp only [hreduce]; exact congrArg (Except.map fun e : Iss × State => e.1.setAny e.2 v) hsum)
    (((ready_leaves h hw).modGrp fun g => g.mergeFlags f).setAny hw v)
  exact ⟨u, y, hnext, hran, hany, hgflags⟩

/-- `gred` without an active lane leaves what its group holds. -/
theorem gred_without_lane {g : BitVec 3} {d a n : BitVec 7} {s : State} {x : Iss} (h : Ready (.gred g d a n) s x)
    (hr : treeAt n.toNat (leafOf_ x) 7 0 = none) :
    ∃ u y, exec (.gred g d a n) s = .next u ∧ Ran x s u y ∧ y.held = x.g.held := by
  have hw := ready_who h rfl
  have hexec : exec (.gred g d a n) s = execGred g d a n s := rfl
  rw [execGred] at hexec
  refine ready_ran h hw hexec ?_ (ready_leaves h hw) rfl rfl rfl
  simp only
  split
  · next v t hl => exact absurd hl (treeReduce_none hr v t)
  · rfl

/-- Settles O3: `gred` gives the root of the fixed tree, with the flags of its additions. -/
theorem gredCombinesInTheFixedTree : Obligations.GredCombinesInTheFixedTree := by
  refine ⟨by decide, fun g d a n s x h => ?_⟩
  cases hr : treeAt n.toNat (leafOf_ x) 7 0 with
  | none => exact ⟨(root_eq_none x _).1 hr, gred_without_lane h hr⟩
  | some e => exact gred_writes_root h hr

end Sys2Proof.Machine
end

section
/-! SUPPORT. `gscan` (R96): the serial scan over the active lanes. -/

namespace Sys2Proof.Machine

open Sys2Proof.Claims

/-! ## The accumulator -/

theorem accAt_active {x : Iss} {k : Nat} (sel : Nat) (h : x.act.getLsbD k = true) :
    accAt x sel (k + 1) = ((opOf sel (accAt x sel k).1 (valA x k)).1, (accAt x sel k).2 ||| (opOf sel (accAt x sel k).1 (valA x k)).2) := by
  rw [accAt, if_pos h]

theorem accAt_inactive {x : Iss} {k : Nat} (sel : Nat) (h : ¬ x.act.getLsbD k = true) : accAt x sel (k + 1) = accAt x sel k := by
  rw [accAt, if_neg h]

/-- The active lanes from `a` to before `a + n`. -/
def lanesFrom (x : Iss) (a n : Nat) : List Nat := (List.range' a n).filter fun l => x.act.getLsbD l

theorem lanesFrom_zero (x : Iss) : lanesFrom x 0 96 = lanesOf x.act := by
  rw [lanesFrom, lanesOf, List.range_eq_range']

theorem lanesFrom_active {x : Iss} {a : Nat} (n : Nat) (h : x.act.getLsbD a = true) : lanesFrom x a (n + 1) = a :: lanesFrom x (a + 1) n := by
  rw [lanesFrom, List.range'_succ, List.filter_cons_of_pos h]; rfl

theorem lanesFrom_inactive {x : Iss} {a : Nat} (n : Nat) (h : ¬ x.act.getLsbD a = true) : lanesFrom x a (n + 1) = lanesFrom x (a + 1) n := by
  rw [lanesFrom, List.range'_succ, List.filter_cons_of_neg h]; rfl

/-! ## The scan -/

/-- A scan that starts from the accumulator at a lane ends at the accumulator behind the last one, flags included. -/
theorem scan_total (x : Iss) (sel : Nat) (ex : Bool) (n a : Nat) :
    accAt x sel (a + n) = ((scan sel ex (valA x) (accAt x sel a).1 (lanesFrom x a n)).2.1,
      (accAt x sel a).2 ||| (scan sel ex (valA x) (accAt x sel a).1 (lanesFrom x a n)).2.2) := by
  induction n generalizing a with
  | zero => exact Prod.ext rfl BitVec.or_zero.symm
  | succ n ih =>
    rw [show a + (n + 1) = a + 1 + n by omega, ih (a + 1)]
    by_cases hact : x.act.getLsbD a = true
    · rw [lanesFrom_active n hact, accAt_active sel hact, scan, laneOp_eq_opOf]
      refine Prod.ext rfl ?_
      rw [BitVec.or_assoc, BitVec.or_comm (opOf ..).2]
    · rw [lanesFrom_inactive n hact, accAt_inactive sel hact]

/-- What a scan gives an active lane: the accumulator before it, or after it. -/
theorem scan_lane (x : Iss) (sel : Nat) (ex : Bool) (n a l : Nat) (hl : a ≤ l) (hu : l < a + n) (hact : x.act.getLsbD l = true) :
    ((scan sel ex (valA x) (accAt x sel a).1 (lanesFrom x a n)).1.find? fun e => decide (e.1 = l)) =
      some (l, (accAt x sel (if ex then l else l + 1)).1) := by
  induction n generalizing a with
  | zero => omega
  | succ n ih =>
    by_cases ha : x.act.getLsbD a = true
    · rw [lanesFrom_active n ha, scan, laneOp_eq_opOf]
      have hnext : (opOf sel (accAt x sel a).1 (valA x a)).1 = (accAt x sel (a + 1)).1 := by rw [accAt_active sel ha]
      rcases Nat.eq_or_lt_of_le hl with rfl | hlt
      · rw [List.find?_cons_of_pos (by simp)]
        cases ex
        · simp [hnext]
        · rfl
      · have hne : a ≠ l := Nat.ne_of_lt hlt
        rw [List.find?_cons_of_neg (by simpa using hne)]
        rw [hnext]
        exact ih (a + 1) hlt (by omega)
    · have hne : a ≠ l := fun e => ha (e ▸ hact)
      have hsame := ih (a + 1) (by omega) (by omega)
      rwa [accAt_inactive sel ha, ← lanesFrom_inactive n ha] at hsame

theorem scanFlags_bits (sel : Nat) (ex : Bool) (v : Nat → Word) (b : Nat) (acc : Word) (ls : List Nat) :
    (scan sel ex v acc ls).2.2.getLsbD b = true ↔ ∃ e, e ∈ scanFlags sel v acc ls ∧ e.2.getLsbD b = true := by
  induction ls generalizing acc with
  | nil => simp [scan, scanFlags]
  | cons l ls ih => simp [scan, scanFlags, ih, or_comm]

theorem scanFlags_lanes (sel : Nat) (v : Nat → Word) (acc : Word) (ls : List Nat) : ∀ e, e ∈ scanFlags sel v acc ls → e.1 ∈ ls := by
  induction ls generalizing acc with
  | nil => exact nofun
  | cons l ls ih => exact List.forall_mem_cons.2 ⟨List.mem_cons_self .., fun e he => List.mem_cons_of_mem _ (ih _ e he)⟩

/-! ## The word -/

theorem Grp.setV_zero (g : Grp) (r : Nat) (f : Nat → Word) : g.setV r 0 f = g := by
  have hnone : lanesOf 0 = [] := by
    rw [lanesOf, List.filter_eq_nil_iff]
    exact fun l _ => by simp
  rw [Grp.setV, hnone]
  rfl

/-- The scan's value of each lane in a vector, or its total in a scalar. -/
theorem Iss.Leaves.setScan {x : Iss} {s u : State} {g : Grp} (h : x.Leaves s u g) (hw : x.who = .grp x.t x.k) (vec : Nat → Word) (v : Word) :
    x.Leaves s (if x.d < 96 then x.setV u x.d x.act vec else x.setAny u v) (x.anyGrp g vec [v]) := by
  by_cases hd : x.d < 96
  · have hset := h.modGrp fun g => g.setV x.d x.act vec
    rw [if_pos hd, Iss.anyGrp, if_pos hd]
    by_cases ha : x.act = 0
    · rw [if_pos ha]
      rw [ha, Grp.setV_zero] at hset
      rwa [Iss.setV, ha]
    · rwa [if_neg ha]
  · have hset := h.setAny hw v
    simp only [Iss.anyGrp, if_neg hd] at hset ⊢
    exact hset

theorem wroteAny_congr {x : Iss} {y : Grp} {vec vec' : Nat → Word} {sc : List Word} (h : WroteAny x y vec sc)
    (he : ∀ l, l < 96 → x.act.getLsbD l = true → vec l = vec' l) : WroteAny x y vec' sc := by
  obtain ⟨hheld, hvregs, hsregs⟩ := h
  refine ⟨hheld, fun r l hl => ?_, hsregs⟩
  rw [hvregs r l hl]
  split
  · next hr => exact he l hl hr.2.2
  · rfl

/-- The whole scan: its total and flags are the accumulator's behind the last lane. -/
theorem scan_active (x : Iss) (sel : Nat) (ex : Bool) : ∃ r, scan sel ex (valA x) (laneIdent sel) (lanesOf x.act) = (r, accAt x sel 96) ∧
    ∀ l, l < 96 → x.act.getLsbD l = true →
      (r.find? fun e => decide (e.1 = l)) = some (l, (accAt x sel (if ex then l else l + 1)).1) := by
  have hstart : (accAt x sel 0).1 = laneIdent sel := (laneIdent_eq_identityOf sel).symm
  have htotal := scan_total x sel ex 96 0
  have hlane := fun l hl => scan_lane x sel ex 96 0 l (Nat.zero_le l) ((Nat.zero_add 96).symm ▸ hl)
  rw [hstart, lanesFrom_zero] at htotal hlane
  refine ⟨_, ?_, hlane⟩
  rw [Nat.zero_add] at htotal
  rw [htotal, show (accAt x sel 0).2 = 0#5 from rfl, BitVec.zero_or]

/-- The flags of the scan by lane are those of its additions, each in an active lane. -/
theorem sumFlags_scan {x : Iss} {s : State} {sel : Nat} {ex : Bool} {f : BitVec 5} (hf : f &&& x.precise s = 0)
    (hscan : (scan sel ex (valA x) (laneIdent sel) (lanesOf x.act)).2.2 = f) :
    x.sumFlags s f (scanFlags sel (valA x) (laneIdent sel) (lanesOf x.act)) = .ok (x, s.modGrp x.t x.k fun g => g.mergeFlags f) := by
  refine Iss.sumFlags_untrapped hf (fun e he => (mem_lanesOf _ _).1 (scanFlags_lanes _ _ _ _ e he)) fun b => ?_
  rw [← hscan, scanFlags_bits]

/-- Settles O4: `gscan` combines serially from the identity, as its accumulator does. -/
theorem gscanCombinesSerially : Obligations.GscanCombinesSerially := by
  intro g d a n s x h hf
  have hw := ready_who h rfl
  have hexec : exec (.gscan g d a n) s = execGscan g d a n s := rfl
  rw [execGscan] at hexec
  generalize n.toNat % 16 = sel at hf hexec ⊢
  obtain ⟨r, hscan, hlane⟩ := scan_active x sel (decide (16 ≤ n.toNat))
  have hsum := sumFlags_scan hf (congrArg (fun e => e.2.2) hscan)
  unfold valA at hscan
  obtain ⟨u, y, hnext, hran, hgflags, hany⟩ := ready_wroteAny (accAt x sel 96).2 _ _ h hw hexec
    (by simp only [hscan]; exact congrArg (Except.map _) hsum)
    (((ready_leaves h hw).modGrp fun g => g.mergeFlags (accAt x sel 96).2).setScan hw _ (accAt x sel 96).1)
  refine ⟨u, y, hnext, hran, hgflags, wroteAny_congr hany fun l hl hact => ?_⟩
  simp only [hlane l hl hact, decide_eq_true_eq]

end Sys2Proof.Machine
end

section
/-! SUPPORT. A fault that the team's handler may serve (R235, R372, R373), and the traps (R108, R212). -/

namespace Sys2Proof.Machine

open Sys2Proof.Claims

/-! ## What the fault's record says -/

theorem getLsbD_fragBits (fq : List Nat) (q : Nat) (hq : q < 24) : (fragBits fq).getLsbD q = fq.contains q := by
  have hfold : (fragBits fq).getLsbD q = true ↔ q ∈ fq := by
    rw [fragBits, getLsbD_foldl_or (fun q => BitVec.ofNat 24 (2 ^ q))]
    have hzero : (0 : BitVec 24).getLsbD q = false := BitVec.getLsbD_zero
    simp only [hzero, Bool.false_eq_true, false_or, BitVec.getLsbD_ofNat, hq, decide_true, Bool.true_and,
      Nat.testBit_two_pow, decide_eq_true_eq, exists_eq_right]
  rw [Bool.eq_iff_iff, hfold, List.contains_iff_mem]

theorem recorded_stop (x : Iss) (g : Grp) (c : FCode) (faux : Word) (faddr : DWord) (first : Bool) :
    Recorded x (g.stop c x.pc faux faddr (fragBits x.fq) first) c.code faux faddr first := by
  refine ⟨?_, rfl, rfl, rfl, rfl, rfl, rfl, rfl, rfl, rfl, fun q hq => getLsbD_fragBits x.fq q hq⟩
  cases c <;> rfl

/-! ## The team of a handled fault -/

theorem Tab.mem_of_find {α : Type} {t : Tab α} {k : Nat} {v : α} (h : Tab.find t k = some v) : (k, v) ∈ t := by
  induction t with
  | nil => cases h
  | cons e t ih =>
    obtain ⟨j, u⟩ := e
    by_cases hk : k = j
    · simp only [Tab.find, hk, if_true, Option.some.injEq] at h
      rw [hk, h]; exact List.mem_cons_self ..
    · simp only [Tab.find, hk, if_false] at h
      exact List.mem_cons_of_mem _ (ih h)

/-- A test of a table's values does not see an entry replaced by one that answers it alike. -/
theorem Tab.any_put {α : Type} (p : α → Bool) {t : Tab α} {k : Nat} {v w : α} (h : Tab.find t k = some v) (hp : p w = p v) :
    ((Tab.put t k w).any fun e => p e.2) = t.any fun e => p e.2 := by
  induction t with
  | nil => cases h
  | cons e t ih =>
    obtain ⟨j, u⟩ := e
    by_cases hk : k = j
    · simp only [Tab.find, hk, if_true, Option.some.injEq] at h
      simp [Tab.put, hk, hp, h]
    · simp only [Tab.find, hk, if_false] at h
      by_cases hlt : k < j
      · have hseen : p v = true → (t.any fun e => p e.2) = true := fun hv => List.any_eq_true.2 ⟨_, Tab.mem_of_find h, hv⟩
        simp only [Tab.put, hk, hlt, if_false, if_true, List.any_cons, hp]
        cases hv : p v with
        | true => rw [hseen hv]; simp
        | false => simp
      · simp [Tab.put, hk, hlt, ih h]

theorem Tab.any_modify {α : Type} (p : α → Bool) (t : Tab α) (k : Nat) (f : α → α) (hp : ∀ v, p (f v) = p v) :
    ((Tab.modify t k f).any fun e => p e.2) = t.any fun e => p e.2 := by
  unfold Tab.modify
  cases h : Tab.find t k with
  | none => rfl
  | some v => exact Tab.any_put p h (hp v)

/-- A sibling's halt reaches the groups that run, but for the one that it comes from. -/
theorem find_halt (T : Team) (k j : Nat) : Tab.find (T.halt k).groups j =
    (Tab.find T.groups j).map fun g => if j ≠ k ∧ g.run = .running ∧ g.halting.isNone then { g with halting := some 0 } else g :=
  Tab.find_map T.groups (fun j (g : Grp) => if j ≠ k ∧ g.run = .running ∧ g.halting.isNone then ({ g with halting := some 0 } : Grp) else g) j

/-- What a fault leaves of its team, where the handler may serve it. -/
def Team.faulted (T : Team) (k : Nat) (g : Grp) : Team := ({ T with groups := Tab.put T.groups k g } : Team).halt k

theorem Team.find_faulted_same (T : Team) (k : Nat) (g : Grp) : Tab.find (T.faulted k g).groups k = some g := by
  rw [Team.faulted, find_halt, Tab.find_put_same]
  simp

theorem Team.find_faulted_other (T : Team) {k j : Nat} (g : Grp) (hj : j ≠ k) {y : Grp} (hf : Tab.find T.groups j = some y)
    (hrun : y.run = .running) (hhalt : y.halting = none) : Tab.find (T.faulted k g).groups j = some { y with halting := some 0 } := by
  rw [Team.faulted, find_halt, Tab.find_put_other _ _ _ _ hj, hf]
  simp [hj, hrun, hhalt]

/-- A fault that the handler may serve is recorded in its group, and the team's other groups are told to halt. -/
theorem State.faultMark_handled {s : State} {t k : Nat} {T : Team} {g : Grp} (code : FCode) (pc : DWord) (faux : Word) (faddr : DWord)
    (frag : BitVec 24) (hT : s.team t = some T) (hg : Tab.find T.groups k = some g) (hend : T.ending = none) (hbind : T.kobj.hbind = true)
    (hctx : (s.ctx T.ctx).handler ≠ 0) (hframe : g.frame = none) :
    s.faultMark t k code pc faux faddr frag = s.modTeam t fun T' => T'.faulted k (g.stop code pc faux faddr frag !hasPrimary T) := by
  have hserves : decide ((s.ctx T.ctx).handler ≠ 0) = true := decide_eq_true hctx
  simp only [State.faultMark, hT, hg, hend, hbind, hserves, hframe, Option.isSome_none, Option.isNone_none, Bool.and_self,
    Bool.false_eq_true, if_false, if_true]
  rfl

/-- Nothing of the team has begun to end, so the fault ends nothing. -/
theorem State.faultGrp_handled {s : State} {t k : Nat} {T : Team} {g : Grp} (code : FCode) (pc : DWord) (faux : Word) (faddr : DWord)
    (frag : BitVec 24) (hT : s.team t = some T) (hg : Tab.find T.groups k = some g) (hend : T.ending = none) (hbind : T.kobj.hbind = true)
    (hctx : (s.ctx T.ctx).handler ≠ 0) (hframe : g.frame = none) :
    s.faultGrp t k code pc faux faddr frag = s.modTeam t fun T' => T'.faulted k (g.stop code pc faux faddr frag !hasPrimary T) := by
  have hteam : (s.modTeam t fun T' => T'.faulted k (g.stop code pc faux faddr frag !hasPrimary T)).team t =
      some (T.faulted k (g.stop code pc faux faddr frag !hasPrimary T)) := by
    rw [State.team_modTeam, if_pos rfl, hT]; rfl
  have hgoes : (T.faulted k (g.stop code pc faux faddr frag !hasPrimary T)).ending = none := hend
  simp only [State.faultGrp, State.faultMark_handled code pc faux faddr frag hT hg hend hbind hctx hframe, hteam, Option.any_some, hgoes,
    Option.isSome_none, Bool.false_eq_true, if_false]

/-- The team of a ready word's group, and the group in it. -/
theorem ready_team {i : Instr} {s : State} {x : Iss} (h : Ready i s x) (hc : x.onCourier = false) :
    x.who = .grp x.t x.k ∧ s.team x.t = some x.T ∧ Tab.find x.T.groups x.k = some x.g ∧ x.ctx = x.T.ctx := by
  rcases State.stand_ok h.stands with ⟨t, k, T, g, pc, -, hT, hg, -, -, -, rfl⟩ | ⟨c, y, -, -, -, -, rfl⟩
  · exact ⟨rfl, hT, hg, rfl⟩
  · cases hc

/-- A fault of a group that retires no lanes alone: REPST is set, and the group takes the fault. -/
theorem Iss.raise_eq_faultGrp (x : Iss) {s : State} (code : FCode) (faux : Word) (faddr : DWord) (hw : x.who = .grp x.t x.k)
    (hwhole : x.whole s) : ∃ r : Grp → Option (BitVec 6),
      x.raise s code faux faddr = (s.modGrp x.t x.k fun g => { g with rep := r g }).faultGrp x.t x.k code x.pc faux faddr (fragBits x.fq) := by
  have hone : s.defers x.T = false := hwhole
  simp only [Iss.raise, hw, hone, Bool.false_eq_true, if_false]
  exact ⟨_, rfl⟩

/-- What a handled fault leaves: its group's record, its team halted, and the team's other groups told to halt. -/
theorem raise_handled {i : Instr} {s : State} {x : Iss} (code : FCode) (faux : Word) (faddr : DWord) (h : Ready i s x)
    (hc : x.onCourier = false) (hwhole : x.whole s) (hhandled : Handled x s) :
    ∃ y, (x.raise s code faux faddr).grp x.t x.k = some y ∧ Recorded x y code.code faux faddr (!hasPrimary x.T) ∧
      ((x.raise s code faux faddr).team x.t).map (·.halted) = some true ∧
      ∀ j g, j ≠ x.k → s.grp x.t j = some g → g.run = .running → g.halting = none →
        ((x.raise s code faux faddr).grp x.t j).map (·.halting) = some (some 0) := by
  obtain ⟨hw, hT, hg, hctx⟩ := ready_team h hc
  obtain ⟨hbind, hhandler, hframe, hend⟩ := hhandled
  obtain ⟨r, hraise⟩ := x.raise_eq_faultGrp code faux faddr hw hwhole
  generalize hf : (fun g : Grp => { g with rep := r g }) = f at hraise
  have hT1 : (s.modGrp x.t x.k f).team x.t = some { x.T with groups := Tab.modify x.T.groups x.k f } := by
    rw [State.team_modGrp, if_pos rfl, hT]; rfl
  have hg1 : Tab.find (Tab.modify x.T.groups x.k f) x.k = some (f x.g) := by rw [Tab.find_modify_same, hg]; rfl
  have hfirst : hasPrimary { x.T with groups := Tab.modify x.T.groups x.k f } = hasPrimary x.T :=
    Tab.any_modify Grp.primary x.T.groups x.k f fun g => by rw [← hf]
  have hframe1 : (f x.g).frame = none := by rw [← hf]; exact hframe
  rw [hraise, State.faultGrp_handled code x.pc faux faddr (fragBits x.fq) hT1 hg1 hend hbind (hctx ▸ hhandler) hframe1, hfirst]
  generalize hstop : (f x.g).stop code x.pc faux faddr (fragBits x.fq) (!hasPrimary x.T) = y
  have hteam : ((s.modGrp x.t x.k f).modTeam x.t fun T' => T'.faulted x.k y).team x.t =
      some (Team.faulted { x.T with groups := Tab.modify x.T.groups x.k f } x.k y) := by
    rw [State.team_modTeam, if_pos rfl, hT1]; rfl
  refine ⟨y, ?_, ?_, ?_, fun j g hj hgj hrun hhalt => ?_⟩
  · rw [State.grp, hteam]; exact Team.find_faulted_same ..
  · rw [← hstop]; exact recorded_stop ..
  · rw [hteam]; rfl
  · have hgj1 : Tab.find (Tab.modify x.T.groups x.k f) j = some g := by
      rw [Tab.find_modify_other _ _ _ _ hj, ← hgj, State.grp, hT]; rfl
    rw [State.grp, hteam]
    exact congrArg (Option.map Grp.halting) (Team.find_faulted_other _ y hj hgj1 hrun hhalt)

theorem exec_brk (s : State) : exec .brk s = wordMove .brk s fun x s => .error (x.raise s .trap 0x80000000) := rfl
theorem exec_trap (c : BitVec 12) (s : State) :
    exec (.trap c) s = wordMove (.trap c) s fun x s => .error (x.raise s .trap (c.setWidth 32)) := rfl

/-- Settles O11: `brk` and `trap` raise TRAP with their code. -/
theorem trapsRecordTheirCode : Obligations.TrapsRecordTheirCode := by
  intro i v s x hv h
  have hexec : exec i s = .next (x.raise s .trap v) := by
    unfold trapOf at hv
    split at hv <;> simp only [Option.some.injEq, reduceCtorEq] at hv <;> subst hv
    · rw [exec_brk, ready_wordMove_ends h rfl]
    · rw [exec_trap, ready_wordMove_ends h rfl, BitVec.ofNat_toNat]
  refine ⟨hexec, fun hc hwhole hhandled => ?_⟩
  obtain ⟨y, hy, hrec, hhalt, hsib⟩ := raise_handled .trap v 0 h hc hwhole hhandled
  exact ⟨_, y, hexec, hy, hrec, hhalt, hsib⟩

end Sys2Proof.Machine
end
